-- ==== Sys2Proof/Word.lean ====
section
/-! DEFINITION. The word types of the module (R8: every register is 64 bits wide; R97: an Edley
instruction is one 32-bit word; R257, R232: memory and haulage move 64-byte lines). -/

namespace Sys2Proof

/-- A 64-bit register value, global address or g register (R8, R22, R89). -/
abbrev Word := BitVec 64

/-- One byte of memory. -/
abbrev Byte := BitVec 8

/-- A 32-bit lane, accumulator element or instruction word (R89, R97). -/
abbrev W32 := BitVec 32

/-- A 64-byte line (R257); byte k of the line is bits 8k+7..8k. -/
abbrev Line := BitVec 512

end Sys2Proof
end

