-- ==== Sys2Proof/Syntax/Types.lean ====
section
/-! DEFINITION. The operand types of the commands: who issues a register access, the raw fields of the
Edley instruction formats (Table 4.5), and what an event command carries from the outside world. -/

namespace Sys2Proof

/-- The source of a BAR0, BAR2 or BAR4 access: the physical function, virtual function `i` (1 to 8, R323), or
firmware through the MMIO alias (R27): that of the Overman, and privileged tile firmware, which the spec gives the same access and no registers of its own. -/
inductive Func where
  | pf
  | vf (i : Nat)
  | overman
deriving DecidableEq, Repr

/-- The width of a register access (R9). -/
inductive Size where
  | b1
  | b2
  | b4
  | b8
deriving DecidableEq, Repr

/-- One Edley core: the physical tile, and which of its two cores (R86). -/
structure CoreRef where
  tile  : Nat
  mover : Bool
deriving DecidableEq, Repr

/-- Format R of Table 4.5. -/
structure FmtR where
  rd : BitVec 5
  ra : BitVec 5
  rb : BitVec 5
  fn : BitVec 11
deriving DecidableEq, Repr

/-- Format I of Table 4.5. -/
structure FmtI where
  rd  : BitVec 5
  ra  : BitVec 5
  imm : BitVec 16
deriving DecidableEq, Repr

/-- Format M of Table 4.5. -/
structure FmtM where
  rd   : BitVec 5
  ra   : BitVec 5
  sz   : BitVec 2
  sx   : BitVec 1
  soff : BitVec 13
deriving DecidableEq, Repr

/-- Format B of Table 4.5. -/
structure FmtB where
  p    : BitVec 3
  neg  : BitVec 1
  soff : BitVec 22
deriving DecidableEq, Repr

/-- Format J of Table 4.5. -/
structure FmtJ where
  rd   : BitVec 5
  soff : BitVec 21
deriving DecidableEq, Repr

/-- Format V of Table 4.5. -/
structure FmtV where
  wd  : BitVec 5
  wa  : BitVec 5
  wb  : BitVec 5
  rm  : BitVec 3
  ty  : BitVec 2
  sat : BitVec 1
  fn  : BitVec 5
deriving DecidableEq, Repr

/-- Format F of Table 4.5. -/
structure FmtF where
  wd  : BitVec 5
  wa  : BitVec 5
  wb  : BitVec 5
  wc  : BitVec 5
  rm  : BitVec 3
  ty  : BitVec 2
  sat : BitVec 1
deriving DecidableEq, Repr

/-- Format K of Table 4.5. -/
structure FmtK where
  wd   : BitVec 5
  wa   : BitVec 5
  fs   : BitVec 4
  fd   : BitVec 4
  rm   : BitVec 3
  sat  : BitVec 1
  part : BitVec 3
  rsv  : BitVec 1
deriving DecidableEq, Repr

/-- Format Q of Table 4.5. -/
structure FmtQ where
  wd   : BitVec 5
  wa   : BitVec 5
  rd   : BitVec 5
  rm   : BitVec 3
  part : BitVec 3
  ty   : BitVec 2
  rsv  : BitVec 3
deriving DecidableEq, Repr

/-- Format Y of Table 4.5. -/
structure FmtY where
  wd : BitVec 5
  wa : BitVec 5
  gr : BitVec 5
  gc : BitVec 5
  pm : BitVec 3
  fn : BitVec 3
deriving DecidableEq, Repr

/-- Format X of Table 4.5. -/
structure FmtX where
  a   : BitVec 6
  b   : BitVec 6
  fa  : BitVec 4
  fb  : BitVec 4
  clr : BitVec 1
  gk  : BitVec 5
deriving DecidableEq, Repr

/-- Format D of Table 4.5. -/
structure FmtD where
  dd  : BitVec 4
  fmt : BitVec 4
  rm  : BitVec 3
  sat : BitVec 1
  sk  : BitVec 2
  ss  : BitVec 5
  be  : BitVec 1
  bd  : BitVec 4
  rsv : BitVec 2
deriving DecidableEq, Repr

/-- Format S of Table 4.5. -/
structure FmtS where
  dir : BitVec 2
  st  : BitVec 2
  sx  : BitVec 5
  rsv : BitVec 1
  cnt : BitVec 16
deriving DecidableEq, Repr

/-- What an access meets in the words that it reads: a word index within the line or beat, the stored bit positions (0 to 63 data, 64 to 79 check, R263) that have
flipped since the word was last written, and the bits of V in which the address that the access reads differs from the word's own (R134, R265). -/
abbrev Upset := List (Nat × BitVec 80 × BitVec 48)

/-- What a drift link does to the beats of a stream (R157): beat of the stream, word of the beat, and the bits of its 80 that arrive wrong. -/
abbrev LinkNoise := List (Nat × Nat × BitVec 80)

/-- Who makes an access to memory (R27, R144, R149, R177, R178, Table 12.3): a core of the task in a slot, an engine acting for
partition `p` (the TGE, DMA rings, the Assay unit, log and security engines), the PF's own rings and engines acting with its rights, the Seam Engine of a device ID, a host function
through BAR2, a unit of a peer module (source device ID, unit code and logical tile of its packet), or privileged firmware. -/
inductive Requester where
  | task (slot tile : Nat)
  | engine (p : Nat)
  | pf (p : Nat)
  | seam (id : Nat)
  | host (f : Func)
  | peer (id unit tile : Nat)
  | firmware
deriving DecidableEq, Repr

/-- How a haul request ends (R119, R241, R304): done, or the error its path reports. -/
inductive HaulErr where
  | ok
  | refused (code : Nat)
  | timeout
  | unreachable
  | hostAbort
  | hostTimeout
  | uncorrectable
deriving DecidableEq, Repr

/-- What the partner check reads from a contrail lease (R202, R203). -/
structure LeaseHdr where
  ok    : Bool
  words : List Word
deriving DecidableEq, Repr

/-- A stop of the haulage network (Table 9.1): die, and position on its row rings (X) and its column rings (Y). -/
structure Stop where
  die : BitVec 2
  x   : BitVec 5
  y   : BitVec 5
deriving DecidableEq, Repr

/-- CLASS of a flit (Table 9.3). -/
inductive FlitClass where
  | request
  | response
  | message
  | control
deriving DecidableEq, Repr

/-- The fields of a flit's side-band that depend on MCAST (Table 9.3). A multicast travels a row, or a column, of one die. -/
inductive FlitRoute where
  | uni (dst src : Stop) (tag : BitVec 16) (part : BitVec 3) (status : BitVec 8)
  | multi (die : BitVec 2) (column : Bool) (index : BitVec 5) (mask miss : BitVec 18) (relay : BitVec 16) (srcX srcY : BitVec 5) (tag : BitVec 16)
deriving DecidableEq, Repr

/-- A flit (R234): its class, SEQ, FLITS (flits of the packet less one), AGE, and the fields that depend on MCAST. -/
structure Flit where
  cls   : FlitClass
  seq   : BitVec 5
  more  : BitVec 5
  age   : BitVec 32
  route : FlitRoute
deriving DecidableEq, Repr

/-- What the check of a flit's side-band finds at a stop (R235). -/
inductive FlitFault where
  | clean
  | corrected
  | sidebandUE
deriving DecidableEq, Repr

/-- What a request meets on its way to a memory device (R255): link errors corrected (Tier 2), and whether a parity error repeated its command (Tier 1). -/
structure MemLink where
  ce    : Nat
  retry : Bool
deriving DecidableEq, Repr

/-- What a device reports at a refresh (R255): its temperature in °C, the rate that its temperature register asks for (Tier 2), and errors that its on-die error
check and scrub has counted since the last one (Tier 1). -/
structure MemDies where
  temp : Nat
  rate : BitVec 2
  ecs  : Nat
deriving DecidableEq, Repr

/-- Why a controller reads a word (Table 10.10 SOURCE): a requester of partition `p`, scrub, the read half of a partial write,
or the copy of a soft repair. -/
inductive Reader where
  | requester (p : Nat)
  | scrub
  | rmw
  | repairCopy
deriving DecidableEq, Repr

/-- A DOUT (R116, R157): the fields of its word, and what the link that it drives does to its beats. -/
structure StreamOut where
  i     : FmtS
  noise : LinkNoise
deriving DecidableEq, Repr

/-- The rest of a MSG RECV (R122, R248): bits 10 to 4 of its word, and the stored bits of the entry's words that are wrong. -/
structure RecvArgs where
  hi    : BitVec 7
  upset : List (Nat × BitVec 80)
deriving DecidableEq, Repr

/-- Where a flit asks to enter a ring (R239): the position of its stop, and its source there. -/
structure EntryPoint where
  pos    : Nat
  source : Nat
deriving DecidableEq, Repr

/-- What the checks of an arriving flit meet (R235): its side-band's, and the upsets of its body's words. -/
structure FlitSeen where
  fault : FlitFault
  upset : Upset
deriving DecidableEq, Repr

/-- What waits for a response of the network (R238, R241): a core's HGET or HPUT by its number, or a SEAM or ASSAY command by its tag. -/
inductive Waited where
  | request (id : Nat)
  | command (tag : Nat)
deriving DecidableEq, Repr

/-- A multicast that has not returned (R246): its number, and the stops that had accepted it, which its source does not know. -/
structure CastLost where
  id    : Nat
  taken : BitVec 18
deriving DecidableEq, Repr

/-- Who asks a controller to read (R257): the reader, and the AGE of the request. -/
structure MemAsker where
  reader : Reader
  age    : BitVec 32
deriving DecidableEq, Repr

/-- What a read meets (R255, R264): upsets of the stored words, and the way to the device. -/
structure MemMet where
  upset : Upset
  link  : MemLink
deriving DecidableEq, Repr

/-- A write to a controller (R257, R266): its 64 bytes, the AGE of the request, and the way to the device. -/
structure MemStore where
  data : BitVec 512
  age  : BitVec 32
  link : MemLink
deriving DecidableEq, Repr

/-- A refresh of a bank (R255), and what the device reports at it. -/
structure BankRefresh where
  bank : Nat
  dies : MemDies
deriving DecidableEq, Repr

/-- A received link block (R276 to R279): the positions of the wrong symbols in each of its two codewords (more than 15 are uncorrectable, R277), and what the codewords carry once they
are corrected: the header (Table 11.2) and the payload, extended with zeros to 1,280 bytes. -/
structure LinkBlock where
  wrong   : List (List Nat)
  head    : BitVec 40
  payload : List Byte
deriving DecidableEq, Repr

/-- A transport packet: the header fields of Table 12.1 and the payload lines. `w5` is word 5 (GROUP_TAG, SEQ and RANK of a collective, T2 of a BEACON_RESP)
and `bound` word 6 (BOUND, or T3). `ctr` and `sess` are the counter and SESSION_ID of the tag flit (R403), and `wire` the payload and tag flits as they travel where ENC is 1.
`reserved` is set when OP or a reserved bit breaks R298. -/
structure Packet where
  op       : Nat
  dst      : Nat
  src      : Nat
  epoch    : Nat
  unit     : Nat
  enc      : Bool
  lines    : Nat
  plane    : Nat
  opId     : Nat
  tile     : Nat
  target   : Word
  time     : Nat
  status   : Nat
  lineMask : Nat
  echo     : Nat
  hkind    : Nat
  w5       : Word
  bound    : Word
  ctr      : Nat
  sess     : Nat
  reserved : Bool
  payload  : List Byte
  wire     : List Byte
deriving DecidableEq, Repr

/-- The levels whose bound can pass (Table 15.9). -/
inductive EscLevel where
  | context (slot : Nat)
  | engine (kind : Nat) (ix : Nat)
  | partition (p : Nat)
  | device
deriving DecidableEq, Repr

/-- How a phase of the boot ends. -/
inductive BootVerdict where
  | ok
  | degraded
  | failed (code : BitVec 8)
deriving DecidableEq, Repr

/-- One failure entry of a self-test (Table 17.4): UNIT_KIND, UNIT_INDEX, TEST, ARRAY, ACTION, ADDRESS, BIT, BANK, BITS and SIGNATURE. -/
structure FailEntry where
  kind   : Nat
  unit   : Nat
  test   : Nat
  array  : Nat
  action : Nat
  addr   : Nat
  bit    : Nat
  bank   : Nat
  bits   : Nat
  sig    : Nat
deriving DecidableEq, Repr

/-- How the host reads of a DMA descriptor ended (R334): with data, with Unsupported Request or Completer Abort, or not at all within the completion timeout. -/
inductive HostRead where
  | given
  | refused
  | timedOut
deriving DecidableEq, Repr

/-- A PCI Express configuration write (R321, R323, R325): NumVFs, the size of BAR2, the power state, Max Payload Size and Max Read Request Size (log2 of 128-byte units), the
completion timeout value, MSI-X Enable and its function mask, bus mastering, and a write of ones to AER status bits. -/
inductive CfgWrite where
  | numVfs (n : Nat)
  | bar2Size (log2 : Nat)
  | power (d3hot : Bool)
  | maxPayload (k : Nat)
  | maxRead (k : Nat)
  | timeout (v : BitVec 4)
  | msixEnable (on : Bool)
  | msixMask (on : Bool)
  | master (on : Bool)
  | aerClear (bits : BitVec 32)
deriving DecidableEq, Repr

end Sys2Proof
end

