-- ==== Sys2Proof/Syntax.lean ====
section
/-! DEFINITION. The commands of the module: one constructor for each row of spec/opcode_table.json, with the row's operands.
Each docstring is the row's rule and its summary. -/

namespace Sys2Proof

/-- A command: a register access, an Edley instruction issued by a core, a bus or protocol event, or a pin event. -/
inductive Instr where
  /-- REGISTER_WRITE (R9): A BAR0 write to a register with no row of its own sets its fields under the access codes, LOCK and the reserved-field rules. -/
  | registerWrite (f : Func) (off : Nat) (size : Size) (v : BitVec 64)
  /-- SECTION_APPLY_GO (R18): A write of 1 to GLB_SECTION_APPLY.GO is ignored, refused, starts an apply, or waits for a re-placement in progress. -/
  | sectionApplyGo (f : Func) (v : BitVec 64)
  /-- SECTION_APPLY_START (R172): An apply that waited for a re-placement starts when the re-placement completes, and the Table 1.6 checks are made then. -/
  | sectionApplyStart
  /-- SECTION_APPLY_COMPLETE (R18): The apply takes effect for every changing section, GLB_SECTION_ACTIVE updates and RESULT becomes applied. -/
  | sectionApplyComplete
  /-- TICK_BOUNDARY (R55): At each Tick boundary TICK_NOW increments, running tasks overrun, and budgets, caps, switches, claims and releases take effect. -/
  | tickBoundary
  /-- TICK_SWITCH_ARM (R31): A non-zero write to TGE_TICK_SWITCH arms or replaces a period switch, or sets SWITCH_ERR. -/
  | tickSwitchArm (f : Func) (v : BitVec 64)
  /-- TICK_SWITCH_CANCEL (R31): A write of 0 to TGE_TICK_SWITCH cancels an armed switch and clears PENDING and SWITCH_ERR. -/
  | tickSwitchCancel (f : Func)
  /-- TICK_CTL_WRITE (R31): A write to TGE_TICK_CTL sets PERIOD_NEXT, or is ignored while a switch is pending. -/
  | tickCtlWrite (f : Func) (v : BitVec 64)
  /-- SQ_TAIL_DOORBELL (R41): A write to word 0 of a queue's doorbell page sets the submission tail, or is ignored with DOORBELL_RANGE. -/
  | sqTailDoorbell (f : Func) (q : Nat) (v : BitVec 64)
  /-- CQ_HEAD_DOORBELL (R43): A write to word 1 of a queue's doorbell page sets the completion head and frees ring space for held records. -/
  | cqHeadDoorbell (f : Func) (q : Nat) (v : BitVec 64)
  /-- GRAPH_HEADER_FETCH (R39): The front end fetches the oldest pending graph header within the in-flight limits and checks it. -/
  | graphHeaderFetch
  /-- GRAPH_VALIDATE (R37): When the graph's arrays have been fetched, the graph is validated in full and either admitted to WAITING or completed as invalid or unsatisfiable. -/
  | graphValidate
  /-- SQ_CTL_WRITE (R42): A write to TGE_SQ_CTL enables or stops fetching for a queue, or sets CFG_ERR. -/
  | sqCtlWrite (f : Func) (q : Nat) (v : BitVec 64)
  /-- CQ_CTL_WRITE (R42): A write to TGE_CQ_CTL enables the writing of records, releasing held ones, or sets CFG_ERR. -/
  | cqCtlWrite (f : Func) (q : Nat) (v : BitVec 64)
  /-- SLOT_GRANT (R47): The lowest free task slot is granted to the oldest ELIGIBLE task, which becomes READY with a new epoch. -/
  | slotGrant
  /-- ADMISSION (R48): The front end examines a READY task against the time, energy and region tests and admits it onto a placed region. -/
  | admission
  /-- TASK_LAUNCH (R88): When the image load completes, the header and sentinel block are checked and the region starts or the task faults. -/
  | taskLaunch (slot : Nat)
  /-- TASK_END_EVENT (R46): When every end condition holds before the closing boundary, the task becomes DONE and frees its slot. -/
  | taskEndEvent (slot : Nat)
  /-- REGION_RESET_COMPLETE (R57): A region's context reset completes and the task leaves RESETTING for READY, FAULTED or CANCELLED. -/
  | regionResetComplete (slot : Nat)
  /-- COMPLETION_RECORD_WRITE (R45): A released completion record is written into its ring in release order once no condition holds it. -/
  | completionRecordWrite (q : Nat)
  /-- GATE_VALUE_WRITE (R54): A write to a gate's VALUE sets it and WAIT_EN conditions are evaluated again. -/
  | gateValueWrite (f : Func) (p : Nat) (g : Nat) (v : BitVec 64)
  /-- GATE_ADD (R54): A write to TGE_GATE_ADD adds to a gate modulo 2^32 and WAIT_EN conditions are evaluated again. -/
  | gateAdd (f : Func) (v : BitVec 64)
  /-- GRAPH_CANCEL (R54): A write to TGE_GRAPH_CANCEL cancels every unadmitted task of the matching graphs in flight. -/
  | graphCancel (f : Func) (v : BitVec 64)
  /-- ADMIT_CTL_WRITE (R53): A write to TGE_ADMIT_CTL pauses admission at once or enables it from the next boundary. -/
  | admitCtlWrite (f : Func) (v : BitVec 64)
  /-- ILLEGAL_INSTR (R98): A fetched word with a reserved major opcode raises ILLEGAL_INSTR and faults the task. -/
  | illegalInstr (c : CoreRef) (w : BitVec 32)
  /-- ALU (R100): The ALU instruction computes a 64-bit scalar operation selected by fn. -/
  | alu (c : CoreRef) (i : FmtR)
  /-- ADDI (R101): ADDI adds a sign-extended immediate to a register. -/
  | addi (c : CoreRef) (i : FmtI)
  /-- ANDI (R101): ANDI ANDs a zero-extended immediate with a register. -/
  | andi (c : CoreRef) (i : FmtI)
  /-- ORI (R101): ORI ORs a zero-extended immediate with a register. -/
  | ori (c : CoreRef) (i : FmtI)
  /-- XORI (R101): XORI XORs a zero-extended immediate with a register. -/
  | xori (c : CoreRef) (i : FmtI)
  /-- SHI (R101): SHI shifts or rotates a register by an immediate amount. -/
  | shi (c : CoreRef) (i : FmtI)
  /-- IMMC (R101): IMMC shifts a register left by 16 and inserts a 16-bit immediate. -/
  | immc (c : CoreRef) (i : FmtI)
  /-- CMP (R101): CMP writes a predicate from a comparison of two registers. -/
  | cmp (c : CoreRef) (i : FmtR)
  /-- CMPI (R101): CMPI writes a predicate from a comparison of a register with an immediate. -/
  | cmpi (c : CoreRef) (i : FmtI)
  /-- PRD_LOGIC (R101): PAND, POR, PXOR and PANDN combine two predicates. -/
  | prdLogic (c : CoreRef) (op : BitVec 2) (rd : BitVec 5) (ra : BitVec 5) (rb : BitVec 5)
  /-- PFROMG (R101): PFROMG writes a predicate from a general register. -/
  | pfromg (c : CoreRef) (rd : BitVec 5) (ra : BitVec 5) (rb : BitVec 5)
  /-- PTOG (R101): PTOG writes a general register from a predicate. -/
  | ptog (c : CoreRef) (rd : BitVec 5) (ra : BitVec 5) (rb : BitVec 5)
  /-- SEL (R101): SEL selects one of two registers by a predicate bit. -/
  | sel (c : CoreRef) (i : FmtR)
  /-- BR (R102): BR branches relative to the PC when the predicate test holds. -/
  | br (c : CoreRef) (i : FmtB)
  /-- JAL (R102): JAL writes the link register and jumps relative to the PC. -/
  | jal (c : CoreRef) (i : FmtJ)
  /-- JALR (R102): JALR writes the link register and jumps to a register plus an offset. -/
  | jalr (c : CoreRef) (i : FmtI)
  /-- LOOP (R103): LOOP starts a hardware loop over the following instructions for a counted number of passes. -/
  | loop (c : CoreRef) (i : FmtI)
  /-- LD (R105): LD loads 1 to 8 bytes of the tile store into a register. -/
  | ld (c : CoreRef) (i : FmtM)
  /-- ST (R105): ST stores 1 to 8 bytes of a register into the tile store through the gather buffer. -/
  | st (c : CoreRef) (i : FmtM)
  /-- WLD (R105): WLD loads 256 bytes into a wide register. -/
  | wld (c : CoreRef) (i : FmtI)
  /-- WST (R105): WST stores a wide register as 256 bytes. -/
  | wst (c : CoreRef) (i : FmtI)
  /-- DLD (R105): DLD loads a tensor descriptor from the tile store. -/
  | dld (c : CoreRef) (i : FmtI)
  /-- DST (R105): DST stores a tensor descriptor to the tile store. -/
  | dst (c : CoreRef) (i : FmtI)
  /-- DSET (R105): DSET writes one word of a descriptor from a register. -/
  | dset (c : CoreRef) (rd : BitVec 5) (ra : BitVec 5) (rb : BitVec 5) (word : BitVec 2) (hi : BitVec 8)
  /-- DGET (R105): DGET reads one word of a descriptor into a register. -/
  | dget (c : CoreRef) (rd : BitVec 5) (ra : BitVec 5) (rb : BitVec 5) (word : BitVec 2) (hi : BitVec 8)
  /-- STOP_FILL (R105): STOP FILL queues a fill of a store range with an 8-byte pattern on the store engine. -/
  | stopFill (c : CoreRef) (rd : BitVec 5) (ra : BitVec 5) (rb : BitVec 5)
  /-- STOP_COPY (R105): STOP COPY queues a copy between store ranges on the store engine. -/
  | stopCopy (c : CoreRef) (rd : BitVec 5) (ra : BitVec 5) (rb : BitVec 5)
  /-- STORE_ENGINE_COMPLETE (R143): A store-engine operation completes and the next queued operation starts. -/
  | storeEngineComplete (tile : Nat)
  /-- VOP (R107): VOP applies an elementwise floating-point operation to two wide registers. -/
  | vop (c : CoreRef) (i : FmtV)
  /-- VFMA (R107): VFMA computes a fused multiply-add per lane with one rounding. -/
  | vfma (c : CoreRef) (i : FmtF)
  /-- VCMP (R107): VCMP writes a predicate from a per-lane comparison. -/
  | vcmp (c : CoreRef) (i : FmtV)
  /-- VSEL (R107): VSEL selects lanes of two wide registers by a predicate. -/
  | vsel (c : CoreRef) (i : FmtV)
  /-- VCVT (R108): VCVT converts 64 lanes between FP32 and one other format. -/
  | vcvt (c : CoreRef) (i : FmtK)
  /-- VSFU (R107): VSFU applies exp2, log2, rcp or rsqrt per lane. -/
  | vsfu (c : CoreRef) (i : FmtV)
  /-- VRED (R107): VRED reduces the lanes of a wide register by sum, max or min into a general register. -/
  | vred (c : CoreRef) (i : FmtV)
  /-- VQNT (R109): VQNT block-quantises 64 values into two MXFP4 blocks and returns their scales. -/
  | vqnt (c : CoreRef) (i : FmtQ)
  /-- VSMX_STEP (R110): VSMX step updates one online-softmax row state and returns p and c. -/
  | vsmxStep (c : CoreRef) (i : FmtY)
  /-- VSMX_RESET (R110): VSMX reset sets every softmax state pair to (-inf, +0). -/
  | vsmxReset (c : CoreRef) (i : FmtY)
  /-- VSMX_READ_M (R110): VSMX read m returns the row maxima as a wide register. -/
  | vsmxReadM (c : CoreRef) (i : FmtY)
  /-- VSMX_READ_S (R110): VSMX read s returns the row sums as a wide register. -/
  | vsmxReadS (c : CoreRef) (i : FmtY)
  /-- VZERO (R107): VMOV VZERO clears a wide register. -/
  | vzero (c : CoreRef) (i : FmtV)
  /-- VCOPY (R107): VMOV VCOPY copies a wide register. -/
  | vcopy (c : CoreRef) (i : FmtV)
  /-- VBCAST (R107): VMOV VBCAST broadcasts a general register into every element. -/
  | vbcast (c : CoreRef) (i : FmtV)
  /-- VEXT (R107): VMOV VEXT extracts one element into a general register. -/
  | vext (c : CoreRef) (i : FmtV)
  /-- VINS (R107): VMOV VINS inserts a general register into one element. -/
  | vins (c : CoreRef) (i : FmtV)
  /-- VINT (R107): VINT applies a 32-bit integer operation per lane. -/
  | vint (c : CoreRef) (i : FmtV)
  /-- ACCRD (R111): ACCRD reads one accumulator row into a wide register. -/
  | accrd (c : CoreRef) (i : FmtI)
  /-- MMA (R112): MMA checks its operands at issue and accumulates K steps of a 64x64 product. -/
  | mma (c : CoreRef) (i : FmtX)
  /-- MMA_COMPLETE (R73): The last rounding of an MMA reaches the accumulator and it becomes readable. -/
  | mmaComplete (tile : Nat)
  /-- MDRAIN (R113): MDRAIN converts the accumulator row by row into the tile store with scale and bias. -/
  | mdrain (c : CoreRef) (i : FmtD)
  /-- MDRAIN_COMPLETE (R75): The last drained row is written and the drain completes. -/
  | mdrainComplete (tile : Nat)
  /-- SNCHK (R123): SNCHK passes lanes through a sentinel set or ends a row. -/
  | snchk (c : CoreRef) (i : FmtV)
  /-- SENTINEL_TRIP (R345): A sentinel check trips and raises SENTINEL_TRIP with its trip word against the task. -/
  | sentinelTrip (tile : Nat)
  /-- DOUT (R116): DOUT streams beats from a descriptor, or forwards beats from an input, onto a drift output. -/
  | dout (c : CoreRef) (x : StreamOut)
  /-- DIN (R116): DIN captures beats from a drift input and writes them through a descriptor. -/
  | din (c : CoreRef) (i : FmtS)
  /-- DWAIT (R118): DWAIT stalls the core until a schedule cycle, or raises DRIFT_LATE. -/
  | dwait (c : CoreRef) (t : BitVec 26)
  /-- DWAIT_EXPIRE (R118): The DWAIT target cycle is reached and the next instruction issues. -/
  | dwaitExpire (c : CoreRef)
  /-- HGET (R119): HGET issues a transfer from a global address into the tile store. -/
  | hget (c : CoreRef) (i : FmtR)
  /-- HPUT (R119): HPUT issues a transfer from the tile store to a global address. -/
  | hput (c : CoreRef) (i : FmtR)
  /-- HAUL_REQUEST_COMPLETE (R119): A haul request completes, raising any asynchronous exception of its refusal or error. -/
  | haulRequestComplete (c : CoreRef) (id : Nat) (err : HaulErr)
  /-- FENCE_STORE (R120): FENCE kind 0 waits for the core's stores and STOP operations to be visible. -/
  | fenceStore (c : CoreRef) (rd : BitVec 5) (ra : BitVec 5) (hi : BitVec 12)
  /-- FENCE_HAUL (R120): FENCE kind 1 waits for the core's HGET and HPUT requests. -/
  | fenceHaul (c : CoreRef) (rd : BitVec 5) (ra : BitVec 5) (hi : BitVec 12)
  /-- FENCE_REMOTE (R120): FENCE kind 2 waits for the remote ordering point of the core's remote writes. -/
  | fenceRemote (c : CoreRef) (rd : BitVec 5) (ra : BitVec 5) (hi : BitVec 12)
  /-- FENCE_CMD (R120): FENCE kind 3 waits for the core's SEAM and ASSAY completions. -/
  | fenceCmd (c : CoreRef) (rd : BitVec 5) (ra : BitVec 5) (hi : BitVec 12)
  /-- FENCE_HAUL_COUNT (R120): FENCE kind 4 waits until HAUL_OUT is at most a register value. -/
  | fenceHaulCount (c : CoreRef) (rd : BitVec 5) (ra : BitVec 5) (hi : BitVec 12)
  /-- MSG_SEND (R122): MSG SEND sends a 64-byte message to a request queue and returns a tag. -/
  | msgSend (c : CoreRef) (rd : BitVec 5) (ra : BitVec 5) (rb : BitVec 5) (hi : BitVec 7)
  /-- MSG_REQ (R122): MSG REQ reserves a reply slot and sends a request message. -/
  | msgReq (c : CoreRef) (rd : BitVec 5) (ra : BitVec 5) (rb : BitVec 5) (hi : BitVec 7)
  /-- MSG_REPLY (R122): MSG REPLY sends a reply to the requester's reply queue. -/
  | msgReply (c : CoreRef) (rd : BitVec 5) (ra : BitVec 5) (rb : BitVec 5) (hi : BitVec 7)
  /-- MSG_RECV (R122): MSG RECV removes the oldest message from a queue into the store. -/
  | msgRecv (c : CoreRef) (rd : BitVec 5) (ra : BitVec 5) (rb : BitVec 5) (x : RecvArgs)
  /-- MSG_STAT (R122): MSG STAT returns and removes the oldest send outcome. -/
  | msgStat (c : CoreRef) (rd : BitVec 5) (ra : BitVec 5) (rb : BitVec 5) (hi : BitVec 7)
  /-- MSG_COUNT (R122): MSG COUNT returns the number of messages waiting in a queue. -/
  | msgCount (c : CoreRef) (rd : BitVec 5) (ra : BitVec 5) (rb : BitVec 5) (hi : BitVec 7)
  /-- SEAM_FETCH_ISSUE (R121): SEAM fn 0 reads and checks a FETCH block at issue and submits it to the home Seam Engine. -/
  | seamFetchIssue (c : CoreRef) (rd : BitVec 5) (ra : BitVec 5) (rb : BitVec 5)
  /-- SEAM_APPEND_ISSUE (R121): SEAM fn 1 reads and checks an APPEND block at issue and submits it. -/
  | seamAppendIssue (c : CoreRef) (rd : BitVec 5) (ra : BitVec 5) (rb : BitVec 5)
  /-- SEAM_CONTROL_ISSUE (R121): SEAM fn 2 reads and checks a CONTROL block at issue and submits it. -/
  | seamControlIssue (c : CoreRef) (rd : BitVec 5) (ra : BitVec 5) (rb : BitVec 5)
  /-- ASSAY_QUERY_ISSUE (R121): ASSAY fn 0 reads and checks a QUERY block at issue and submits it to the home Assay unit. -/
  | assayQueryIssue (c : CoreRef) (rd : BitVec 5) (ra : BitVec 5) (rb : BitVec 5)
  /-- TASK_NOP (R124): TASK NOP does nothing. -/
  | taskNop (c : CoreRef) (rd : BitVec 5) (ra : BitVec 5) (rb : BitVec 5)
  /-- TEND (R124): TASK TEND executes task end on the issue core or idles the mover core. -/
  | tend (c : CoreRef) (rd : BitVec 5) (ra : BitVec 5) (rb : BitVec 5)
  /-- TASK_GATE (R124): TASK GATE schedules an addition to a gate after the core's earlier transfers complete. -/
  | taskGate (c : CoreRef) (rd : BitVec 5) (ra : BitVec 5) (rb : BitVec 5)
  /-- TRAP (R124): TASK TRAP raises TRAP with a code. -/
  | trap (c : CoreRef) (rd : BitVec 5) (ra : BitVec 5) (rb : BitVec 5)
  /-- CSR_READ (R125): CSR read returns a system register. -/
  | csrRead (c : CoreRef) (rd : BitVec 5) (ra : BitVec 5) (csr : BitVec 12)
  /-- CSR_WRITE (R125): CSR write returns the old value and writes a system register, reseeding SR generators for SR_SEED. -/
  | csrWrite (c : CoreRef) (rd : BitVec 5) (ra : BitVec 5) (csr : BitVec 12)
  /-- CSR_SET (R125): CSR set sets bits of a system register. -/
  | csrSet (c : CoreRef) (rd : BitVec 5) (ra : BitVec 5) (csr : BitVec 12)
  /-- CSR_CLEAR (R125): CSR clear clears bits of a system register. -/
  | csrClear (c : CoreRef) (rd : BitVec 5) (ra : BitVec 5) (csr : BitVec 12)
  /-- GATHER_ENTRY_WRITE (R140): A gather-buffer entry is written to its bank when full, idle for 16 cycles, needed or flushed. -/
  | gatherEntryWrite (c : CoreRef)
  /-- REMOTE_LINE_WRITE (R147): A remote line reaching a tile store is written if an open window admits it, else refused with WINDOW_REFUSED. -/
  | remoteLineWrite (tile : Nat) (off : Nat) (who : Requester) (mask : BitVec 64) (data : BitVec 512)
  /-- REMOTE_STORE_READ (R149): A read of a tile store by another requester is served or refused as unpopulated. -/
  | remoteStoreRead (tile : Nat) (off : Nat) (who : Requester)
  /-- TILE_SCRUB_STEP (R150): Every 2^24 core cycles the tile scrubber reads one beat and writes back a corrected one. -/
  | tileScrubStep (tile : Nat) (upset : Upset)
  /-- PL_FENCE_WRITE (R173): A write of 1 to PL_TILE_STATE.FENCE by the PF or Overman fences the tile. -/
  | plFenceWrite (f : Func) (tile : Nat) (v : BitVec 64)
  /-- PASSAGE_FAIL (R166): A failed passage fences its tile, engages ring shunts, breaks its crosscuts and resets tasks that use them. -/
  | passageFail (tile : Nat)
  /-- REPLACEMENT_LINK_SELECT (R168): Once regions on held columns are reset, links are selected, columns powered and changed tiles zeroed. -/
  | replacementLinkSelect (die : Nat)
  /-- REPLACEMENT_IN_FORCE (R168): The new column mapping comes into force when zeroing ends, and the placement registers update. -/
  | replacementInForce (die : Nat)
  /-- PLACE_CTL_WRITE (R170): A write to TGE_PLACE_CTL.RETIRE_EN enables or stops re-placements, applying before a coinciding boundary. -/
  | placeCtlWrite (f : Func) (v : BitVec 64)
  /-- SEAM_FETCH (R192): The Seam Engine serves a FETCH, delivering the selected runs into the tile store and writing the completion. -/
  | seamFetch (die : Nat)
  /-- SEAM_APPEND (R194): The Seam Engine serves an APPEND under the decision table, packing rows and building sketches. -/
  | seamAppend (die : Nat)
  /-- CONTROL_OPEN (R183): CONTROL OPEN checks the geometry and contrail and opens the stream. -/
  | controlOpen (die : Nat)
  /-- CONTROL_PARK (R196): CONTROL PARK releases the stream's pins and parks it. -/
  | controlPark (die : Nat)
  /-- CONTROL_RESUME (R196): CONTROL RESUME queues every frame outside T1 for promotion. -/
  | controlResume (die : Nat)
  /-- CONTROL_CLOSE (R182): CONTROL CLOSE puts the stream in CLOSING to free its frames and mirror. -/
  | controlClose (die : Nat)
  /-- STREAM_FREE_COMPLETE (R182): A CLOSING stream has freed its resources and becomes FREE. -/
  | streamFreeComplete (p : Nat) (sid : Nat)
  /-- CONTROL_RESTORE (R210): CONTROL RESTORE starts rebuilding a stream from its contrail mirror. -/
  | controlRestore (die : Nat)
  /-- RESTORE_COMPLETE (R210): A RESTORE ends with the stream OPEN or PARKED at position P, or FREE on failure. -/
  | restoreComplete (p : Nat) (sid : Nat) (ok : Bool)
  /-- CONTROL_RESYNC (R206): CONTROL RESYNC checks the stream and starts copying its written rows to the mirror. -/
  | controlResync (die : Nat)
  /-- RESYNC_COMPLETE (R206): A RESYNC completes when CSTATE reaches ACTIVE or LAPSED. -/
  | resyncComplete (p : Nat) (sid : Nat) (ok : Bool)
  /-- CONTROL_QUERY (R196): CONTROL QUERY writes the stream's Ledger entry to a store offset or global address. -/
  | controlQuery (die : Nat)
  /-- SEAM_HQ_TAIL_WRITE (R199): A write to SEAM_HQ_TAIL sets the host command ring tail, or is ignored when out of range. -/
  | seamHqTailWrite (f : Func) (p : Nat) (v : BitVec 64)
  /-- SEAM_HQ_ENTRY_FETCH (R199): The engine fetches the next host-ring entry and starts it, or stops the ring on a refused fetch. -/
  | seamHqEntryFetch (p : Nat)
  /-- SEAM_HQ_CTL_WRITE (R199): A write to SEAM_HQ_CTL enables the host ring, subject to the size and confidentiality checks. -/
  | seamHqCtlWrite (f : Func) (p : Nat) (v : BitVec 64)
  /-- SEAM_CTL_WRITE (R212): A write to SEAM_CTL.EN enables the engine for the partition after the pool checks, or is refused. -/
  | seamCtlWrite (f : Func) (p : Nat) (v : BitVec 64)
  /-- SEAM_LEASE_CFG_WRITE (R178): A write to SEAM_LEASE_CFG grants or ends a lease of the partition's Tier 2. -/
  | seamLeaseCfgWrite (f : Func) (p : Nat) (i : Nat) (v : BitVec 64)
  /-- LEASE_HEADER_WRITE (R178): Within 10 us of a grant the granter's engine writes the lease header. -/
  | leaseHeaderWrite (p : Nat) (i : Nat)
  /-- SEAM_CONTRAIL_CTL_WRITE (R202): A write to SEAM_CONTRAIL_CTL sets the contrail mode and pool and starts a partner check. -/
  | seamContrailCtlWrite (f : Func) (p : Nat) (v : BitVec 64)
  /-- SEAM_REMOTE_CFG_WRITE (R202): A write to SEAM_REMOTE_CFG configures a remote pool and starts a partner check for the contrail pool. -/
  | seamRemoteCfgWrite (f : Func) (p : Nat) (i : Nat) (v : BitVec 64)
  /-- PARTNER_CHECK_COMPLETE (R202): The lease header read completes and RESULT is set, lapsing streams when it leaves accepted. -/
  | partnerCheckComplete (p : Nat) (hdr : LeaseHdr)
  /-- TIERING_SCAN (R201): Each Tick the tiering scanner examines leaf entries and starts moves under Table 7.16. -/
  | tieringScan (die : Nat)
  /-- FRAME_MOVE_COMPLETE (R191): A frame copy completes and FRAME and STATE are rewritten, or the move fails. -/
  | frameMoveComplete (p : Nat) (sid : Nat) (leaf : Nat) (ok : Bool)
  /-- CONTRAIL_ACK (R204): All remote writes of an append complete and the append is acknowledged, updating ACK_STEP and UNACKED. -/
  | contrailAck (p : Nat) (id : Nat) (ok : Bool)
  /-- CONTRAIL_TIMEOUT (R205): An append unacknowledged for TIMEOUT_US lapses the stream's contrail. -/
  | contrailTimeout (p : Nat) (id : Nat)
  /-- ASSAY_QUERY (R218): The Assay unit serves a QUERY, scoring sketches and writing lists, report and completion. -/
  | assayQuery (die : Nat)
  /-- ASSAY_CTL_WRITE (R228): A write to ASSAY_CTL sets FORCE_EXACT and AUDIT_EVERY and restarts the audit count. -/
  | assayCtlWrite (f : Func) (p : Nat) (v : BitVec 64)
  /-- FLIT_ENTRY (R239): A source's head flit enters a ring when two slots stay free and arbitration by rank age grants it. -/
  | flitEntry (ring : Nat) (at_ : EntryPoint) (arriving : Bool) (fl : Flit)
  /-- FLIT_ARRIVAL (R240): A flit reaching its destination stop is accepted with a reservation, or laps. -/
  | flitArrival (ring : Nat) (ix : Nat) (room : Bool) (seen : FlitSeen)
  /-- HAUL_TIMEOUT (R241): A request without a response within TIMEOUT_HC completes with HAUL_TIMEOUT. -/
  | haulTimeout (c : CoreRef) (what : Waited)
  /-- MCAST_RETURN (R246): A multicast packet returns to its source, which resends to the stops in MISS. -/
  | mcastReturn (id : Nat) (miss : BitVec 18)
  /-- MCAST_RETURN_TIMEOUT (R246): A multicast not returned within 1,024 haul cycles is resent to every stop not known to accept. -/
  | mcastReturnTimeout (m : CastLost)
  /-- AGE_BEACON_LAP (R242): The age beacon completes a lap and carries the oldest waiting rank age. -/
  | ageBeaconLap (die : Nat) (ix : Nat)
  /-- MSG_ARRIVAL (R250): A message reaching its queue is judged and stored or refused under Table 9.4. -/
  | msgArrival (ix : Nat)
  /-- MSG_OUTCOME (R251): A send's outcome response reaches the sender and is queued for MSG STAT. -/
  | msgOutcome (ix : Nat)
  /-- MEM_READ (R257): A controller serves a read by AGE, decoding and correcting each word. -/
  | memRead (dev : Nat) (off : Nat) (who : MemAsker) (met : MemMet)
  /-- MEM_WRITE (R266): A controller serves a write, encoding whole words or doing a read-modify-write. -/
  | memWrite (dev : Nat) (off : Nat) (mask : BitVec 64) (x : MemStore)
  /-- MEM_SCRUB_STEP (R267): The controller scrubber reads the next line and writes back corrected words. -/
  | memScrubStep (dev : Nat) (upset : Upset)
  /-- SOFT_REPAIR_COMPLETE (R268): The row's spare is programmed, words written back and held requests released. -/
  | softRepairComplete (dev : Nat) (row : Nat)
  /-- PORT_EN_WRITE (R284): A write to PORT_LINK_CTL.EN starts training or takes the port to DISABLED. -/
  | portEnWrite (f : Func) (n : Nat) (v : BitVec 64)
  /-- PORT_RETRAIN_WRITE (R284): A write of 1 to PORT_LINK_CTL.RETRAIN puts an ACTIVE port in RETRAIN. -/
  | portRetrainWrite (f : Func) (n : Nat) (v : BitVec 64)
  /-- DETECT_DONE (R284): At least 4 lanes are detected and the port enters EQUALIZE. -/
  | detectDone (n : Nat) (lanes : BitVec 8)
  /-- DETECT_TIMEOUT (R284): After 10 ms with fewer than 4 lanes the port enters HELD. -/
  | detectTimeout (n : Nat) (lanes : BitVec 8)
  /-- EQUALIZE_DONE (R284): Lanes have adapted and the port enters LANE_CHECK. -/
  | equalizeDone (n : Nat) (lanes : BitVec 8)
  /-- EQUALIZE_TIMEOUT (R284): After 100 ms the port goes to LANE_CHECK or to HELD with reason 5. -/
  | equalizeTimeout (n : Nat) (lanes : BitVec 8)
  /-- LANE_CHECK_DONE (R285): The PRBS31 check ends and lane goodness is known. -/
  | laneCheckDone (n : Nat) (errs : List Nat)
  /-- CONFIG_DONE (R286): Lane reports are exchanged and width and LANE_MAP are set, or the port is HELD. -/
  | configDone (n : Nat) (partner : BitVec 8)
  /-- ALIGN_LOCK (R284): Codewords lock and lanes deskew, and the port becomes ACTIVE. -/
  | alignLock (n : Nat)
  /-- ALIGN_TIMEOUT (R284): No lock after 10 us takes the port to HELD. -/
  | alignTimeout (n : Nat)
  /-- RETRAIN_DONE (R284): RETRAIN ends in ACTIVE, replaying held blocks, or in HELD. -/
  | retrainDone (n : Nat) (errs : List Nat) (partner : BitVec 8) (lock : Bool)
  /-- LANE_LOSS (R284): A detected lane loses signal or lock and the port enters RETRAIN. -/
  | laneLoss (n : Nat) (lane : Nat)
  /-- LINK_BLOCK_RX (R279): A received link block is delivered or discarded, and its ACK and NAK are taken. -/
  | linkBlockRx (n : Nat) (b : LinkBlock)
  /-- REPLAY_TIMEOUT (R280): REPLAY_TIMEOUT_NS passes without the ACK advancing and a replay is triggered. -/
  | replayTimeout (n : Nat)
  /-- BACKGROUND_ROUND (R287): A background lane retry round starts LANE_RETRY_S after the previous one. -/
  | backgroundRound (n : Nat)
  /-- BACKGROUND_ROUND_END (R287): A round ends, records PORT_LANE_TEST and proposes width restoration when all lanes are good. -/
  | backgroundRoundEnd (n : Nat) (errs : List Nat) (partner : BitVec 8)
  /-- WIDTH_PROPOSAL_ACK (R288): The partner acknowledges a width restoration proposal. -/
  | widthProposalAck (n : Nat)
  /-- WIDTH_PROPOSAL_LAPSE (R288): No acknowledgement by B - 10 us lapses the proposal. -/
  | widthProposalLapse (n : Nat)
  /-- PAUSE_DONE (R288): PAUSE ends with the port ACTIVE at x8, or at x4 on its former map. -/
  | pauseDone (n : Nat) (lock : Bool) (lane : Nat)
  /-- RD_REQ_RECEIVE (R304): A target judges an RD_REQ and returns RD_RESP with data or a refusal. -/
  | rdReqReceive (n : Nat) (pk : Packet) (auth : Bool)
  /-- WR_REQ_RECEIVE (R304): A target judges a WR_REQ, deduplicates it, writes lines and returns WR_CMP. -/
  | wrReqReceive (n : Nat) (pk : Packet) (auth : Bool)
  /-- RD_RESP_RECEIVE (R305): A read response completes its operation or is dropped as late. -/
  | rdRespReceive (n : Nat) (pk : Packet) (auth : Bool)
  /-- WR_CMP_RECEIVE (R306): A write completion completes its operation and reaches the remote ordering point. -/
  | wrCmpReceive (n : Nat) (pk : Packet) (auth : Bool)
  /-- COLL_DATA_RECEIVE (R314): A COLL_DATA packet is judged, reduced into STAGE and acknowledged. -/
  | collDataReceive (n : Nat) (pk : Packet) (auth : Bool)
  /-- COLL_ACK_RECEIVE (R315): A COLL_ACK is taken for a contribution the instance sent. -/
  | collAckReceive (n : Nat) (pk : Packet) (auth : Bool)
  /-- HERALD_RESET_RECEIVE (R309): A RESET herald fails operations, collectives, contrails and leases involving its sender. -/
  | heraldResetReceive (n : Nat) (pk : Packet)
  /-- HERALD_RETURN_RECEIVE (R377): A RETURN herald records the sender's new epoch and ends leases of an older epoch. -/
  | heraldReturnReceive (n : Nat) (pk : Packet)
  /-- OP_RETRY_TIMEOUT (R305): RETRY_US passes without a response and the operation is resent or completes with PEER_TIMEOUT. -/
  | opRetryTimeout (op : Nat)
  /-- EXCLUSION_EXPIRE (R300): An exclusion cache entry expires after EXCLUDE_MS. -/
  | exclusionExpire (dev : BitVec 18) (plane : Nat)
  /-- BEACON_EXCHANGE (R316): Every BEACON_US each ACTIVE port sends a BEACON_REQ to its switch port. -/
  | beaconExchange
  /-- BEACON_RESP_RECEIVE (R316): A BEACON_RESP yields the port's offset and path delay. -/
  | beaconRespReceive (n : Nat) (pk : Packet)
  /-- MERIDIAN_DISCIPLINE (R316): Every BEACON_US the median offset is taken and the time base slews, steps or enters holdover. -/
  | meridianDiscipline
  /-- PORT_DEVID_WRITE (R294): A PF write to PORT_DEVID sets the partition's device ID or is refused with CFG_ERR. -/
  | portDevidWrite (f : Func) (p : Nat) (v : BitVec 64)
  /-- COLL_TABLE_WRITE (R311): A write to PORT_COLL_TABLE enables the collective table and checks its descriptors. -/
  | collTableWrite (f : Func) (p : Nat) (v : BitVec 64)
  /-- HOST_LINK_DOWN (R322): The PCI Express link goes down and host-memory accesses fail with HOST_ABORT. -/
  | hostLinkDown
  /-- HOST_LINK_UP (R322): The link comes up and every function's configuration space returns to reset values. -/
  | hostLinkUp (gen : BitVec 4) (width : BitVec 6)
  /-- HOST_LINK_RETRAIN (R322): The link retrains to a lower speed or width and the event is counted. -/
  | hostLinkRetrain (gen : BitVec 4) (width : BitVec 6)
  /-- PERST_ASSERT (R447): PERST_N low holds the PCI Express controller in reset as a link-down. -/
  | perstAssert
  /-- FUNCTION_LEVEL_RESET (R324): An FLR stops the function's rings, clears MSI-X state and disables its queues and host ring. -/
  | functionLevelReset (f : Func)
  /-- BAR2_READ (R326): A host read through BAR2 is judged line by line under Table 13.4. -/
  | bar2Read (f : Func) (off : Nat) (len : Nat)
  /-- BAR2_WRITE (R326): A host write through BAR2 is judged line by line and written or discarded. -/
  | bar2Write (f : Func) (off : Nat) (bytes : List (BitVec 8))
  /-- DMA_DOORBELL (R328): A write to a DMA ring's doorbell sets its tail, or sets DOORBELL_RANGE. -/
  | dmaDoorbell (f : Func) (r : Nat) (v : BitVec 64)
  /-- DMA_DESC_START (R332): A ring fetches and starts the next descriptor, up to four in progress. -/
  | dmaDescStart (r : Nat)
  /-- DMA_DESC_COMPLETE (R332): A descriptor is written back in ring order, posts its gate and may signal its vector. -/
  | dmaDescComplete (r : Nat) (host : HostRead)
  /-- HOST_DMA_CTL_WRITE (R331): A write to HOST_DMA_CTL enables or stops a ring, refused for a bad size or under confidentiality. -/
  | hostDmaCtlWrite (f : Func) (r : Nat) (v : BitVec 64)
  /-- MSIX_MOD_TIMEOUT (R336): TIME_US after the first unsent event a message is sent. -/
  | msixModTimeout (f : Func) (vec : Nat)
  /-- MSIX_UNMASK (R336): Unmasking a vector with its pending bit set sends the message. -/
  | msixUnmask (f : Func) (vec : Nat)
  /-- SHADOW_GO (R347): A write of 1 to GUARD_SHADOW_CTL.GO reads the request block and queues a doubled shadow task. -/
  | shadowGo (f : Func) (p : Nat) (v : BitVec 64)
  /-- SHADOW_DIVERGE (R349): A lockstep difference between the copies stops both and ends the run DIVERGED. -/
  | shadowDiverge (p : Nat) (a : Nat) (b : Nat) (cycle : BitVec 32)
  /-- SHADOW_COMPARE_COMPLETE (R351): The output ranges have been compared and the result record is written. -/
  | shadowCompareComplete (p : Nat)
  /-- PROSPECT_DUE (R353): A tile of the patrol falls due INTERVAL_S after the previous one. -/
  | prospectDue (die : Nat)
  /-- PROSPECT_TEST_END (R355): A tile's 40 ms self-test ends in a pass or in a fence with LATENT_FAULT. -/
  | prospectTestEnd (die : Nat) (pass : Bool) (mem : Bool) (off : BitVec 21)
  /-- PROSPECT_NOMINATE (R356): A write to GUARD_PROSPECT_NOMINATE queues a tile for testing. -/
  | prospectNominate (f : Func) (v : BitVec 64)
  /-- PROSPECT_CTL_WRITE (R353): A write to GUARD_PROSPECT_CTL stops or resumes the patrol from its position. -/
  | prospectCtlWrite (f : Func) (v : BitVec 64)
  /-- ERROR_RECORD_WRITE (R366): An error record is written to the module and partition logs, queued, dropped or lost. -/
  | errorRecordWrite
  /-- LOG_HEAD_WRITE (R366): A write to GUARD_LOG_HEAD frees log entries for queued records. -/
  | logHeadWrite (f : Func) (log : Nat) (v : BitVec 64)
  /-- LOG_CTL_WRITE (R366): A write to GUARD_LOG_CTL enables a log or is refused for a bad size. -/
  | logCtlWrite (f : Func) (log : Nat) (v : BitVec 64)
  /-- ENGINE_WATCHDOG (R369): An engine whose oldest accepted request has waited 2 Ticks takes an engine reset. -/
  | engineWatchdog (kind : BitVec 4) (ix : Nat)
  /-- ENGINE_RESET_REQ (R375): GUARD_RESET_REQ with LEVEL engine requests a reset of one unit. -/
  | engineResetReq (f : Func) (v : BitVec 64)
  /-- ENGINE_RESET_COMPLETE (R369): An engine reset completes within its bound. -/
  | engineResetComplete (kind : BitVec 4) (ix : Nat)
  /-- ESCALATION_TIMEOUT (R371): A level that does not finish within its bound hands the fault to the next level. -/
  | escalationTimeout (lvl : EscLevel)
  /-- PARTITION_RESET_REQ (R373): GUARD_RESET_REQ with LEVEL partition is accepted, admission pauses and RESET heralds are sent. -/
  | partitionResetReq (f : Func) (v : BitVec 64)
  /-- PARTITION_FENCE (R373): 2 us after the last herald the partition is fenced, graphs abandoned and its units stop. -/
  | partitionFence (p : Nat)
  /-- PARTITION_DRAIN_END (R368): DRAIN_MS after the fence the drain ends and late responses are discarded. -/
  | partitionDrainEnd (p : Nat)
  /-- PARTITION_RESET_COMPLETE (R373): The purge ends, gates clear, a record is written, and unless held the fence lifts with a new epoch. -/
  | partitionResetComplete (p : Nat)
  /-- RESET_RELEASE (R373): A write to GUARD_RESET_RELEASE lifts the fence of held partitions and sends RETURN heralds. -/
  | resetRelease (f : Func) (v : BitVec 64)
  /-- DEVICE_RESET_REQ (R374): GUARD_RESET_REQ with LEVEL device starts a controlled device reset. -/
  | deviceResetReq (f : Func) (v : BitVec 64)
  /-- FAST_PATH_STEP_END (R409): A step of the warm-reset fast path ends and the next begins. -/
  | fastPathStepEnd (v : BootVerdict)
  /-- POWER_CYCLE_REQ (R456): GUARD_RESET_REQ with LEVEL power cycle requests a power cycle from the tray. -/
  | powerCycleReq (f : Func) (v : BitVec 64)
  /-- OVERMAN_HEARTBEAT (R379): Every 1 ms the active Overman sends its mirrored state to the standby. -/
  | overmanHeartbeat
  /-- OVERMAN_FAILOVER (R379): 10 ms without a heartbeat makes the standby active, or resets the device when none remains. -/
  | overmanFailover
  /-- OVERMAN_SWITCH (R379): A write of 1 to GUARD_OVERMAN.SWITCH makes the standby boot the staged image and take over. -/
  | overmanSwitch (f : Func) (v : BitVec 64)
  /-- REJOIN_GO (R382): A write of GO starts a rejoin at stage 1 or 2, or is refused. -/
  | rejoinGo (f : Func) (p : Nat) (v : BitVec 64)
  /-- REJOIN_ABORT (R385): A write of 1 to ABORT ends the rejoin ABORTED with the partition held. -/
  | rejoinAbort (f : Func) (p : Nat) (v : BitVec 64)
  /-- REJOIN_MODE_WRITE (R380): A write to MODE holds the partition for rejoin or lifts the hold. -/
  | rejoinModeWrite (f : Func) (p : Nat) (v : BitVec 64)
  /-- REJOIN_SELF_TEST_END (R383): Stage 1 self-test ends and the result is stored, or the rejoin fails. -/
  | rejoinSelfTestEnd (p : Nat) (entries : List FailEntry)
  /-- REJOIN_WEIGHTS_END (R383): Stage 2 weight copying ends in success or WEIGHTS_FAILED. -/
  | rejoinWeightsEnd (p : Nat) (ok : Bool)
  /-- REJOIN_STREAMS_END (R383): Stage 3 stream restores end in success or STREAMS_FAILED. -/
  | rejoinStreamsEnd (p : Nat)
  /-- FW_COMMIT (R395): A write to SEC_FW_CTL.COMMIT raises a type's floor to the running SVN. -/
  | fwCommit (f : Func) (v : BitVec 64)
  /-- STAGE_GO (R395): A write of GO to SEC_STAGE_CTL fetches and verifies an image for staging. -/
  | stageGo (f : Func) (v : BitVec 64)
  /-- STAGE_COMPLETE (R393): The staged image is accepted and written over the unused copy, or refused. -/
  | stageComplete
  /-- ATTEST_GO (R397): A write of GO to SEC_ATTEST_CTL requests a signed report for a partition. -/
  | attestGo (f : Func) (v : BitVec 64)
  /-- ATTEST_COMPLETE (R397): The report and certificates are written into the buffer. -/
  | attestComplete
  /-- CONF_WRITE (R398): A write to SEC_PART_CTL.CONF starts enabling or disabling confidentiality, or is ignored. -/
  | confWrite (f : Func) (p : Nat) (v : BitVec 64)
  /-- CONF_CHANGE_COMPLETE (R398): The partition's ranges are zeroed and STATE becomes CONFIDENTIAL or NONE. -/
  | confChangeComplete (p : Nat)
  /-- SESS_OPEN (R401): SEC_SESS_CTL OPEN makes an ephemeral pair and writes the local hello. -/
  | sessOpen (f : Func) (p : Nat) (v : BitVec 64)
  /-- SESS_COMPLETE (R401): SEC_SESS_CTL COMPLETE checks the peer's hello and derives the session keys. -/
  | sessComplete (f : Func) (p : Nat) (v : BitVec 64)
  /-- SESS_CLOSE (R404): SEC_SESS_CTL CLOSE ends a session and erases its keys. -/
  | sessClose (f : Func) (p : Nat) (v : BitVec 64)
  /-- SESS_OVERLAP_EXPIRE (R404): 10 ms after a newer session is ACTIVE the older one ends. -/
  | sessOverlapExpire (p : Nat) (slot : Nat)
  /-- SESS_COUNTER_LIMIT (R404): A session counter reaching 2^48 ends the session. -/
  | sessCounterLimit (p : Nat) (slot : Nat)
  /-- SEAL_IMPORT_GO (R405): SEC_SEAL_CTL GO with DIR 0 opens a sealed blob into Tier 1. -/
  | sealImportGo (f : Func) (p : Nat) (v : BitVec 64)
  /-- SEAL_EXPORT_GO (R405): SEC_SEAL_CTL GO with DIR 1 seals a Tier 1 range into host memory. -/
  | sealExportGo (f : Func) (p : Nat) (v : BitVec 64)
  /-- SEAL_COMPLETE (R405): A sealed transfer ends with its RESULT and optional gate post. -/
  | sealComplete (p : Nat)
  /-- INPUT_IN_RANGE (R450): The 48 V input held in range for 100 ms starts rail sequencing and a cold boot. -/
  | inputInRange
  /-- RAIL_SEQUENCE_MISS (R450): A rail missing its time takes the rails down and retries once, then halts with 0x08. -/
  | railSequenceMiss (rail : Nat)
  /-- COLD_BOOT_PHASE_END (R408): A phase of the cold boot ends and the next phase begins. -/
  | coldBootPhaseEnd (v : BootVerdict)
  /-- SELF_TEST_COMPLETE (R412): Phase 7 self-test of a die ends with its failure entries. -/
  | selfTestComplete (die : Nat) (entries : List FailEntry)
  /-- PSTORE_SLOT_WRITE (R422): The Overman writes a persistent-store slot under the two-bank rule. -/
  | pstoreSlotWrite (ty : Nat) (readBackOk : Bool)
  /-- PSTORE_XFER_GO (R425): A write of GO to PSTORE_XFER_CTL starts copying a slot to a global address. -/
  | pstoreXferGo (f : Func) (v : BitVec 64)
  /-- PSTORE_XFER_COMPLETE (R425): A slot transfer ends with its RESULT and LENGTH. -/
  | pstoreXferComplete
  /-- REF_MONITOR_WINDOW (R427): At the end of each 0.5 us window each reference's edge count is judged. -/
  | refMonitorWindow (host : Nat) (fabric : Nat)
  /-- FALLBACK_TRIM (R426): Every 1 ms the fallback oscillator is trimmed against the fabric reference. -/
  | fallbackTrim (ppm : BitVec 16)
  /-- CLK_TIME_SET_WRITE (R435): A write to CLK_TIME_SET sets Meridian time while FREE with admission off, else sets CFG_ERR. -/
  | clkTimeSetWrite (f : Func) (v : BitVec 64)
  /-- RAIL_EXCURSION (R436): A rail leaving its warning or fault window writes a record and may reset or power down. -/
  | railExcursion (rail : Nat) (mv : Nat)
  /-- THERMAL_SAMPLE (R439): Every 0.5 ms the sensors are read and the thermal limit updated. -/
  | thermalSample (junctions : List Nat) (hbm : List Nat)
  /-- POWER_POLICY_UPDATE (R437): Every 1 ms the Overman computes TARGET_MW and writes BUDGET_MW. -/
  | powerPolicyUpdate (inMw : Nat) (outMw : Nat) (tileMw : Nat)
  /-- DORMANT_ENTER (R441): A write of 1 to CLK_DORMANT_CTL.ENTER starts Dormant entry. -/
  | dormantEnter (f : Func) (v : BitVec 64)
  /-- DORMANT_ENTRY_COMPLETE (R441): Work drains, ports stand by, memory self-refreshes and STATE becomes Dormant. -/
  | dormantEntryComplete
  /-- DORMANT_EXIT (R443): A write of 1 to CLK_DORMANT_CTL.EXIT wakes the module or is refused with EXIT_ERR. -/
  | dormantExit (f : Func) (v : BitVec 64)
  /-- WAKE_COMPLETE (R443): Wake finishes with STATE 0 and LAST_WAKE_US written. -/
  | wakeComplete (us : BitVec 16)
  /-- PW_PRSNT_REMOVED (R451): PW_PRSNT_N going high takes the rails down in reverse order. -/
  | pwPrsntRemoved
  /-- MGMT_RESET_ASSERT (R451): MGMT_RST_N going low takes the rails down and holds the module controller in reset. -/
  | mgmtResetAssert
  /-- ENTDAA (R453): The module takes a dynamic I3C address by ENTDAA. -/
  | entdaa (addr : BitVec 7)
  /-- SETDASA (R453): The module takes a dynamic I3C address from its static address by SETDASA. -/
  | setdasa (stat : BitVec 7) (dyn : BitVec 7)
  /-- GET_STATUS (R454): The GET_STATUS command returns the listed status registers. -/
  | getStatus
  /-- MGMT_RESET (R454): The RESET command requests a device reset or power cycle under R375. -/
  | mgmtReset (level : BitVec 8)
  /-- DORMANT_CMD_ENTER (R454): The DORMANT command with 0 requests Dormant entry. -/
  | dormantCmdEnter
  /-- DORMANT_CMD_EXIT (R454): The DORMANT command with 1 requests Dormant exit. -/
  | dormantCmdExit
  /-- PROVISION_IDENTITY (R454): The PROVISION_IDENTITY command checks and writes the DIK certificate slot. -/
  | provisionIdentity (cert : List (BitVec 8))
  /-- GET_DIK (R454): The GET_DIK command returns the DIK public key. -/
  | getDik
  /-- SENSOR_READ (R454): A PLDM type 2 request returns a numeric sensor reading. -/
  | sensorRead (n : Nat)
  /-- POWER_REQ_DRIVE (R456): After the record is stored or 100 ms, PWR_CYC_REQ_N or PWR_OFF_REQ_N is pulsed low. -/
  | powerReqDrive
  /-- POWER_REQ_REPULSE (R456): VIN still present 5 s after a pulse causes another pulse, up to three. -/
  | powerReqRepulse
  /-- REGISTER_READ (R9): A BAR0 read of a register returns its fields and clears every RC field it covers, with the coinciding-event rules of Table 0.10. -/
  | registerRead (f : Func) (off : Nat) (size : Size)
  /-- CONFIGURATION_WRITE (R323): A PCI Express configuration write sets NumVFs, binding VF i to partition i - 1, resizes BAR2, or moves a function to D3hot. -/
  | configurationWrite (f : Func) (w : CfgWrite)
  /-- DUPLICATE_ENTRY_EXPIRE (R305): A duplicate-table entry is forgotten when (RETRIES + 1) x RETRY_US + LIFETIME_US have passed since its packet arrived. -/
  | duplicateEntryExpire (src : BitVec 18) (epoch : BitVec 8) (op : BitVec 32)
  /-- MEM_REFRESH (R255): A memory controller issues per-bank refresh at the rate the device temperature requires, delaying requests to that bank. -/
  | memRefresh (dev : Nat) (x : BankRefresh)
deriving DecidableEq, Repr

end Sys2Proof
end

