-- ==== Sys2Proof/Decode.lean ====
section
/-! DEFINITION. Words that spell commands. No row of spec/opcode_table.json gives bits (the module takes commands, not instruction words), so no word of the table spells one. The
instruction words of the Edley cores (R97, R98) spell the commands of chapter 4. -/

namespace Sys2Proof

/-- The command that a word of the table's bits spells: none, since every row's list of fields is empty. -/
def decodeTableWord (_nbits _w : Nat) : Option Instr := none

/-! ### Edley words (Tables 4.5 and 4.6) -/

/-- The fields of format R (Table 4.5). -/
def fmtR (w : BitVec 32) : FmtR :=
  { rd := w.extractLsb' 21 5, ra := w.extractLsb' 16 5, rb := w.extractLsb' 11 5, fn := w.extractLsb' 0 11 }

/-- The fields of format I (Table 4.5). -/
def fmtI (w : BitVec 32) : FmtI :=
  { rd := w.extractLsb' 21 5, ra := w.extractLsb' 16 5, imm := w.extractLsb' 0 16 }

/-- The fields of format M (Table 4.5). -/
def fmtM (w : BitVec 32) : FmtM :=
  { rd := w.extractLsb' 21 5, ra := w.extractLsb' 16 5, sz := w.extractLsb' 14 2, sx := w.extractLsb' 13 1, soff := w.extractLsb' 0 13 }

/-- The fields of format B (Table 4.5). -/
def fmtB (w : BitVec 32) : FmtB :=
  { p := w.extractLsb' 23 3, neg := w.extractLsb' 22 1, soff := w.extractLsb' 0 22 }

/-- The fields of format J (Table 4.5). -/
def fmtJ (w : BitVec 32) : FmtJ :=
  { rd := w.extractLsb' 21 5, soff := w.extractLsb' 0 21 }

/-- The fields of format V (Table 4.5). -/
def fmtV (w : BitVec 32) : FmtV :=
  { wd := w.extractLsb' 21 5, wa := w.extractLsb' 16 5, wb := w.extractLsb' 11 5, rm := w.extractLsb' 8 3, ty := w.extractLsb' 6 2, sat := w.extractLsb' 5 1, fn := w.extractLsb' 0 5 }

/-- The fields of format F (Table 4.5). -/
def fmtF (w : BitVec 32) : FmtF :=
  { wd := w.extractLsb' 21 5, wa := w.extractLsb' 16 5, wb := w.extractLsb' 11 5, wc := w.extractLsb' 6 5, rm := w.extractLsb' 3 3, ty := w.extractLsb' 1 2, sat := w.extractLsb' 0 1 }

/-- The fields of format K (Table 4.5). -/
def fmtK (w : BitVec 32) : FmtK :=
  { wd := w.extractLsb' 21 5, wa := w.extractLsb' 16 5, fs := w.extractLsb' 12 4, fd := w.extractLsb' 8 4, rm := w.extractLsb' 5 3, sat := w.extractLsb' 4 1, part := w.extractLsb' 1 3, rsv := w.extractLsb' 0 1 }

/-- The fields of format Q (Table 4.5). -/
def fmtQ (w : BitVec 32) : FmtQ :=
  { wd := w.extractLsb' 21 5, wa := w.extractLsb' 16 5, rd := w.extractLsb' 11 5, rm := w.extractLsb' 8 3, part := w.extractLsb' 5 3, ty := w.extractLsb' 3 2, rsv := w.extractLsb' 0 3 }

/-- The fields of format Y (Table 4.5). -/
def fmtY (w : BitVec 32) : FmtY :=
  { wd := w.extractLsb' 21 5, wa := w.extractLsb' 16 5, gr := w.extractLsb' 11 5, gc := w.extractLsb' 6 5, pm := w.extractLsb' 3 3, fn := w.extractLsb' 0 3 }

/-- The fields of format X (Table 4.5). -/
def fmtX (w : BitVec 32) : FmtX :=
  { a := w.extractLsb' 20 6, b := w.extractLsb' 14 6, fa := w.extractLsb' 10 4, fb := w.extractLsb' 6 4, clr := w.extractLsb' 5 1, gk := w.extractLsb' 0 5 }

/-- The fields of format D (Table 4.5). -/
def fmtD (w : BitVec 32) : FmtD :=
  { dd := w.extractLsb' 22 4, fmt := w.extractLsb' 18 4, rm := w.extractLsb' 15 3, sat := w.extractLsb' 14 1, sk := w.extractLsb' 12 2, ss := w.extractLsb' 7 5, be := w.extractLsb' 6 1, bd := w.extractLsb' 2 4, rsv := w.extractLsb' 0 2 }

/-- The fields of format S (Table 4.5). -/
def fmtS (w : BitVec 32) : FmtS :=
  { dir := w.extractLsb' 24 2, st := w.extractLsb' 22 2, sx := w.extractLsb' 17 5, rsv := w.extractLsb' 16 1, cnt := w.extractLsb' 0 16 }

/-- Register fields [25:21], [20:16] and [15:11]. -/
def fieldD (w : BitVec 32) : BitVec 5 := w.extractLsb' 21 5
/-- Field [20:16]. -/
def fieldA (w : BitVec 32) : BitVec 5 := w.extractLsb' 16 5
/-- Field [15:11]. -/
def fieldB (w : BitVec 32) : BitVec 5 := w.extractLsb' 11 5

/-- PRD (Table 4.8). -/
def decodePrd (c : CoreRef) (w : BitVec 32) : Instr :=
  match (w.extractLsb' 0 11).toNat with
  | 0 => .prdLogic c 0 (fieldD w) (fieldA w) (fieldB w)
  | 1 => .prdLogic c 1 (fieldD w) (fieldA w) (fieldB w)
  | 2 => .prdLogic c 2 (fieldD w) (fieldA w) (fieldB w)
  | 3 => .prdLogic c 3 (fieldD w) (fieldA w) (fieldB w)
  | 4 => .pfromg c (fieldD w) (fieldA w) (fieldB w)
  | 5 => .ptog c (fieldD w) (fieldA w) (fieldB w)
  | _ => .illegalInstr c w

/-- DSET and DGET (Table 4.9). -/
def decodeDset (c : CoreRef) (w : BitVec 32) : Instr :=
  if w.getLsbD 2 then .dget c (fieldD w) (fieldA w) (fieldB w) (w.extractLsb' 0 2) (w.extractLsb' 3 8)
  else .dset c (fieldD w) (fieldA w) (fieldB w) (w.extractLsb' 0 2) (w.extractLsb' 3 8)

/-- STOP (Table 4.9). -/
def decodeStop (c : CoreRef) (w : BitVec 32) : Instr :=
  match (w.extractLsb' 0 11).toNat with
  | 0 => .stopFill c (fieldD w) (fieldA w) (fieldB w)
  | 1 => .stopCopy c (fieldD w) (fieldA w) (fieldB w)
  | _ => .illegalInstr c w

/-- VSMX (R110); a function code that its table does not list keeps its place in the fields. -/
def decodeVsmx (c : CoreRef) (w : BitVec 32) : Instr :=
  match (w.extractLsb' 0 3).toNat with
  | 0 => .vsmxStep c (fmtY w)
  | 1 => .vsmxReset c (fmtY w)
  | 2 => .vsmxReadM c (fmtY w)
  | _ => .vsmxReadS c (fmtY w)

/-- VMOV (Table 4.10); a function code that its table does not list keeps its place in the fields. -/
def decodeVmov (c : CoreRef) (w : BitVec 32) : Instr :=
  match (w.extractLsb' 0 5).toNat with
  | 0 => .vzero c (fmtV w)
  | 1 => .vcopy c (fmtV w)
  | 2 => .vbcast c (fmtV w)
  | 3 => .vext c (fmtV w)
  | _ => .vins c (fmtV w)

/-- FENCE (R120). -/
def decodeFence (c : CoreRef) (w : BitVec 32) : Instr :=
  match (w.extractLsb' 0 4).toNat with
  | 0 => .fenceStore c (fieldD w) (fieldA w) (w.extractLsb' 4 12)
  | 1 => .fenceHaul c (fieldD w) (fieldA w) (w.extractLsb' 4 12)
  | 2 => .fenceRemote c (fieldD w) (fieldA w) (w.extractLsb' 4 12)
  | 3 => .fenceCmd c (fieldD w) (fieldA w) (w.extractLsb' 4 12)
  | 4 => .fenceHaulCount c (fieldD w) (fieldA w) (w.extractLsb' 4 12)
  | _ => .illegalInstr c w

/-- MSG (Table 4.13). -/
def decodeMsg (c : CoreRef) (w : BitVec 32) : Instr :=
  match (w.extractLsb' 0 4).toNat with
  | 0 => .msgSend c (fieldD w) (fieldA w) (fieldB w) (w.extractLsb' 4 7)
  | 1 => .msgReq c (fieldD w) (fieldA w) (fieldB w) (w.extractLsb' 4 7)
  | 2 => .msgReply c (fieldD w) (fieldA w) (fieldB w) (w.extractLsb' 4 7)
  | 3 => .msgRecv c (fieldD w) (fieldA w) (fieldB w) ⟨w.extractLsb' 4 7, []⟩
  | 4 => .msgStat c (fieldD w) (fieldA w) (fieldB w) (w.extractLsb' 4 7)
  | 5 => .msgCount c (fieldD w) (fieldA w) (fieldB w) (w.extractLsb' 4 7)
  | _ => .illegalInstr c w

/-- SEAM, ASSAY and TASK (R121, R124). -/
def decodeUnit (c : CoreRef) (w : BitVec 32) : Instr :=
  match (w.extractLsb' 26 6).toNat, (w.extractLsb' 0 11).toNat with
  | 0x3C, 0 => .seamFetchIssue c (fieldD w) (fieldA w) (fieldB w)
  | 0x3C, 1 => .seamAppendIssue c (fieldD w) (fieldA w) (fieldB w)
  | 0x3C, 2 => .seamControlIssue c (fieldD w) (fieldA w) (fieldB w)
  | 0x3D, 0 => .assayQueryIssue c (fieldD w) (fieldA w) (fieldB w)
  | 0x3E, 0 => .taskNop c (fieldD w) (fieldA w) (fieldB w)
  | 0x3E, 1 => .tend c (fieldD w) (fieldA w) (fieldB w)
  | 0x3E, 2 => .taskGate c (fieldD w) (fieldA w) (fieldB w)
  | 0x3E, 3 => .trap c (fieldD w) (fieldA w) (fieldB w)
  | _, _ => .illegalInstr c w

/-- CSR (R125). -/
def decodeCsr (c : CoreRef) (w : BitVec 32) : Instr :=
  match (w.extractLsb' 0 4).toNat with
  | 0 => .csrRead c (fieldD w) (fieldA w) (w.extractLsb' 4 12)
  | 1 => .csrWrite c (fieldD w) (fieldA w) (w.extractLsb' 4 12)
  | 2 => .csrSet c (fieldD w) (fieldA w) (w.extractLsb' 4 12)
  | 3 => .csrClear c (fieldD w) (fieldA w) (w.extractLsb' 4 12)
  | _ => .illegalInstr c w

/-- The command that a core's instruction word spells (R97, Tables 4.5 and 4.6). A word with a reserved major opcode, or with a function code that its opcode's table
does not list, is one for ILLEGAL_INSTR. What a drift link does to the beats of a DOUT is no part of its word. -/
def decodeEdley (c : CoreRef) (w : BitVec 32) : Instr :=
  match (w.extractLsb' 26 6).toNat with
  | 0x01 => .alu c (fmtR w)
  | 0x02 => .addi c (fmtI w)
  | 0x03 => .andi c (fmtI w)
  | 0x04 => .ori c (fmtI w)
  | 0x05 => .xori c (fmtI w)
  | 0x06 => .shi c (fmtI w)
  | 0x07 => .immc c (fmtI w)
  | 0x09 => .cmp c (fmtR w)
  | 0x0A => .cmpi c (fmtI w)
  | 0x0B => decodePrd c w
  | 0x0C => .sel c (fmtR w)
  | 0x10 => .br c (fmtB w)
  | 0x11 => .jal c (fmtJ w)
  | 0x12 => .jalr c (fmtI w)
  | 0x13 => .loop c (fmtI w)
  | 0x14 => .ld c (fmtM w)
  | 0x15 => .st c (fmtM w)
  | 0x16 => .wld c (fmtI w)
  | 0x17 => .wst c (fmtI w)
  | 0x18 => .dld c (fmtI w)
  | 0x19 => .dst c (fmtI w)
  | 0x1A => decodeDset c w
  | 0x1B => decodeStop c w
  | 0x20 => .vop c (fmtV w)
  | 0x21 => .vfma c (fmtF w)
  | 0x22 => .vcmp c (fmtV w)
  | 0x23 => .vsel c (fmtV w)
  | 0x24 => .vcvt c (fmtK w)
  | 0x25 => .vsfu c (fmtV w)
  | 0x26 => .vred c (fmtV w)
  | 0x27 => .vqnt c (fmtQ w)
  | 0x28 => decodeVsmx c w
  | 0x29 => decodeVmov c w
  | 0x2A => .vint c (fmtV w)
  | 0x2B => .accrd c (fmtI w)
  | 0x30 => .mma c (fmtX w)
  | 0x31 => .mdrain c (fmtD w)
  | 0x32 => .snchk c (fmtV w)
  | 0x34 => .dout c ⟨fmtS w, []⟩
  | 0x35 => .din c (fmtS w)
  | 0x36 => .dwait c (w.extractLsb' 0 26)
  | 0x38 => .hget c (fmtR w)
  | 0x39 => .hput c (fmtR w)
  | 0x3A => decodeFence c w
  | 0x3B => decodeMsg c w
  | 0x3C => decodeUnit c w
  | 0x3D => decodeUnit c w
  | 0x3E => decodeUnit c w
  | 0x3F => decodeCsr c w
  | _ => .illegalInstr c w

/-- Bits [25:0] of format R. -/
def FmtR.bits (i : FmtR) : BitVec 26 := i.rd ++ i.ra ++ i.rb ++ i.fn

/-- Bits [25:0] of format I. -/
def FmtI.bits (i : FmtI) : BitVec 26 := i.rd ++ i.ra ++ i.imm

/-- Bits [25:0] of format M. -/
def FmtM.bits (i : FmtM) : BitVec 26 := i.rd ++ i.ra ++ i.sz ++ i.sx ++ i.soff

/-- Bits [25:0] of format B. -/
def FmtB.bits (i : FmtB) : BitVec 26 := i.p ++ i.neg ++ i.soff

/-- Bits [25:0] of format J. -/
def FmtJ.bits (i : FmtJ) : BitVec 26 := i.rd ++ i.soff

/-- Bits [25:0] of format V. -/
def FmtV.bits (i : FmtV) : BitVec 26 := i.wd ++ i.wa ++ i.wb ++ i.rm ++ i.ty ++ i.sat ++ i.fn

/-- Bits [25:0] of format F. -/
def FmtF.bits (i : FmtF) : BitVec 26 := i.wd ++ i.wa ++ i.wb ++ i.wc ++ i.rm ++ i.ty ++ i.sat

/-- Bits [25:0] of format K. -/
def FmtK.bits (i : FmtK) : BitVec 26 := i.wd ++ i.wa ++ i.fs ++ i.fd ++ i.rm ++ i.sat ++ i.part ++ i.rsv

/-- Bits [25:0] of format Q. -/
def FmtQ.bits (i : FmtQ) : BitVec 26 := i.wd ++ i.wa ++ i.rd ++ i.rm ++ i.part ++ i.ty ++ i.rsv

/-- Bits [25:0] of format Y. -/
def FmtY.bits (i : FmtY) : BitVec 26 := i.wd ++ i.wa ++ i.gr ++ i.gc ++ i.pm ++ i.fn

/-- Bits [25:0] of format X. -/
def FmtX.bits (i : FmtX) : BitVec 26 := i.a ++ i.b ++ i.fa ++ i.fb ++ i.clr ++ i.gk

/-- Bits [25:0] of format D. -/
def FmtD.bits (i : FmtD) : BitVec 26 := i.dd ++ i.fmt ++ i.rm ++ i.sat ++ i.sk ++ i.ss ++ i.be ++ i.bd ++ i.rsv

/-- Bits [25:0] of format S. -/
def FmtS.bits (i : FmtS) : BitVec 26 := i.dir ++ i.st ++ i.sx ++ i.rsv ++ i.cnt

/-- The word of a core's instruction (Tables 4.5 and 4.6); the other commands are events and have none. -/
def encodeEdley : Instr → Option (BitVec 32)
  | .alu _ i => some (0x01#6 ++ i.bits)
  | .addi _ i => some (0x02#6 ++ i.bits)
  | .andi _ i => some (0x03#6 ++ i.bits)
  | .ori _ i => some (0x04#6 ++ i.bits)
  | .xori _ i => some (0x05#6 ++ i.bits)
  | .shi _ i => some (0x06#6 ++ i.bits)
  | .immc _ i => some (0x07#6 ++ i.bits)
  | .cmp _ i => some (0x09#6 ++ i.bits)
  | .cmpi _ i => some (0x0A#6 ++ i.bits)
  | .sel _ i => some (0x0C#6 ++ i.bits)
  | .br _ i => some (0x10#6 ++ i.bits)
  | .jal _ i => some (0x11#6 ++ i.bits)
  | .jalr _ i => some (0x12#6 ++ i.bits)
  | .loop _ i => some (0x13#6 ++ i.bits)
  | .ld _ i => some (0x14#6 ++ i.bits)
  | .st _ i => some (0x15#6 ++ i.bits)
  | .wld _ i => some (0x16#6 ++ i.bits)
  | .wst _ i => some (0x17#6 ++ i.bits)
  | .dld _ i => some (0x18#6 ++ i.bits)
  | .dst _ i => some (0x19#6 ++ i.bits)
  | .vop _ i => some (0x20#6 ++ i.bits)
  | .vfma _ i => some (0x21#6 ++ i.bits)
  | .vcmp _ i => some (0x22#6 ++ i.bits)
  | .vsel _ i => some (0x23#6 ++ i.bits)
  | .vcvt _ i => some (0x24#6 ++ i.bits)
  | .vsfu _ i => some (0x25#6 ++ i.bits)
  | .vred _ i => some (0x26#6 ++ i.bits)
  | .vqnt _ i => some (0x27#6 ++ i.bits)
  | .vint _ i => some (0x2A#6 ++ i.bits)
  | .accrd _ i => some (0x2B#6 ++ i.bits)
  | .mma _ i => some (0x30#6 ++ i.bits)
  | .mdrain _ i => some (0x31#6 ++ i.bits)
  | .snchk _ i => some (0x32#6 ++ i.bits)
  | .din _ i => some (0x35#6 ++ i.bits)
  | .hget _ i => some (0x38#6 ++ i.bits)
  | .hput _ i => some (0x39#6 ++ i.bits)
  | .prdLogic _ op rd ra rb => some (0x0B#6 ++ (rd ++ ra ++ rb ++ 0#9 ++ op))
  | .pfromg _ rd ra rb => some (0x0B#6 ++ (rd ++ ra ++ rb ++ 4#11))
  | .ptog _ rd ra rb => some (0x0B#6 ++ (rd ++ ra ++ rb ++ 5#11))
  | .dset _ rd ra rb word hi => some (0x1A#6 ++ (rd ++ ra ++ rb ++ hi ++ 0#1 ++ word))
  | .dget _ rd ra rb word hi => some (0x1A#6 ++ (rd ++ ra ++ rb ++ hi ++ 1#1 ++ word))
  | .stopFill _ rd ra rb => some (0x1B#6 ++ (rd ++ ra ++ rb ++ 0#11))
  | .stopCopy _ rd ra rb => some (0x1B#6 ++ (rd ++ ra ++ rb ++ 1#11))
  | .vsmxStep _ i => some (0x28#6 ++ i.bits)
  | .vsmxReset _ i => some (0x28#6 ++ i.bits)
  | .vsmxReadM _ i => some (0x28#6 ++ i.bits)
  | .vsmxReadS _ i => some (0x28#6 ++ i.bits)
  | .vzero _ i => some (0x29#6 ++ i.bits)
  | .vcopy _ i => some (0x29#6 ++ i.bits)
  | .vbcast _ i => some (0x29#6 ++ i.bits)
  | .vext _ i => some (0x29#6 ++ i.bits)
  | .vins _ i => some (0x29#6 ++ i.bits)
  | .dout _ x => some (0x34#6 ++ x.i.bits)
  | .dwait _ t => some (0x36#6 ++ t)
  | .fenceStore _ rd ra hi => some (0x3A#6 ++ (rd ++ ra ++ hi ++ 0#4))
  | .fenceHaul _ rd ra hi => some (0x3A#6 ++ (rd ++ ra ++ hi ++ 1#4))
  | .fenceRemote _ rd ra hi => some (0x3A#6 ++ (rd ++ ra ++ hi ++ 2#4))
  | .fenceCmd _ rd ra hi => some (0x3A#6 ++ (rd ++ ra ++ hi ++ 3#4))
  | .fenceHaulCount _ rd ra hi => some (0x3A#6 ++ (rd ++ ra ++ hi ++ 4#4))
  | .msgSend _ rd ra rb hi => some (0x3B#6 ++ (rd ++ ra ++ rb ++ hi ++ 0#4))
  | .msgReq _ rd ra rb hi => some (0x3B#6 ++ (rd ++ ra ++ rb ++ hi ++ 1#4))
  | .msgReply _ rd ra rb hi => some (0x3B#6 ++ (rd ++ ra ++ rb ++ hi ++ 2#4))
  | .msgRecv _ rd ra rb x => some (0x3B#6 ++ (rd ++ ra ++ rb ++ x.hi ++ 3#4))
  | .msgStat _ rd ra rb hi => some (0x3B#6 ++ (rd ++ ra ++ rb ++ hi ++ 4#4))
  | .msgCount _ rd ra rb hi => some (0x3B#6 ++ (rd ++ ra ++ rb ++ hi ++ 5#4))
  | .seamFetchIssue _ rd ra rb => some (0x3C#6 ++ (rd ++ ra ++ rb ++ 0#11))
  | .seamAppendIssue _ rd ra rb => some (0x3C#6 ++ (rd ++ ra ++ rb ++ 1#11))
  | .seamControlIssue _ rd ra rb => some (0x3C#6 ++ (rd ++ ra ++ rb ++ 2#11))
  | .assayQueryIssue _ rd ra rb => some (0x3D#6 ++ (rd ++ ra ++ rb ++ 0#11))
  | .taskNop _ rd ra rb => some (0x3E#6 ++ (rd ++ ra ++ rb ++ 0#11))
  | .tend _ rd ra rb => some (0x3E#6 ++ (rd ++ ra ++ rb ++ 1#11))
  | .taskGate _ rd ra rb => some (0x3E#6 ++ (rd ++ ra ++ rb ++ 2#11))
  | .trap _ rd ra rb => some (0x3E#6 ++ (rd ++ ra ++ rb ++ 3#11))
  | .csrRead _ rd ra csr => some (0x3F#6 ++ (rd ++ ra ++ csr ++ 0#4))
  | .csrWrite _ rd ra csr => some (0x3F#6 ++ (rd ++ ra ++ csr ++ 1#4))
  | .csrSet _ rd ra csr => some (0x3F#6 ++ (rd ++ ra ++ csr ++ 2#4))
  | .csrClear _ rd ra csr => some (0x3F#6 ++ (rd ++ ra ++ csr ++ 3#4))
  | .illegalInstr _ w => some w
  | _ => none

end Sys2Proof
end

