-- ==== Sys2Proof/Config.lean ====
section
/-! DEFINITION. What the spec leaves open: opaque constants with no body, so that no proof can lean on a value of theirs. -/

namespace Sys2Proof.Config

/-- Values that the spec does not state: the n-th free 64-bit value that a run draws. -/
opaque freeWord : Nat → BitVec 64

/-- The row, of its pseudo-channel in a stack, that holds an offset of a memory device: its placement is chosen by the controller and is not visible (R259). -/
opaque rowOf : Nat → Nat → Nat

/-- The offset of the first line of a device row. -/
opaque rowFirst : Nat → Nat → Nat

/-- The bank of a device row. -/
opaque bankOf : Nat → Nat → Nat

/-- The spare rows that self-test finds free in a memory device (Table 10.13). -/
opaque devSpares : Nat → Nat

/-- AES-256-XTS of a 64-byte line under a key and a tweak (R271): key, tweak, plaintext. -/
opaque xtsEnc : List (BitVec 8) → BitVec 128 → List (BitVec 8) → List (BitVec 8)

/-- The inverse of `xtsEnc`: key, tweak, ciphertext. -/
opaque xtsDec : List (BitVec 8) → BitVec 128 → List (BitVec 8) → List (BitVec 8)

/-- The check bits of a flit's side-band over bits 143 to 9: a code that corrects single and detects double errors (Table 9.3 names no more). -/
opaque sideCheck : BitVec 135 → BitVec 9

/-- Which of its half's nine column ends, counted from the west, a memory device's controller takes a line's packets at: device and line. -/
opaque endColumn : Nat → Nat → Nat

/-- The body of the factory image of a type (R392). -/
opaque factoryBody : Nat → List (BitVec 8)

/-- The spare rows of a bank of a memory device (Table 17.5 gives no number). -/
opaque bankSpares : Nat → Nat → Nat

/-- The payload of a link control block: kind (0 a lane report, 1 a width proposal) and value (R278 gives no layout). -/
opaque controlBytes : Nat → Nat → List (BitVec 8)

/-- The seed of a port's sampling shift register: port, and whether it selects received headers (R318). -/
opaque lfsrSeed : Nat → Bool → BitVec 32

/-- A step of the 32-bit sampling shift register (R318 names no taps). -/
opaque lfsrNext : BitVec 32 → BitVec 32

/-- What a special function gives for an operand where the result is not exact (R77): function 0 exp2, 1 log2, 2 rcp, 3 rsqrt. The same on every tile. -/
opaque special : Nat → BitVec 32 → BitVec 32

/-! The algorithms of the key engine follow published standards (R389) whose text the spec does not repeat: each is an uninterpreted function of its inputs, as are the keys and
certificates made at manufacture. Results are cut or extended to their length where they are used. -/

/-- The n-th draw of the DRBG, of a number of bytes (R389). -/
opaque drbg : Nat → Nat → List (BitVec 8)

/-- The default seed of an SR generator: slot, epoch, Meridian time of launch and lane (R82; the spec gives no derivation). -/
opaque srSeed : Nat → Nat → Nat → Nat → BitVec 32

/-- SHA-512. -/
opaque sha512 : List (BitVec 8) → List (BitVec 8)

/-- HKDF with SHA-512: input key material, salt, info and length. -/
opaque hkdf : List (BitVec 8) → List (BitVec 8) → List (BitVec 8) → Nat → List (BitVec 8)

/-- The Ed25519 public key of a seed. -/
opaque edPublic : List (BitVec 8) → List (BitVec 8)

/-- The Ed25519 signature by a seed over a message. -/
opaque edSign : List (BitVec 8) → List (BitVec 8) → List (BitVec 8)

/-- Whether an Ed25519 signature over a message verifies under a public key: key, message, signature. -/
opaque edVerify : List (BitVec 8) → List (BitVec 8) → List (BitVec 8) → Bool

/-- X25519 of a private key and a public key; the empty list stands for the base point. -/
opaque x25519 : List (BitVec 8) → List (BitVec 8) → List (BitVec 8)

/-- AES-256-GCM: key, IV, additional data and plaintext to ciphertext. -/
opaque gcmSeal : List (BitVec 8) → List (BitVec 8) → List (BitVec 8) → List (BitVec 8) → List (BitVec 8)

/-- AES-256-GCM: key, IV, additional data and ciphertext to plaintext. -/
opaque gcmOpen : List (BitVec 8) → List (BitVec 8) → List (BitVec 8) → List (BitVec 8) → List (BitVec 8)

/-- The AES-256-GCM tag: key, IV, additional data and ciphertext. -/
opaque gcmTag : List (BitVec 8) → List (BitVec 8) → List (BitVec 8) → List (BitVec 8) → List (BitVec 8)

/-- The straps SLOT_ID[3:0] of the slot that holds the module (R452). -/
opaque slotId : BitVec 4

/-- The fused device secret (R390). -/
opaque deviceSecret : List (BitVec 8)

/-- The Norutex firmware public key, whose digest is fused (R391). -/
opaque firmwareKey : List (BitVec 8)

/-- The DIK certificate made at manufacture (R391). -/
opaque factoryCert : List (BitVec 8)

/-- The PAK certificate that the DIK signs: PAK public key, partition, PART_EPOCH at creation and GRADE (R391). -/
opaque pakCert : List (BitVec 8) → Nat → Nat → Nat → List (BitVec 8)

/-- Whether a DER certificate's chain verifies to the Norutex root (R391). -/
opaque certRooted : List (BitVec 8) → Bool

/-- The public key that a DER certificate holds. -/
opaque certKey : List (BitVec 8) → List (BitVec 8)

/-- Whether a PAK certificate is signed by the key of a DIK certificate: PAK certificate, DIK certificate. -/
opaque certIssued : List (BitVec 8) → List (BitVec 8) → Bool

/-- The 64 bytes of the security record that M3 measures: the owner key, OWNER_REQ and the four floors (Table 16.4 gives no layout). -/
opaque securityRecord : List (BitVec 8) → Bool → BitVec 64 → List (BitVec 8)

/-- The digest of the factory image of a type (R392). -/
opaque factoryImage : Nat → List (BitVec 8)

end Sys2Proof.Config
end

