-- ==== Sys2Proof/Machine/Bits.lean ====
section
/-! DEFINITION. Bit fields, sign extension, saturation and byte order of the module's words. Bit 0 is the least
significant bit and ranges are written high to low (Conventions of the scope chapter). -/

namespace Sys2Proof.Machine

/-- The mask of bits hi..lo of a `w`-bit word. -/
def fieldMask (w hi lo : Nat) : BitVec w := BitVec.ofNat w ((2 ^ (hi + 1 - lo) - 1) * 2 ^ lo)

/-- Bits hi..lo of `v`, as a number. -/
def getBits {w : Nat} (v : BitVec w) (hi lo : Nat) : Nat := v.toNat / 2 ^ lo % 2 ^ (hi + 1 - lo)

/-- `v` with bits hi..lo replaced by the low bits of `x`. -/
def setBits {w : Nat} (v : BitVec w) (hi lo x : Nat) : BitVec w :=
  (v &&& ~~~ fieldMask w hi lo) ||| (BitVec.ofNat w (x % 2 ^ (hi + 1 - lo) * 2 ^ lo))

/-- Bit k of `v`. -/
def bitOf {w : Nat} (v : BitVec w) (k : Nat) : Bool := v.getLsbD k

/-- `v` with bit k set to `b`. -/
def setBit {w : Nat} (v : BitVec w) (k : Nat) (b : Bool) : BitVec w := setBits v k k b.toNat

/-- Sign extension of the low `n` bits of a number to an integer. -/
def signed (n x : Nat) : Int := if x % 2 ^ n < 2 ^ (n - 1) then (x % 2 ^ n : Int) else (x % 2 ^ n : Int) - 2 ^ n

/-- Sum that stays at the largest value of an `n`-bit counter ("counters saturate at their largest value"). -/
def satAdd (n a b : Nat) : Nat := min (a + b) (2 ^ n - 1)

/-- The `n` low bytes of a number, least significant first (all multi-byte values are little endian, R97, R105). -/
def bytesOf : Nat → Nat → List Byte
  | 0, _ => []
  | n + 1, x => BitVec.ofNat 8 x :: bytesOf n (x / 256)

/-- The number that bytes spell, least significant first. -/
def ofBytes : List Byte → Nat
  | [] => 0
  | b :: bs => b.toNat + 256 * ofBytes bs

/-- x rounded up to a multiple of m, divided by m. -/
def ceilDiv (x m : Nat) : Nat := (x + (m - 1)) / m

/-- The numbers lo, lo+1, ..., lo+n-1. -/
def rangeFrom (lo n : Nat) : List Nat := (List.range n).map (lo + ·)

/-- `l` with element `i` replaced by `x`. -/
def listSet {α : Type} (l : List α) (i : Nat) (x : α) : List α := l.set i x

/-- Element `i` of `l`, or `d`. -/
def nth {α : Type} (l : List α) (i : Nat) (d : α) : α := l.getD i d

/-- The count of list members that satisfy `p`. -/
def countIf {α : Type} (p : α → Bool) (l : List α) : Nat := (l.filter p).length

/-- The largest number of a list, 0 for none. -/
def maxOf (l : List Nat) : Nat := l.foldl max 0

end Sys2Proof.Machine
end

