-- ==== Sys2Proof/Machine/Float.lean ====
section
/-! DEFINITION. Tile arithmetic (chapter 3): number formats (R61), rounding (R64, R65), flags (R66), NaN rules (R67), conversions (R68), block
quantisation (R69), elementwise operations (R76), special functions (R77) and cross-lane sums (R78). Values are exact: a magnitude m times
a power of two. -/

namespace Sys2Proof.Machine

/-- A value of a floating-point format; the sign of a zero is kept. -/
inductive Num where
  | nan
  | inf (neg : Bool)
  | fin (neg : Bool) (m : Nat) (e : Int)
deriving DecidableEq, Repr

/-- The special encodings of a format: infinity and NaN at the all-ones exponent, NaN only at the all-ones code (E4M3), or neither (E2M1). -/
inductive Specials where
  | ieee
  | nanOnly
  | none
deriving DecidableEq, Repr

/-- A floating-point format of Table 3.1: exponent bits, mantissa bits, special encodings. -/
structure FFmt where
  eb   : Nat
  mb   : Nat
  spec : Specials
deriving DecidableEq, Repr

/-- FP32. -/
def fp32 : FFmt := ⟨8, 23, .ieee⟩
/-- BF16. -/
def bf16 : FFmt := ⟨8, 7, .ieee⟩
/-- FP16. -/
def fp16 : FFmt := ⟨5, 10, .ieee⟩
/-- E4M3. -/
def e4m3 : FFmt := ⟨4, 3, .nanOnly⟩
/-- E5M2. -/
def e5m2 : FFmt := ⟨5, 2, .ieee⟩
/-- E2M1. -/
def e2m1 : FFmt := ⟨2, 1, .none⟩

/-- The floating-point format of a format code (Table 3.1), E8M0 and the integers apart. -/
def ffmt? : Nat → Option FFmt
  | 0 => some fp32
  | 1 => some bf16
  | 2 => some fp16
  | 3 => some e4m3
  | 4 => some e5m2
  | 5 => some e2m1
  | _ => none

/-- Bits of an element of a format code. -/
def fmtBits : Nat → Nat
  | 0 => 32
  | 1 => 16
  | 2 => 16
  | 3 => 8
  | 4 => 8
  | 5 => 4
  | 6 => 8
  | 7 => 8
  | 8 => 4
  | _ => 32

/-- Exponent bias. -/
def FFmt.bias (f : FFmt) : Nat := 2 ^ (f.eb - 1) - 1

/-- Exponent of the smallest normal. -/
def FFmt.emin (f : FFmt) : Int := 1 - (f.bias : Int)

/-- Largest finite magnitude as an integer times a power of two. -/
def FFmt.maxN (f : FFmt) : Nat :=
  match f.spec with
  | .ieee => 2 ^ (f.mb + 1) - 1
  | .nanOnly => 2 ^ (f.mb + 1) - 2
  | .none => 2 ^ (f.mb + 1) - 1

/-- The exponent of one unit of the largest binade. -/
def FFmt.maxQ (f : FFmt) : Int :=
  (match f.spec with
   | .ieee => (f.bias : Int)
   | .nanOnly => (f.bias : Int) + 1
   | .none => (f.bias : Int) + 1) - f.mb

/-- Largest exponent field of a finite value. -/
def FFmt.maxExp (f : FFmt) : Nat :=
  match f.spec with
  | .ieee => 2 ^ f.eb - 2
  | _ => 2 ^ f.eb - 1

/-- The code of the sign bit. -/
def FFmt.signBits (f : FFmt) (neg : Bool) : Nat := if neg then 2 ^ (f.eb + f.mb) else 0

/-- Encoding of the largest finite value. -/
def FFmt.maxCode (f : FFmt) (neg : Bool) : Nat :=
  f.signBits neg + f.maxExp * 2 ^ f.mb + (f.maxN - 2 ^ f.mb)

/-- Encoding of infinity. -/
def FFmt.infCode (f : FFmt) (neg : Bool) : Nat := f.signBits neg + (2 ^ f.eb - 1) * 2 ^ f.mb

/-- The canonical NaN of a format (R67); a format without NaN gives +0. -/
def FFmt.nanCode (f : FFmt) : Nat :=
  match f.spec with
  | .ieee => (2 ^ f.eb - 1) * 2 ^ f.mb + 2 ^ (f.mb - 1)
  | .nanOnly => 2 ^ (f.eb + f.mb) - 1
  | .none => 0

/-- The value of an encoding (R61). -/
def FFmt.decode (f : FFmt) (x : Nat) : Num :=
  let neg := decide (x / 2 ^ (f.eb + f.mb) % 2 = 1)
  let e := x / 2 ^ f.mb % 2 ^ f.eb
  let m := x % 2 ^ f.mb
  if f.spec = .ieee ∧ e = 2 ^ f.eb - 1 then (if m = 0 then .inf neg else .nan)
  else if f.spec = .nanOnly ∧ e = 2 ^ f.eb - 1 ∧ m = 2 ^ f.mb - 1 then .nan
  else if e = 0 then .fin neg m (f.emin - f.mb)
  else .fin neg (2 ^ f.mb + m) ((e : Int) - f.bias - f.mb)

/-- The value of an E8M0 code (R61). -/
def e8m0 (x : Nat) : Num := if x % 256 = 255 then .nan else .fin false 1 ((x % 256 : Nat) - 127 : Int)

/-- The value of an FP32 encoding. -/
def f32 (x : BitVec 32) : Num := fp32.decode x.toNat

/-! ### Flags (Table 3.3) -/

/-- NX. -/
def fNX : Nat := 1
/-- UF. -/
def fUF : Nat := 2
/-- OF. -/
def fOF : Nat := 4
/-- NV. -/
def fNV : Nat := 8
/-- SAT. -/
def fSAT : Nat := 16

/-! ### Rounding -/

/-- Round m × 2^e, of the given sign, to a whole number of units 2^q (Table 3.2); r is the random value of SR (R65). Answers the units and whether
they differ from the exact value. -/
def roundAt (neg : Bool) (m : Nat) (e q : Int) (rm r : Nat) : Nat × Bool :=
  if q ≤ e then (m * 2 ^ (e - q).toNat, false)
  else
    let d := 2 ^ (q - e).toNat
    let n := m / d
    let rem := m % d
    let up :=
      match rm with
      | 0 => decide (d < 2 * rem) || (decide (2 * rem = d) && decide (n % 2 = 1))
      | 1 => false
      | 2 => neg && decide (rem ≠ 0)
      | 3 => !neg && decide (rem ≠ 0)
      | 4 => decide (d ≤ 2 * rem)
      | _ => decide (2 ^ 16 ≤ rem * 2 ^ 16 / d + r)
    (if up then n + 1 else n, decide (rem ≠ 0))

/-- Whether n × 2^q exceeds the largest finite magnitude. -/
def FFmt.overflows (f : FFmt) (n : Nat) (q : Int) : Bool :=
  if f.maxQ ≤ q then decide (f.maxN < n * 2 ^ (q - f.maxQ).toNat) else decide (f.maxN * 2 ^ (f.maxQ - q).toNat < n)

/-- The encoding of n units of 2^q in the format, q being the unit of n's binade. -/
def FFmt.pack (f : FFmt) (neg : Bool) (n : Nat) (q : Int) : Nat :=
  if n < 2 ^ f.mb then f.signBits neg + n
  else if n = 2 ^ (f.mb + 1) then f.signBits neg + (q + 1 + f.mb + f.bias).toNat * 2 ^ f.mb
  else f.signBits neg + (q + f.mb + f.bias).toNat * 2 ^ f.mb + (n - 2 ^ f.mb)

/-- Whether an overflow under a mode gives the largest finite value (R68): toward zero. -/
def towardZero (rm : Nat) (neg : Bool) : Bool := decide (rm = 1) || (decide (rm = 2) && !neg) || (decide (rm = 3) && neg)

/-- The mode in force for a target: SR acts as RNE on FP32 (R65). -/
def FFmt.mode (f : FFmt) (rm : Nat) : Nat := if rm = 5 ∧ f = fp32 then 0 else rm

/-- Convert a value into a floating-point format (R66 to R68, Table 3.4): encoding and flags. R68's sentence on overflow toward zero is read
of SAT = 0, where the format follows IEEE 754: with SAT = 1 the SAT column holds under every mode, as Table 3.3 and R76 say (log entry 79).
DEDUCED. -/
def FFmt.encode (f : FFmt) (rm : Nat) (sat : Bool) (r : Nat) : Num → Nat × Nat
  | .nan => (f.nanCode, if f.spec = .none then fNV else 0)
  | .inf neg =>
    match f.spec with
    | .none => (f.maxCode neg, fSAT)
    | .nanOnly => if sat then (f.maxCode neg, fSAT) else (f.nanCode, fNV)
    | .ieee => if sat then (f.maxCode neg, fSAT) else (f.infCode neg, 0)
  | .fin neg m e =>
    if m = 0 then (f.signBits neg, 0)
    else
      let rm := f.mode rm
      let ex : Int := Nat.log2 m + e
      let q := max (ex - f.mb) (f.emin - f.mb)
      let (n, ix) := roundAt neg m e q rm r
      if f.overflows n q then
        match f.spec with
        | .none => (f.maxCode neg, fSAT + fNX)
        | _ =>
          if sat then (f.maxCode neg, fSAT + fNX)
          else if towardZero rm neg then (f.maxCode neg, fOF + fNX)
          else (if f.spec = .nanOnly then f.nanCode else f.infCode neg, fOF + fNX)
      else
        let (n', _) := roundAt neg m e (ex - f.mb) rm r
        let tiny := decide (ex < f.emin) && !(decide (ex = f.emin - 1) && decide (n' = 2 ^ (f.mb + 1)))
        (f.pack neg n q, if ix then fNX + (if tiny then fUF else 0) else 0)

/-- Convert a value into a two's complement integer of w bits (Table 3.4): the integer and flags. DESIGN CHOICE: "beyond integer range" is
judged on the rounded value, so a source above the limit that rounds to it is in range (log entry 79). -/
def intOf (w : Nat) (rm : Nat) : Num → Int × Nat
  | .nan => (0, fNV)
  | .inf neg => (if neg then -(2 ^ (w - 1) : Int) else 2 ^ (w - 1) - 1, fSAT)
  | .fin neg m e =>
    let (n, ix) := roundAt neg m e 0 (if rm = 5 then 0 else rm) 0
    let v : Int := if neg then -(n : Int) else n
    let hi : Int := 2 ^ (w - 1) - 1
    let lo : Int := -(2 ^ (w - 1))
    if hi < v then (hi, fSAT + fNX)
    else if v < lo then (lo, fSAT + fNX)
    else (v, if ix then fNX else 0)

/-- Convert into any format of Table 3.1 that a drain or conversion may target: element bits and flags. -/
def convert (fmt rm : Nat) (sat : Bool) (r : Nat) (x : Num) : Nat × Nat :=
  match ffmt? fmt with
  | some f => f.encode rm sat r x
  | none =>
    let w := fmtBits fmt
    let (v, fl) := intOf w rm x
    ((v % (2 ^ w : Int)).toNat, fl)

/-- The value of an element of any format. -/
def valueOf (fmt x : Nat) : Num :=
  match ffmt? fmt with
  | some f => f.decode x
  | none =>
    if fmt = 6 then e8m0 x
    else
      let v := signed (fmtBits fmt) x
      .fin (decide (v < 0)) v.natAbs 0

/-- Round a value to FP32: bits and flags. -/
def toF32 (rm : Nat) (sat : Bool) (x : Num) : BitVec 32 × Nat :=
  let (b, fl) := fp32.encode rm sat 0 x
  (BitVec.ofNat 32 b, fl)

/-! ### Exact operations -/

/-- Whether a value is NaN. -/
def Num.isNan : Num → Bool
  | .nan => true
  | _ => false

/-- Negation. -/
def Num.neg : Num → Num
  | .nan => .nan
  | .inf s => .inf (!s)
  | .fin s m e => .fin (!s) m e

/-- Magnitude. -/
def Num.abs : Num → Num
  | .nan => .nan
  | .inf _ => .inf false
  | .fin _ m e => .fin false m e

/-- A finite value as an integer over the common exponent e0 (e0 at most its own). -/
def scaled (s : Bool) (m : Nat) (e e0 : Int) : Int :=
  let v : Int := (m * 2 ^ (e - e0).toNat : Nat)
  if s then -v else v

/-- Sum; the sign of an exact zero sum of unlike terms is negative only under RDN. The second part is NV. -/
def Num.add (rm : Nat) : Num → Num → Num × Nat
  | .nan, _ => (.nan, 0)
  | _, .nan => (.nan, 0)
  | .inf a, .inf b => if a = b then (.inf a, 0) else (.nan, fNV)
  | .inf a, .fin _ _ _ => (.inf a, 0)
  | .fin _ _ _, .inf b => (.inf b, 0)
  | .fin sa ma ea, .fin sb mb eb =>
    let e0 := min ea eb
    let v := scaled sa ma ea e0 + scaled sb mb eb e0
    if v = 0 then (.fin (if sa = sb then sa else decide (rm = 2)) 0 0, 0)
    else (.fin (decide (v < 0)) v.natAbs e0, 0)

/-- Product. -/
def Num.mul : Num → Num → Num × Nat
  | .nan, _ => (.nan, 0)
  | _, .nan => (.nan, 0)
  | .inf a, .inf b => (.inf (a != b), 0)
  | .inf a, .fin s m _ => if m = 0 then (.nan, fNV) else (.inf (a != s), 0)
  | .fin s m _, .inf b => if m = 0 then (.nan, fNV) else (.inf (s != b), 0)
  | .fin sa ma ea, .fin sb mb eb => (.fin (sa != sb) (ma * mb) (ea + eb), 0)

/-- Product and sum with no rounding between them; a NaN operand sets no NV. DESIGN CHOICE: an infinity times zero beside a NaN addend sets
no NV here, for the NaN is the addend's (R67; log entry 79). -/
def Num.fma (rm : Nat) (a b c : Num) : Num × Nat :=
  let (p, f1) := Num.mul a b
  if c.isNan then (.nan, 0)
  else
    let (r, f2) := Num.add rm p c
    (r, Nat.lor f1 f2)

/-- a < b for values that are not NaN, with -0 below +0 when `zeros` is set. -/
def Num.lt (zeros : Bool) : Num → Num → Bool
  | .nan, _ => false
  | _, .nan => false
  | .inf a, .inf b => a && !b
  | .inf a, .fin _ _ _ => a
  | .fin _ _ _, .inf b => !b
  | .fin sa ma ea, .fin sb mb eb =>
    let e0 := min ea eb
    let x := scaled sa ma ea e0
    let y := scaled sb mb eb e0
    decide (x < y) || (zeros && decide (x = 0) && decide (y = 0) && sa && !sb)

/-- Equality of values, zeros of both signs alike; NaN equals nothing. -/
def Num.eqv (a b : Num) : Bool := !a.isNan && !b.isNan && !Num.lt false a b && !Num.lt false b a

/-- Minimum (R76). -/
def Num.min (a b : Num) : Num := if a.isNan || b.isNan then .nan else if Num.lt true b a then b else a

/-- Maximum (R76). -/
def Num.max (a b : Num) : Num := if a.isNan || b.isNan then .nan else if Num.lt true a b then b else a

/-- Product with a power of two. -/
def Num.scale (x : Num) (k : Int) : Num :=
  match x with
  | .fin s m e => .fin s m (e + k)
  | y => y

/-- FP32 sum under RNE: bits and flags. -/
def addF32 (a b : BitVec 32) : BitVec 32 × Nat :=
  let (v, f1) := Num.add 0 (f32 a) (f32 b)
  let (x, f2) := toF32 0 false v
  (x, Nat.lor f1 f2)

/-- One level of the cross-lane tree: neighbours are added (R78). -/
def pairSums : List (BitVec 32) → List (BitVec 32) × Nat
  | a :: b :: xs =>
    let (s, f1) := addF32 a b
    let (r, f2) := pairSums xs
    (s :: r, Nat.lor f1 f2)
  | xs => (xs, 0)

/-- `n` levels of the tree. -/
def treeSum : Nat → List (BitVec 32) → BitVec 32 × Nat
  | 0, xs => (xs.headD 0, 0)
  | n + 1, xs =>
    let (ys, f1) := pairSums xs
    let (r, f2) := treeSum n ys
    (r, Nat.lor f1 f2)

/-- The largest of a list of values (exact), NaN when any is. -/
def maxNum (xs : List Num) : Num := xs.foldl Num.max (.inf true)

/-- The smallest of a list of values (exact), NaN when any is. -/
def minNum (xs : List Num) : Num := xs.foldl Num.min (.inf false)

/-! ### Block quantisation (R69) -/

/-- The larger of two magnitudes. -/
def amax (xs : List Num) : Num := (xs.map Num.abs).foldl Num.max (.fin false 0 0)

/-- floor(log2) of a finite non-zero magnitude. -/
def Num.exponent : Num → Int
  | .fin _ m e => Nat.log2 m + e
  | _ => 0

/-- Quantise a block of values with a mode and the random value of each element: scale, E2M1 codes and flags. DESIGN CHOICE: the clamp of E to
0 or 254 sets no SAT; only an element's clamp to ±6 does (log entry 79). -/
def quantise (rm : Nat) (xs : List (Num × Nat)) : Nat × List Nat × Nat :=
  let vs := xs.map (·.1)
  if vs.any (fun v => match v with | .fin _ _ _ => false | _ => true) then (0xFF, vs.map fun _ => 0, fNV)
  else
    match amax vs with
    | .fin _ 0 _ => (0, vs.map fun _ => 0, 0)
    | a =>
      let s := (min (max (a.exponent - 2 + 127) 0) 254).toNat
      let es := xs.map fun (v, r) => e2m1.encode rm true r (v.scale (127 - (s : Int)))
      (s, es.map (·.1), es.foldl (fun f e => Nat.lor f e.2) 0)

/-! ### Special functions (R77) -/

/-- The integer square root, by digits: fuel, the remaining value and the bit under test. -/
def isqrtAux : Nat → Nat → Nat → Nat
  | 0, _, r => r
  | k + 1, n, r => let c := r + 2 ^ k
                   if c * c ≤ n then isqrtAux k n c else isqrtAux k n r

/-- The integer square root. -/
def isqrt (n : Nat) : Nat := isqrtAux (Nat.log2 n / 2 + 1) n 0

/-- 2^f for a fraction of 64 bits, as a fixed-point number of 96 bits: the product of 2^(2^-i) over its bits. -/
def exp2Frac : Nat → Nat → Nat → Nat → Nat
  | 0, _, _, acc => acc
  | k + 1, f, r, acc => exp2Frac k f (isqrt (r * 2 ^ 96)) (if f / 2 ^ k % 2 = 1 then acc * r / 2 ^ 96 else acc)

/-- Units 2^-64 of a magnitude: rounded down, or up for the magnitude of a negative exponent, so that 2^x is not overestimated. -/
def expUnits (s : Bool) (m : Nat) (e : Int) : Nat :=
  if 0 ≤ e + 64 then m * 2 ^ (e + 64).toNat
  else let d := 2 ^ (-(e + 64)).toNat
       if s then (m + d - 1) / d else m / d

/-- A lower bound of 2^x for a finite x, in units of 2^-96 of its binade; 2^x lies less than 2^34 units above it. -/
def exp2Approx (s : Bool) (m : Nat) (e : Int) : Num :=
  let v := expUnits s m e
  let x : Int := if s then -(v : Int) else v
  let n := x / 2 ^ 64
  .fin false (exp2Frac 64 (x % 2 ^ 64).toNat (isqrt (2 * 2 ^ 192)) (2 ^ 96)) (n - 96)

/-- Fraction bits of log2 of a fixed-point number in [1, 2) of 192 bits. -/
def log2Frac : Nat → Nat → Nat → Nat
  | 0, _, acc => acc
  | k + 1, t, acc =>
    let q := t * t / 2 ^ 192
    if 2 ^ 193 ≤ q then log2Frac k (q / 2) (2 * acc + 1) else log2Frac k q (2 * acc)

/-- A lower bound, in magnitude, of log2 of a positive finite value that is no power of two, with 80 bits after the point; the magnitude of
log2 lies at most 2 units above it. -/
def log2Approx (m : Nat) (e : Int) : Num :=
  let k : Int := Nat.log2 m + e
  let v := k * 2 ^ 80 + (log2Frac 80 (m * 2 ^ 192 / 2 ^ Nat.log2 m) 0 : Nat)
  if v < 0 then .fin true (v.natAbs - 2) (-80) else .fin false v.natAbs (-80)

/-- |a - b| ≤ t for finite values. -/
def Num.near (a b t : Num) : Bool :=
  match a with
  | .fin _ _ _ => !Num.lt false t (Num.abs (Num.add 0 a b.neg).1)
  | _ => false

/-- The upper end of an enclosure: at most δ units above, and not beyond the binade. -/
def Num.above (δ : Nat) : Num → Num
  | .fin s m e => .fin s (Nat.min (m + δ) (2 ^ (Nat.log2 m + 1))) e
  | x => x

/-- A result within a bound t of an exact value that lies from lo to δ units above it: the free value of the function and operand when it is
within t of both ends, else lo rounded. -/
def within (fn : Nat) (x : BitVec 32) (lo : Num) (δ : Nat) (t : Num) : BitVec 32 × Nat :=
  let c := Config.special fn x
  if (f32 c).near lo t && (f32 c).near (lo.above δ) t then (c, fNX) else ((toF32 0 false lo).1, fNX)

/-- n ulp of FP32 at a value (R77). -/
def ulps (n : Nat) (v : Num) : Num := .fin false n (v.exponent - 23)

/-- A result below the smallest normal becomes zero of its sign with UF (R77). -/
def flushF32 (r : BitVec 32 × Nat) : BitVec 32 × Nat :=
  let x := r.1.toNat
  if x / 2 ^ 23 % 256 = 0 ∧ x % 2 ^ 23 ≠ 0 then (BitVec.ofNat 32 (x / 2 ^ 31 * 2 ^ 31), fUF) else r

/-- Whether a finite value is a power of two. -/
def isPow2 (m : Nat) : Bool := decide (m = 2 ^ Nat.log2 m)

/-- exp2 (Table 3.8). -/
def sfuExp2 (x : BitVec 32) : BitVec 32 × Nat :=
  match f32 x with
  | .nan => ((toF32 0 false .nan).1, 0)
  | .inf neg => (if neg then 0 else (toF32 0 false (.inf false)).1, 0)
  | .fin s m e =>
    let v : Num := .fin s m e
    if !Num.lt false v (.fin false 1 7) then ((toF32 0 false (.inf false)).1, fOF)
    else if Num.lt false v (.fin true 126 0) then (0, fUF)
    else
      let (n, ix) := roundAt s m e 0 1 0
      if !ix then toF32 0 false (.fin false 1 (if s then -(n : Int) else n))
      else
        let ref := exp2Approx s m e
        flushF32 (within 0 x ref (2 ^ 34) (ulps 2 ref))

/-- log2 (Table 3.8). -/
def sfuLog2 (x : BitVec 32) : BitVec 32 × Nat :=
  match f32 x with
  | .nan => ((toF32 0 false .nan).1, 0)
  | .inf neg => if neg then ((toF32 0 false .nan).1, fNV) else ((toF32 0 false (.inf false)).1, 0)
  | .fin s m e =>
    if m = 0 then ((toF32 0 false (.inf true)).1, 0)
    else if s then ((toF32 0 false .nan).1, fNV)
    else
      let k : Int := Nat.log2 m + e
      if isPow2 m then toF32 0 false (.fin (decide (k < 0)) k.natAbs 0)
      else
        let ref := log2Approx m e
        if k = 0 ∨ k = -1 then flushF32 (within 1 x ref 2 (.fin false 1 (-22)))
        else within 1 x ref 2 (ulps 2 ref)

/-- rcp (Table 3.8). DESIGN CHOICE: the reciprocal of a subnormal that lies beyond the FP32 range, for which Table 3.8 has no row, is the
infinity of its sign with OF and no NX, as Table 3.8 gives exp2 (log entry 79). -/
def sfuRcp (x : BitVec 32) : BitVec 32 × Nat :=
  match f32 x with
  | .nan => ((toF32 0 false .nan).1, 0)
  | .inf neg => (BitVec.ofNat 32 (fp32.signBits neg), 0)
  | .fin s m e =>
    if m = 0 then (BitVec.ofNat 32 (fp32.infCode s), 0)
    else
      let ref : Num := if isPow2 m then .fin s 1 (-(Nat.log2 m : Int) - e) else .fin s (2 ^ 96 / m) (-96 - e)
      if 128 ≤ ref.exponent then (BitVec.ofNat 32 (fp32.infCode s), fOF)
      else if ref.exponent < -126 then (BitVec.ofNat 32 (fp32.signBits s), fUF)
      else if isPow2 m then toF32 0 false ref
      else flushF32 (within 2 x ref 1 (ulps 1 ref))

/-- rsqrt (Table 3.8). -/
def sfuRsqrt (x : BitVec 32) : BitVec 32 × Nat :=
  match f32 x with
  | .nan => ((toF32 0 false .nan).1, 0)
  | .inf neg => if neg then ((toF32 0 false .nan).1, fNV) else (0, 0)
  | .fin s m e =>
    if m = 0 then (BitVec.ofNat 32 (fp32.infCode s), 0)
    else if s then ((toF32 0 false .nan).1, fNV)
    else
      let k : Int := Nat.log2 m + e
      if isPow2 m ∧ k % 2 = 0 then toF32 0 false (.fin false 1 (-(k / 2)))
      else
        let (m', e') := if e % 2 = 0 then (m, e) else (2 * m, e - 1)
        let ref : Num := .fin false (isqrt (2 ^ 192 / m')) (-96 - e' / 2)
        within 3 x ref 1 (ulps 2 ref)

/-- The special function with a number: 0 exp2, 1 log2, 2 rcp, 3 rsqrt. -/
def special (fn : Nat) (x : BitVec 32) : BitVec 32 × Nat :=
  match fn with
  | 0 => sfuExp2 x
  | 1 => sfuLog2 x
  | 2 => sfuRcp x
  | _ => sfuRsqrt x

/-! ### Generators of SR (R65) -/

/-- One step of a 32-bit xorshift generator. -/
def xorshift (x : BitVec 32) : BitVec 32 :=
  let x := x ^^^ (x <<< 13)
  let x := x ^^^ (x >>> 17)
  x ^^^ (x <<< 5)

end Sys2Proof.Machine
end

