-- ==== Sys2Proof/Machine/Ecc.lean ====
section
/-! DEFINITION. The check code of the tiers, tile stores, drift beats and flit bodies (R262 to R265): fold values, encoder and decoder. A word's 80
stored bits are its data at 0 to 63, the check bits c[0] to c[14] at 64 to 78, and c15 at 79 (R263). -/

namespace Sys2Proof.Machine

/-- Multiplication by α in GF(2^7) built on x^7 + x^3 + 1 (R263). -/
def gfStep (x : Nat) : Nat := if x < 64 then 2 * x else Nat.xor (2 * x - 128) 9

/-- α^i (R263). -/
def gfExp : Nat → Nat
  | 0 => 1
  | n + 1 => gfStep (gfExp n)

/-- The product of field elements, by shift and add over the bits of `b`. -/
def gfMulAux : Nat → Nat → Nat → Nat
  | 0, _, _ => 0
  | n + 1, a, b => Nat.xor (if b % 2 = 1 then a else 0) (gfMulAux n (gfStep a) (b / 2))

/-- The product of two field elements. -/
def gfMul (a b : Nat) : Nat := gfMulAux 7 a b

/-- The i below 127 with α^i = x, if x is not 0. -/
def gfLog (x : Nat) : Option Nat := (List.range 127).find? fun i => gfExp i == x

/-- The multiplicative inverse. -/
def gfInv (x : Nat) : Nat :=
  match gfLog x with
  | some i => gfExp ((127 - i) % 127)
  | none => 0

/-- The code position of a stored bit below 79 (R263): data bit b at b, check bit c[j] at 112 + j. -/
def codePos (k : Nat) : Nat := if k < 64 then k else k + 48

/-- The stored bit of a code position outside V (R263). -/
def storedPos (i : Nat) : Nat := if i < 64 then i else i - 48

/-- Whether a code position holds a bit of V (R264). -/
def inV (i : Nat) : Bool := decide (64 ≤ i) && decide (i < 112)

/-! ### Fold values (Table 10.3) -/

/-- V of a word at an offset of Tier 1 stack k. -/
def foldT1 (k off : Nat) : BitVec 48 := BitVec.ofNat 48 (1 * 2 ^ 46 + k % 16 * 2 ^ 42 + off / 8 % 2 ^ 34)

/-- V of a word at an offset of Tier 2 position k. -/
def foldT2 (k off : Nat) : BitVec 48 := BitVec.ofNat 48 (2 * 2 ^ 46 + k % 16 * 2 ^ 42 + off / 8 % 2 ^ 34)

/-- V of the word at an absolute offset of physical tile n's store (R134). -/
def foldTile (n off : Nat) : BitVec 48 := BitVec.ofNat 48 (3 * 2 ^ 46 + n % 2 ^ 11 * 2 ^ 35 + off / 8 % 2 ^ 18)

/-- V of word w of the beat with a sequence number on the drift link into a side (N 0, E 1, S 2, W 3) of physical tile n (R157). -/
def foldDrift (n side w seq : Nat) : BitVec 48 := BitVec.ofNat 48 ((4 * n + side) % 2 ^ 13 * 2 ^ 32 + w % 8 * 2 ^ 16 + seq % 2 ^ 16)

/-- V of word w of the body of the flit with a SEQ on a ring (R235). -/
def foldHaul (ring w seq : Nat) : BitVec 48 := BitVec.ofNat 48 (2 ^ 45 + ring % 2 ^ 9 * 2 ^ 32 + w % 16 * 2 ^ 8 + seq % 32)

/-! ### Encoding (R263) -/

/-- The parity of a bit vector. -/
def parity {n : Nat} (x : BitVec n) : Bool := (List.range n).foldl (fun p i => p != x.getLsbD i) false

/-- Division by the code's generator x^15 + x^14 + x^10 + x^8 + x^7 + x^4 + x^3 + 1, whose roots are 1 and the conjugates of α and α^3: the remainder once
the code positions below n, highest first, have been shifted in. -/
def checkDiv (d : Nat) : Nat → Nat → Nat
  | 0, r => r
  | n + 1, r => checkDiv d n (Nat.xor (2 * r % 2 ^ 15) (if r / 2 ^ 14 % 2 ≠ d / 2 ^ n % 2 then 0x4599 else 0))

/-- c[14:0] of a word: the sum of the columns of all set bits has zero in its first 15 bits exactly when the code positions, read as a polynomial,
are a multiple of the generator. -/
def checkBits (d : BitVec 64) (v : BitVec 48) : Nat := checkDiv (v.toNat * 2 ^ 64 + d.toNat) 112 0

/-- The 80 stored bits of a word encoded under V; c15 is the XOR of the bits of V. -/
def eccEncode (d : BitVec 64) (v : BitVec 48) : BitVec 80 :=
  BitVec.ofNat 80 ((parity v).toNat * 2 ^ 79 + checkBits d v * 2 ^ 64 + d.toNat)

/-! ### Decoding (R264) -/

/-- The syndrome (S1, S3, P, Q) of 80 stored bits read under V (R264): the sum of the columns of the set bits. -/
def syndrome (e : BitVec 80) (v : BitVec 48) : Nat × Nat × Bool × Bool :=
  let ps := ((List.range 79).filter fun k => e.getLsbD k).map codePos ++ ((List.range 48).filter fun k => v.getLsbD k).map (64 + ·)
  let s1 := ps.foldl (fun a i => Nat.xor a (gfExp i)) 0
  let s3 := ps.foldl (fun a i => Nat.xor a (gfExp (3 * i % 127))) 0
  (s1, s3, decide (ps.length % 2 = 1), e.getLsbD 79 != parity v)

/-- The KIND of a finding (Table 10.4, coded as in Table 10.10). -/
inductive EccKind where
  | single
  | double
  | fold
  | multi
deriving DecidableEq, Repr

/-- The code of a KIND in Table 10.10. -/
def EccKind.code : EccKind → Nat
  | .single => 1
  | .double => 2
  | .fold => 3
  | .multi => 4

/-- The result of decoding a word (Table 10.4): no error, the stored positions corrected, or uncorrectable. -/
inductive EccResult where
  | clean
  | corrected (kind : EccKind) (bits : List Nat)
  | bad (kind : EccKind)
deriving DecidableEq, Repr

/-- The two distinct roots α^i, α^j of x^2 + S1 x + (S3 / S1 + S1^2), if there are two (R264). -/
def eccRoots (s1 s3 : Nat) : Option (Nat × Nat) :=
  let c := Nat.xor (gfMul s3 (gfInv s1)) (gfMul s1 s1)
  let rs := (List.range 127).filter fun i =>
    let x := gfExp i
    Nat.xor (Nat.xor (gfMul x x) (gfMul s1 x)) c == 0
  match rs with
  | [i, j] => some (i, j)
  | _ => none

/-- Table 10.4, applied to a syndrome. -/
def eccDecodeSyn (s1 s3 : Nat) (p q : Bool) : EccResult :=
  match p with
  | false =>
    if s1 = 0 ∧ s3 = 0 then (if q then .corrected .single [79] else .clean)
    else if q then .bad .multi
    else if s1 = 0 then .bad .multi
    else
      match eccRoots s1 s3 with
      | some (i, j) => if inV i || inV j then .bad .fold else .corrected .double [storedPos i, storedPos j]
      | none => .bad .multi
  | true =>
    if s1 = 0 then .bad .multi
    else if s3 ≠ gfMul s1 (gfMul s1 s1) then .bad .multi
    else
      match gfLog s1 with
      | none => .bad .multi
      | some i =>
        if inV i then .bad .fold
        else if q then .corrected .double [storedPos i, 79] else .corrected .single [storedPos i]

/-- The decoding of 80 stored bits read under V (R264). -/
def eccRead (w : BitVec 80) (v : BitVec 48) : EccResult :=
  let (s1, s3, p, q) := syndrome w v
  eccDecodeSyn s1 s3 p q

/-- The decoding of a word whose stored bits differ from its encoding in `e`, read under a V that differs from its encoding V in `dv`: the code is linear, so
the sum of the columns is that of the difference alone (R265). -/
def eccDecode (e : BitVec 80) (dv : BitVec 48 := 0) : EccResult := if e = 0 ∧ dv = 0 then .clean else eccRead e dv

/-- The wrong data bits that remain after a correction: none unless the pattern was miscorrected (R265). -/
def eccResidue (e : BitVec 80) (bits : List Nat) : BitVec 64 :=
  (bits.foldl (fun (x : BitVec 80) k => x ^^^ BitVec.twoPow 80 k) e).setWidth 64

end Sys2Proof.Machine
end

