-- ==== Sys2Proof/Machine/RegMap.lean ====
section
/-! DEFINITION. The register map of BAR0 (R28, Table 1.9), written from the register tables of the spec: each register family's base,
strides and counts, and each field's bits, access code and reset value (Table 0.9). A reset value that the spec gives in
words ('Fused', 'From boot') stands as the number the assumption log names. -/

namespace Sys2Proof.Machine

/-- Access codes of Table 0.9. -/
inductive Acc where
  | ro
  | rw
  | wo
  | w1c
  | w1s
  | rc
  | rwl
deriving DecidableEq, Repr

/-- The register families of BAR0, by name. -/
inductive RegName where
  | glbPart
  | glbSectionMap
  | glbSectionApply
  | glbSectionStatus
  | glbSectionActive
  | tgeTickCtl
  | tgeTickSwitch
  | tgeTickNow
  | tgeAdmitCtl
  | tgeEnergyBudget
  | tgeEnergyStatus
  | tgeGraphCancel
  | tgeGateAdd
  | tgeNodeStatus
  | tgePartEnergyCap
  | tgeSqBase
  | tgeSqCtl
  | tgeSqHead
  | tgeCqBase
  | tgeCqCtl
  | tgeCqTail
  | tgeQStatus
  | tgePlaceCtl
  | tgePlaceStatus
  | tgePlaceDie
  | tgePlaceFence
  | tgeGate
  | seamDomain
  | seamLock
  | seamCtl
  | seamPoolT1
  | seamPoolT2
  | seamPoolMap
  | seamPoolSketch
  | seamHostBase
  | seamHostFrames
  | seamLedger
  | seamRemoteBase
  | seamRemoteCfg
  | seamLeaseBase
  | seamLeaseCfg
  | seamTierCtl
  | seamTierCtl2
  | seamContrailCtl
  | seamContrailStatus
  | seamHqBase
  | seamHqCtl
  | seamHqTail
  | seamHqHead
  | seamFree
  | seamStreams
  | seamPackStats
  | assayDieStatus
  | assayCtl
  | assayQueries
  | assayScored
  | assayListed
  | assayExcluded
  | assayEvents
  | assayHist
  | memCtl
  | memDevStatus
  | memDevEccCount
  | memDevEccLast
  | memDevEccAddr
  | memDevScrub
  | memDevRepair
  | memDevLink
  | memDevCrypt
  | portLinkGlb
  | portXportCtl
  | portXportStatus
  | portXportErr
  | portTimeCtl
  | portTimeStatus
  | portTelemBase
  | portTelemCtl
  | portSampleBase
  | portSampleCtl
  | portSampleHead
  | portLinkCtl
  | portLinkStatus
  | portFecCount
  | portLaneSym0
  | portLaneSym1
  | portReplay
  | portEvents
  | portLaneTest
  | portLaneTime
  | portRtt
  | portDevid
  | portHeraldList
  | portCollTable
  | portCollStatus
  | portPartHerald
  | hostLinkStatus
  | hostLinkErr
  | hostPfCtl
  | hostEventVec
  | hostBar2Status
  | hostIrqStatus
  | hostDmaBase
  | hostDmaCtl
  | hostDmaHead
  | hostDmaStatus
  | hostMsixAddr
  | hostMsixData
  | hostMsixMod
  | hostMsixPba
  | guardLogBase
  | guardLogCtl
  | guardLogHead
  | guardLogStatus
  | guardResetReq
  | guardResetStatus
  | guardResetRelease
  | guardCtl
  | guardOverman
  | guardRejoinCtl
  | guardRejoinPlan
  | guardRejoinAdmit
  | guardRejoinStatus
  | guardRejoinCount
  | guardProspectCtl
  | guardProspectNominate
  | guardProspectDie
  | guardProspectForce
  | guardShadowAddr
  | guardShadowCtl
  | guardShadowStatus
  | guardIntegrityCount
  | secDikPub
  | secFwStatus
  | secFwFloor
  | secFwCtl
  | secStageAddr
  | secStageCtl
  | secStageStatus
  | secAttestAddr
  | secAttestCtl
  | secAttestStatus
  | secPartCtl
  | secTenantKey
  | secSessAddr
  | secSessCtl
  | secSessStatus
  | secSessErr
  | secSealHost
  | secSealLocal
  | secSealCtl
  | secSealStatus
  | secSlot
  | clkRefStatus
  | clkGateCtl
  | clkMeridian
  | clkTimeSet
  | clkTimeStatus
  | clkPwrCtl
  | clkPwrCap
  | clkPwrStatus
  | clkPwrMeas
  | clkThermCtl
  | clkThermStatus
  | clkRailStatus
  | clkDormantCtl
  | clkDormantStatus
  | haulCtl
  | haulTimeout
  | haulStatus
  | haulRingEntered
  | haulRingLaps
  | haulRingErr
  | haulChQ
  | haulChSend
  | haulChDepth0
  | haulChDepth1
  | haulChGen
  | pstoreBoot
  | pstoreFlash
  | pstoreXferAddr
  | pstoreXferCtl
  | pstoreXferStatus
  | pstoreRec
  | pstoreBist
  | tsCtl
  | tsStatus
  | tsEccCount
  | tsEccLast
  | tsScrub
  | tsRefuse
  | plTileState
  | plDriftErr
  | secMeas
deriving DecidableEq, Repr

/-- Where the registers of a family lie: the register of indices i and j is at base + i * s1 + j * s2, i below n1 and j below n2. -/
structure Fam where
  base : Nat
  s1 : Nat
  n1 : Nat
  s2 : Nat
  n2 : Nat
deriving DecidableEq, Repr

/-- One field: its register, its bits, its access code and its reset value. -/
structure Fld where
  reg   : RegName
  hi    : Nat
  lo    : Nat
  acc   : Acc
  reset : Nat
deriving DecidableEq, Repr

/-- GLB_PART.STEPPING (reset: Fused) -/
def F.GLB_PART_STEPPING : Fld := ⟨.glbPart, 55, 48, .ro, 0⟩
/-- GLB_PART.PORTS (reset: Fused) -/
def F.GLB_PART_PORTS : Fld := ⟨.glbPart, 47, 40, .ro, 32⟩
/-- GLB_PART.T2_DEVICES (reset: Fused) -/
def F.GLB_PART_T2_DEVICES : Fld := ⟨.glbPart, 39, 32, .ro, 16⟩
/-- GLB_PART.T1_STACK_GIB (reset: Fused) -/
def F.GLB_PART_T1_STACK_GIB : Fld := ⟨.glbPart, 31, 24, .ro, 128⟩
/-- GLB_PART.TILES (reset: Fused) -/
def F.GLB_PART_TILES : Fld := ⟨.glbPart, 23, 12, .ro, 1024⟩
/-- GLB_PART.GRADE (reset: Fused) -/
def F.GLB_PART_GRADE : Fld := ⟨.glbPart, 3, 0, .ro, 3⟩
/-- GLB_SECTION_MAP.SEC7 -/
def F.GLB_SECTION_MAP_SEC7 : Fld := ⟨.glbSectionMap, 31, 28, .rw, 0⟩
/-- GLB_SECTION_MAP.SEC6 -/
def F.GLB_SECTION_MAP_SEC6 : Fld := ⟨.glbSectionMap, 27, 24, .rw, 0⟩
/-- GLB_SECTION_MAP.SEC5 -/
def F.GLB_SECTION_MAP_SEC5 : Fld := ⟨.glbSectionMap, 23, 20, .rw, 0⟩
/-- GLB_SECTION_MAP.SEC4 -/
def F.GLB_SECTION_MAP_SEC4 : Fld := ⟨.glbSectionMap, 19, 16, .rw, 0⟩
/-- GLB_SECTION_MAP.SEC3 -/
def F.GLB_SECTION_MAP_SEC3 : Fld := ⟨.glbSectionMap, 15, 12, .rw, 0⟩
/-- GLB_SECTION_MAP.SEC2 -/
def F.GLB_SECTION_MAP_SEC2 : Fld := ⟨.glbSectionMap, 11, 8, .rw, 0⟩
/-- GLB_SECTION_MAP.SEC1 -/
def F.GLB_SECTION_MAP_SEC1 : Fld := ⟨.glbSectionMap, 7, 4, .rw, 0⟩
/-- GLB_SECTION_MAP.SEC0 -/
def F.GLB_SECTION_MAP_SEC0 : Fld := ⟨.glbSectionMap, 3, 0, .rw, 0⟩
/-- GLB_SECTION_APPLY.GO -/
def F.GLB_SECTION_APPLY_GO : Fld := ⟨.glbSectionApply, 0, 0, .wo, 0⟩
/-- GLB_SECTION_STATUS.RESULT -/
def F.GLB_SECTION_STATUS_RESULT : Fld := ⟨.glbSectionStatus, 2, 0, .ro, 0⟩
/-- GLB_SECTION_ACTIVE.SEC7 -/
def F.GLB_SECTION_ACTIVE_SEC7 : Fld := ⟨.glbSectionActive, 31, 28, .ro, 0⟩
/-- GLB_SECTION_ACTIVE.SEC6 -/
def F.GLB_SECTION_ACTIVE_SEC6 : Fld := ⟨.glbSectionActive, 27, 24, .ro, 0⟩
/-- GLB_SECTION_ACTIVE.SEC5 -/
def F.GLB_SECTION_ACTIVE_SEC5 : Fld := ⟨.glbSectionActive, 23, 20, .ro, 0⟩
/-- GLB_SECTION_ACTIVE.SEC4 -/
def F.GLB_SECTION_ACTIVE_SEC4 : Fld := ⟨.glbSectionActive, 19, 16, .ro, 0⟩
/-- GLB_SECTION_ACTIVE.SEC3 -/
def F.GLB_SECTION_ACTIVE_SEC3 : Fld := ⟨.glbSectionActive, 15, 12, .ro, 0⟩
/-- GLB_SECTION_ACTIVE.SEC2 -/
def F.GLB_SECTION_ACTIVE_SEC2 : Fld := ⟨.glbSectionActive, 11, 8, .ro, 0⟩
/-- GLB_SECTION_ACTIVE.SEC1 -/
def F.GLB_SECTION_ACTIVE_SEC1 : Fld := ⟨.glbSectionActive, 7, 4, .ro, 0⟩
/-- GLB_SECTION_ACTIVE.SEC0 -/
def F.GLB_SECTION_ACTIVE_SEC0 : Fld := ⟨.glbSectionActive, 3, 0, .ro, 0⟩
/-- TGE_TICK_CTL.PENDING -/
def F.TGE_TICK_CTL_PENDING : Fld := ⟨.tgeTickCtl, 31, 31, .ro, 0⟩
/-- TGE_TICK_CTL.SWITCH_ERR -/
def F.TGE_TICK_CTL_SWITCH_ERR : Fld := ⟨.tgeTickCtl, 30, 30, .ro, 0⟩
/-- TGE_TICK_CTL.PERIOD_NEXT -/
def F.TGE_TICK_CTL_PERIOD_NEXT : Fld := ⟨.tgeTickCtl, 26, 16, .rw, 100⟩
/-- TGE_TICK_CTL.PERIOD -/
def F.TGE_TICK_CTL_PERIOD : Fld := ⟨.tgeTickCtl, 10, 0, .ro, 100⟩
/-- TGE_TICK_SWITCH.TIME -/
def F.TGE_TICK_SWITCH_TIME : Fld := ⟨.tgeTickSwitch, 63, 0, .rw, 0⟩
/-- TGE_TICK_NOW.COUNT -/
def F.TGE_TICK_NOW_COUNT : Fld := ⟨.tgeTickNow, 63, 0, .ro, 0⟩
/-- TGE_ADMIT_CTL.EN -/
def F.TGE_ADMIT_CTL_EN : Fld := ⟨.tgeAdmitCtl, 31, 31, .rw, 0⟩
/-- TGE_ADMIT_CTL.STARVE_TICKS -/
def F.TGE_ADMIT_CTL_STARVE_TICKS : Fld := ⟨.tgeAdmitCtl, 7, 0, .rw, 4⟩
/-- TGE_ENERGY_BUDGET.BUDGET_MW -/
def F.TGE_ENERGY_BUDGET_BUDGET_MW : Fld := ⟨.tgeEnergyBudget, 31, 0, .ro, 4294967295⟩
/-- TGE_ENERGY_STATUS.DEBT_UJ -/
def F.TGE_ENERGY_STATUS_DEBT_UJ : Fld := ⟨.tgeEnergyStatus, 63, 32, .ro, 0⟩
/-- TGE_ENERGY_STATUS.ADMITTED_UJ -/
def F.TGE_ENERGY_STATUS_ADMITTED_UJ : Fld := ⟨.tgeEnergyStatus, 31, 0, .ro, 0⟩
/-- TGE_GRAPH_CANCEL.TAG -/
def F.TGE_GRAPH_CANCEL_TAG : Fld := ⟨.tgeGraphCancel, 63, 0, .wo, 0⟩
/-- TGE_GATE_ADD.PART -/
def F.TGE_GATE_ADD_PART : Fld := ⟨.tgeGateAdd, 58, 56, .wo, 0⟩
/-- TGE_GATE_ADD.GATE -/
def F.TGE_GATE_ADD_GATE : Fld := ⟨.tgeGateAdd, 41, 32, .wo, 0⟩
/-- TGE_GATE_ADD.ADD -/
def F.TGE_GATE_ADD_ADD : Fld := ⟨.tgeGateAdd, 31, 0, .wo, 0⟩
/-- TGE_NODE_STATUS.GRAPHS -/
def F.TGE_NODE_STATUS_GRAPHS : Fld := ⟨.tgeNodeStatus, 44, 32, .ro, 0⟩
/-- TGE_NODE_STATUS.NODES -/
def F.TGE_NODE_STATUS_NODES : Fld := ⟨.tgeNodeStatus, 19, 0, .ro, 0⟩
/-- TGE_PART_ENERGY_CAP.CAP_MW -/
def F.TGE_PART_ENERGY_CAP_CAP_MW : Fld := ⟨.tgePartEnergyCap, 31, 0, .rw, 0⟩
/-- TGE_SQ_BASE.BASE -/
def F.TGE_SQ_BASE_BASE : Fld := ⟨.tgeSqBase, 63, 7, .rw, 0⟩
/-- TGE_SQ_CTL.EN -/
def F.TGE_SQ_CTL_EN : Fld := ⟨.tgeSqCtl, 31, 31, .rw, 0⟩
/-- TGE_SQ_CTL.SIZE_LOG2 -/
def F.TGE_SQ_CTL_SIZE_LOG2 : Fld := ⟨.tgeSqCtl, 4, 0, .rw, 4⟩
/-- TGE_SQ_HEAD.DOORBELL -/
def F.TGE_SQ_HEAD_DOORBELL : Fld := ⟨.tgeSqHead, 31, 16, .ro, 0⟩
/-- TGE_SQ_HEAD.INDEX -/
def F.TGE_SQ_HEAD_INDEX : Fld := ⟨.tgeSqHead, 15, 0, .ro, 0⟩
/-- TGE_CQ_BASE.BASE -/
def F.TGE_CQ_BASE_BASE : Fld := ⟨.tgeCqBase, 63, 7, .rw, 0⟩
/-- TGE_CQ_CTL.EN -/
def F.TGE_CQ_CTL_EN : Fld := ⟨.tgeCqCtl, 31, 31, .rw, 0⟩
/-- TGE_CQ_CTL.IRQ_EN -/
def F.TGE_CQ_CTL_IRQ_EN : Fld := ⟨.tgeCqCtl, 30, 30, .rw, 0⟩
/-- TGE_CQ_CTL.VECTOR -/
def F.TGE_CQ_CTL_VECTOR : Fld := ⟨.tgeCqCtl, 26, 16, .rw, 0⟩
/-- TGE_CQ_CTL.SIZE_LOG2 -/
def F.TGE_CQ_CTL_SIZE_LOG2 : Fld := ⟨.tgeCqCtl, 4, 0, .rw, 4⟩
/-- TGE_CQ_TAIL.PHASE -/
def F.TGE_CQ_TAIL_PHASE : Fld := ⟨.tgeCqTail, 32, 32, .ro, 1⟩
/-- TGE_CQ_TAIL.DOORBELL -/
def F.TGE_CQ_TAIL_DOORBELL : Fld := ⟨.tgeCqTail, 31, 16, .ro, 0⟩
/-- TGE_CQ_TAIL.INDEX -/
def F.TGE_CQ_TAIL_INDEX : Fld := ⟨.tgeCqTail, 15, 0, .ro, 0⟩
/-- TGE_Q_STATUS.CFG_ERR -/
def F.TGE_Q_STATUS_CFG_ERR : Fld := ⟨.tgeQStatus, 4, 4, .w1c, 0⟩
/-- TGE_Q_STATUS.CQ_WAIT -/
def F.TGE_Q_STATUS_CQ_WAIT : Fld := ⟨.tgeQStatus, 3, 3, .ro, 0⟩
/-- TGE_Q_STATUS.DOORBELL_RANGE -/
def F.TGE_Q_STATUS_DOORBELL_RANGE : Fld := ⟨.tgeQStatus, 2, 2, .w1c, 0⟩
/-- TGE_Q_STATUS.CQ_ADDR_FAULT -/
def F.TGE_Q_STATUS_CQ_ADDR_FAULT : Fld := ⟨.tgeQStatus, 1, 1, .w1c, 0⟩
/-- TGE_Q_STATUS.SQ_ADDR_FAULT -/
def F.TGE_Q_STATUS_SQ_ADDR_FAULT : Fld := ⟨.tgeQStatus, 0, 0, .w1c, 0⟩
/-- TGE_PLACE_CTL.LOCK -/
def F.TGE_PLACE_CTL_LOCK : Fld := ⟨.tgePlaceCtl, 63, 63, .w1s, 0⟩
/-- TGE_PLACE_CTL.RETIRE_EN -/
def F.TGE_PLACE_CTL_RETIRE_EN : Fld := ⟨.tgePlaceCtl, 0, 0, .rwl, 1⟩
/-- TGE_PLACE_STATUS.CHANGES -/
def F.TGE_PLACE_STATUS_CHANGES : Fld := ⟨.tgePlaceStatus, 47, 32, .ro, 0⟩
/-- TGE_PLACE_STATUS.REPLACING -/
def F.TGE_PLACE_STATUS_REPLACING : Fld := ⟨.tgePlaceStatus, 7, 4, .ro, 0⟩
/-- TGE_PLACE_STATUS.CAP_CHANGE -/
def F.TGE_PLACE_STATUS_CAP_CHANGE : Fld := ⟨.tgePlaceStatus, 3, 0, .w1c, 0⟩
/-- TGE_PLACE_DIE.LOST (reset: From repair map) -/
def F.TGE_PLACE_DIE_LOST : Fld := ⟨.tgePlaceDie, 58, 54, .ro, 0⟩
/-- TGE_PLACE_DIE.SERVING (reset: From repair map) -/
def F.TGE_PLACE_DIE_SERVING : Fld := ⟨.tgePlaceDie, 53, 49, .ro, 16⟩
/-- TGE_PLACE_DIE.BREAKS (reset: From repair map) -/
def F.TGE_PLACE_DIE_BREAKS : Fld := ⟨.tgePlaceDie, 47, 33, .ro, 0⟩
/-- TGE_PLACE_DIE.RETIRED (reset: From repair map) -/
def F.TGE_PLACE_DIE_RETIRED : Fld := ⟨.tgePlaceDie, 17, 0, .ro, 0⟩
/-- TGE_PLACE_FENCE.FENCED_TILES -/
def F.TGE_PLACE_FENCE_FENCED_TILES : Fld := ⟨.tgePlaceFence, 40, 32, .ro, 0⟩
/-- TGE_PLACE_FENCE.FENCED_COLS -/
def F.TGE_PLACE_FENCE_FENCED_COLS : Fld := ⟨.tgePlaceFence, 17, 0, .ro, 0⟩
/-- TGE_GATE.VALUE -/
def F.TGE_GATE_VALUE : Fld := ⟨.tgeGate, 31, 0, .rw, 0⟩
/-- SEAM_DOMAIN.TRAY -/
def F.SEAM_DOMAIN_TRAY : Fld := ⟨.seamDomain, 63, 48, .rwl, 0⟩
/-- SEAM_DOMAIN.POWER -/
def F.SEAM_DOMAIN_POWER : Fld := ⟨.seamDomain, 47, 32, .rwl, 0⟩
/-- SEAM_DOMAIN.COOLING -/
def F.SEAM_DOMAIN_COOLING : Fld := ⟨.seamDomain, 31, 16, .rwl, 0⟩
/-- SEAM_DOMAIN.SWITCH -/
def F.SEAM_DOMAIN_SWITCH : Fld := ⟨.seamDomain, 15, 0, .rwl, 0⟩
/-- SEAM_LOCK.LOCK -/
def F.SEAM_LOCK_LOCK : Fld := ⟨.seamLock, 63, 63, .w1s, 0⟩
/-- SEAM_CTL.EN -/
def F.SEAM_CTL_EN : Fld := ⟨.seamCtl, 63, 63, .rw, 0⟩
/-- SEAM_CTL.CFG_ERR -/
def F.SEAM_CTL_CFG_ERR : Fld := ⟨.seamCtl, 62, 62, .w1c, 0⟩
/-- SEAM_CTL.HQ_FETCH_ERR -/
def F.SEAM_CTL_HQ_FETCH_ERR : Fld := ⟨.seamCtl, 61, 61, .w1c, 0⟩
/-- SEAM_POOL_T1.FRAMES -/
def F.SEAM_POOL_T1_FRAMES : Fld := ⟨.seamPoolT1, 63, 40, .rw, 0⟩
/-- SEAM_POOL_T1.BASE -/
def F.SEAM_POOL_T1_BASE : Fld := ⟨.seamPoolT1, 23, 0, .rw, 0⟩
/-- SEAM_POOL_T2.FRAMES -/
def F.SEAM_POOL_T2_FRAMES : Fld := ⟨.seamPoolT2, 63, 39, .rw, 0⟩
/-- SEAM_POOL_T2.BASE -/
def F.SEAM_POOL_T2_BASE : Fld := ⟨.seamPoolT2, 25, 0, .rw, 0⟩
/-- SEAM_POOL_MAP.BLOCKS -/
def F.SEAM_POOL_MAP_BLOCKS : Fld := ⟨.seamPoolMap, 63, 36, .rw, 0⟩
/-- SEAM_POOL_MAP.BASE -/
def F.SEAM_POOL_MAP_BASE : Fld := ⟨.seamPoolMap, 27, 0, .rw, 0⟩
/-- SEAM_POOL_SKETCH.SLOTS -/
def F.SEAM_POOL_SKETCH_SLOTS : Fld := ⟨.seamPoolSketch, 63, 38, .rw, 0⟩
/-- SEAM_POOL_SKETCH.SLOT -/
def F.SEAM_POOL_SKETCH_SLOT : Fld := ⟨.seamPoolSketch, 34, 32, .rw, 3⟩
/-- SEAM_POOL_SKETCH.BASE -/
def F.SEAM_POOL_SKETCH_BASE : Fld := ⟨.seamPoolSketch, 30, 0, .rw, 0⟩
/-- SEAM_HOST_BASE.BASE -/
def F.SEAM_HOST_BASE_BASE : Fld := ⟨.seamHostBase, 63, 16, .rw, 0⟩
/-- SEAM_HOST_FRAMES.FRAMES -/
def F.SEAM_HOST_FRAMES_FRAMES : Fld := ⟨.seamHostFrames, 31, 0, .rw, 0⟩
/-- SEAM_LEDGER.SECTIONS (reset: From section map) -/
def F.SEAM_LEDGER_SECTIONS : Fld := ⟨.seamLedger, 47, 44, .ro, 0⟩
/-- SEAM_LEDGER.BASE (reset: From section map) -/
def F.SEAM_LEDGER_BASE : Fld := ⟨.seamLedger, 43, 0, .ro, 0⟩
/-- SEAM_REMOTE_BASE.BASE -/
def F.SEAM_REMOTE_BASE_BASE : Fld := ⟨.seamRemoteBase, 63, 16, .rw, 0⟩
/-- SEAM_REMOTE_CFG.EN -/
def F.SEAM_REMOTE_CFG_EN : Fld := ⟨.seamRemoteCfg, 63, 63, .rw, 0⟩
/-- SEAM_REMOTE_CFG.KIND -/
def F.SEAM_REMOTE_CFG_KIND : Fld := ⟨.seamRemoteCfg, 62, 62, .rw, 0⟩
/-- SEAM_REMOTE_CFG.FRAMES -/
def F.SEAM_REMOTE_CFG_FRAMES : Fld := ⟨.seamRemoteCfg, 31, 0, .rw, 0⟩
/-- SEAM_LEASE_BASE.BASE -/
def F.SEAM_LEASE_BASE_BASE : Fld := ⟨.seamLeaseBase, 41, 16, .rw, 0⟩
/-- SEAM_LEASE_CFG.EN -/
def F.SEAM_LEASE_CFG_EN : Fld := ⟨.seamLeaseCfg, 63, 63, .rw, 0⟩
/-- SEAM_LEASE_CFG.KIND -/
def F.SEAM_LEASE_CFG_KIND : Fld := ⟨.seamLeaseCfg, 62, 62, .rw, 0⟩
/-- SEAM_LEASE_CFG.HOLDER -/
def F.SEAM_LEASE_CFG_HOLDER : Fld := ⟨.seamLeaseCfg, 57, 40, .rw, 0⟩
/-- SEAM_LEASE_CFG.FRAMES -/
def F.SEAM_LEASE_CFG_FRAMES : Fld := ⟨.seamLeaseCfg, 31, 0, .rw, 0⟩
/-- SEAM_TIER_CTL.HALF_LIFE -/
def F.SEAM_TIER_CTL_HALF_LIFE : Fld := ⟨.seamTierCtl, 63, 48, .rw, 1000⟩
/-- SEAM_TIER_CTL.HEAT_ADD -/
def F.SEAM_TIER_CTL_HEAT_ADD : Fld := ⟨.seamTierCtl, 47, 40, .rw, 16⟩
/-- SEAM_TIER_CTL.DEMOTE_T1 -/
def F.SEAM_TIER_CTL_DEMOTE_T1 : Fld := ⟨.seamTierCtl, 39, 32, .rw, 4⟩
/-- SEAM_TIER_CTL.PROMOTE -/
def F.SEAM_TIER_CTL_PROMOTE : Fld := ⟨.seamTierCtl, 31, 24, .rw, 32⟩
/-- SEAM_TIER_CTL.DEMOTE_T2 -/
def F.SEAM_TIER_CTL_DEMOTE_T2 : Fld := ⟨.seamTierCtl, 23, 16, .rw, 1⟩
/-- SEAM_TIER_CTL.T1_LOW -/
def F.SEAM_TIER_CTL_T1_LOW : Fld := ⟨.seamTierCtl, 15, 8, .rw, 5⟩
/-- SEAM_TIER_CTL.T2_LOW -/
def F.SEAM_TIER_CTL_T2_LOW : Fld := ⟨.seamTierCtl, 7, 0, .rw, 5⟩
/-- SEAM_TIER_CTL2.EN -/
def F.SEAM_TIER_CTL2_EN : Fld := ⟨.seamTierCtl2, 63, 63, .rw, 1⟩
/-- SEAM_TIER_CTL2.OVERFLOW -/
def F.SEAM_TIER_CTL2_OVERFLOW : Fld := ⟨.seamTierCtl2, 62, 60, .rw, 0⟩
/-- SEAM_TIER_CTL2.MOVE_MB_S -/
def F.SEAM_TIER_CTL2_MOVE_MB_S : Fld := ⟨.seamTierCtl2, 31, 0, .rw, 50000⟩
/-- SEAM_CONTRAIL_CTL.OVERRIDE -/
def F.SEAM_CONTRAIL_CTL_OVERRIDE : Fld := ⟨.seamContrailCtl, 63, 63, .rw, 0⟩
/-- SEAM_CONTRAIL_CTL.MODE -/
def F.SEAM_CONTRAIL_CTL_MODE : Fld := ⟨.seamContrailCtl, 62, 61, .rw, 0⟩
/-- SEAM_CONTRAIL_CTL.POOL -/
def F.SEAM_CONTRAIL_CTL_POOL : Fld := ⟨.seamContrailCtl, 57, 56, .rw, 0⟩
/-- SEAM_CONTRAIL_CTL.RESULT -/
def F.SEAM_CONTRAIL_CTL_RESULT : Fld := ⟨.seamContrailCtl, 55, 52, .ro, 0⟩
/-- SEAM_CONTRAIL_CTL.TIMEOUT_US -/
def F.SEAM_CONTRAIL_CTL_TIMEOUT_US : Fld := ⟨.seamContrailCtl, 15, 0, .rw, 2000⟩
/-- SEAM_CONTRAIL_STATUS.LAPSED -/
def F.SEAM_CONTRAIL_STATUS_LAPSED : Fld := ⟨.seamContrailStatus, 63, 44, .ro, 0⟩
/-- SEAM_CONTRAIL_STATUS.ABANDONED -/
def F.SEAM_CONTRAIL_STATUS_ABANDONED : Fld := ⟨.seamContrailStatus, 31, 0, .rc, 0⟩
/-- SEAM_HQ_BASE.BASE -/
def F.SEAM_HQ_BASE_BASE : Fld := ⟨.seamHqBase, 63, 7, .rw, 0⟩
/-- SEAM_HQ_CTL.EN -/
def F.SEAM_HQ_CTL_EN : Fld := ⟨.seamHqCtl, 31, 31, .rw, 0⟩
/-- SEAM_HQ_CTL.IRQ_EN -/
def F.SEAM_HQ_CTL_IRQ_EN : Fld := ⟨.seamHqCtl, 30, 30, .rw, 0⟩
/-- SEAM_HQ_CTL.VECTOR -/
def F.SEAM_HQ_CTL_VECTOR : Fld := ⟨.seamHqCtl, 26, 16, .rw, 0⟩
/-- SEAM_HQ_CTL.SIZE_LOG2 -/
def F.SEAM_HQ_CTL_SIZE_LOG2 : Fld := ⟨.seamHqCtl, 4, 0, .rw, 4⟩
/-- SEAM_HQ_TAIL.TAIL -/
def F.SEAM_HQ_TAIL_TAIL : Fld := ⟨.seamHqTail, 15, 0, .wo, 0⟩
/-- SEAM_HQ_HEAD.HEAD -/
def F.SEAM_HQ_HEAD_HEAD : Fld := ⟨.seamHqHead, 15, 0, .ro, 0⟩
/-- SEAM_FREE.T2_FREE -/
def F.SEAM_FREE_T2_FREE : Fld := ⟨.seamFree, 63, 32, .ro, 0⟩
/-- SEAM_FREE.T1_FREE -/
def F.SEAM_FREE_T1_FREE : Fld := ⟨.seamFree, 31, 0, .ro, 0⟩
/-- SEAM_STREAMS.OPEN -/
def F.SEAM_STREAMS_OPEN : Fld := ⟨.seamStreams, 60, 40, .ro, 0⟩
/-- SEAM_STREAMS.PARKED -/
def F.SEAM_STREAMS_PARKED : Fld := ⟨.seamStreams, 20, 0, .ro, 0⟩
/-- SEAM_PACK_STATS.SAT -/
def F.SEAM_PACK_STATS_SAT : Fld := ⟨.seamPackStats, 63, 32, .rc, 0⟩
/-- SEAM_PACK_STATS.NAN -/
def F.SEAM_PACK_STATS_NAN : Fld := ⟨.seamPackStats, 31, 0, .rc, 0⟩
/-- ASSAY_DIE_STATUS.QUEUED -/
def F.ASSAY_DIE_STATUS_QUEUED : Fld := ⟨.assayDieStatus, 47, 32, .ro, 0⟩
/-- ASSAY_CTL.AUDIT_EVERY -/
def F.ASSAY_CTL_AUDIT_EVERY : Fld := ⟨.assayCtl, 31, 16, .rw, 0⟩
/-- ASSAY_CTL.FORCE_EXACT -/
def F.ASSAY_CTL_FORCE_EXACT : Fld := ⟨.assayCtl, 0, 0, .rw, 0⟩
/-- ASSAY_QUERIES.COUNT -/
def F.ASSAY_QUERIES_COUNT : Fld := ⟨.assayQueries, 63, 0, .rc, 0⟩
/-- ASSAY_SCORED.COUNT -/
def F.ASSAY_SCORED_COUNT : Fld := ⟨.assayScored, 63, 0, .rc, 0⟩
/-- ASSAY_LISTED.COUNT -/
def F.ASSAY_LISTED_COUNT : Fld := ⟨.assayListed, 63, 0, .rc, 0⟩
/-- ASSAY_EXCLUDED.COUNT -/
def F.ASSAY_EXCLUDED_COUNT : Fld := ⟨.assayExcluded, 63, 0, .rc, 0⟩
/-- ASSAY_EVENTS.TRUNC -/
def F.ASSAY_EVENTS_TRUNC : Fld := ⟨.assayEvents, 63, 48, .rc, 0⟩
/-- ASSAY_EVENTS.NONFINITE -/
def F.ASSAY_EVENTS_NONFINITE : Fld := ⟨.assayEvents, 47, 32, .rc, 0⟩
/-- ASSAY_EVENTS.UNBOUNDED -/
def F.ASSAY_EVENTS_UNBOUNDED : Fld := ⟨.assayEvents, 31, 16, .rc, 0⟩
/-- ASSAY_EVENTS.LOST -/
def F.ASSAY_EVENTS_LOST : Fld := ⟨.assayEvents, 15, 0, .rc, 0⟩
/-- ASSAY_HIST.COUNT -/
def F.ASSAY_HIST_COUNT : Fld := ⟨.assayHist, 63, 0, .rc, 0⟩
/-- MEM_CTL.LOCK -/
def F.MEM_CTL_LOCK : Fld := ⟨.memCtl, 63, 63, .w1s, 0⟩
/-- MEM_CTL.REORDER_NS -/
def F.MEM_CTL_REORDER_NS : Fld := ⟨.memCtl, 47, 32, .rwl, 500⟩
/-- MEM_CTL.ROW_CE_LIMIT -/
def F.MEM_CTL_ROW_CE_LIMIT : Fld := ⟨.memCtl, 31, 24, .rwl, 4⟩
/-- MEM_CTL.T2_SCRUB_H -/
def F.MEM_CTL_T2_SCRUB_H : Fld := ⟨.memCtl, 15, 8, .rwl, 48⟩
/-- MEM_CTL.T1_SCRUB_H -/
def F.MEM_CTL_T1_SCRUB_H : Fld := ⟨.memCtl, 7, 0, .rwl, 24⟩
/-- MEM_DEV_STATUS.TEMP -/
def F.MEM_DEV_STATUS_TEMP : Fld := ⟨.memDevStatus, 55, 48, .ro, 0⟩
/-- MEM_DEV_STATUS.REF_RATE -/
def F.MEM_DEV_STATUS_REF_RATE : Fld := ⟨.memDevStatus, 41, 40, .ro, 0⟩
/-- MEM_DEV_STATUS.READY -/
def F.MEM_DEV_STATUS_READY : Fld := ⟨.memDevStatus, 0, 0, .ro, 0⟩
/-- MEM_DEV_ECC_COUNT.UE_COUNT -/
def F.MEM_DEV_ECC_COUNT_UE_COUNT : Fld := ⟨.memDevEccCount, 63, 32, .rc, 0⟩
/-- MEM_DEV_ECC_COUNT.CE_COUNT -/
def F.MEM_DEV_ECC_COUNT_CE_COUNT : Fld := ⟨.memDevEccCount, 31, 0, .rc, 0⟩
/-- MEM_DEV_ECC_LAST.VALID -/
def F.MEM_DEV_ECC_LAST_VALID : Fld := ⟨.memDevEccLast, 63, 63, .rc, 0⟩
/-- MEM_DEV_ECC_LAST.UE -/
def F.MEM_DEV_ECC_LAST_UE : Fld := ⟨.memDevEccLast, 62, 62, .ro, 0⟩
/-- MEM_DEV_ECC_LAST.SOURCE -/
def F.MEM_DEV_ECC_LAST_SOURCE : Fld := ⟨.memDevEccLast, 61, 60, .ro, 0⟩
/-- MEM_DEV_ECC_LAST.KIND -/
def F.MEM_DEV_ECC_LAST_KIND : Fld := ⟨.memDevEccLast, 59, 57, .ro, 0⟩
/-- MEM_DEV_ECC_LAST.PARTITION -/
def F.MEM_DEV_ECC_LAST_PARTITION : Fld := ⟨.memDevEccLast, 56, 54, .ro, 0⟩
/-- MEM_DEV_ECC_LAST.BIT_A -/
def F.MEM_DEV_ECC_LAST_BIT_A : Fld := ⟨.memDevEccLast, 47, 40, .ro, 255⟩
/-- MEM_DEV_ECC_LAST.BIT_B -/
def F.MEM_DEV_ECC_LAST_BIT_B : Fld := ⟨.memDevEccLast, 39, 32, .ro, 255⟩
/-- MEM_DEV_ECC_ADDR.OFFSET -/
def F.MEM_DEV_ECC_ADDR_OFFSET : Fld := ⟨.memDevEccAddr, 36, 0, .ro, 0⟩
/-- MEM_DEV_SCRUB.PASSES -/
def F.MEM_DEV_SCRUB_PASSES : Fld := ⟨.memDevScrub, 47, 32, .ro, 0⟩
/-- MEM_DEV_SCRUB.LINE -/
def F.MEM_DEV_SCRUB_LINE : Fld := ⟨.memDevScrub, 29, 0, .ro, 0⟩
/-- MEM_DEV_REPAIR.SPPR_DONE -/
def F.MEM_DEV_REPAIR_SPPR_DONE : Fld := ⟨.memDevRepair, 63, 48, .ro, 0⟩
/-- MEM_DEV_REPAIR.HPPR_PENDING -/
def F.MEM_DEV_REPAIR_HPPR_PENDING : Fld := ⟨.memDevRepair, 47, 32, .ro, 0⟩
/-- MEM_DEV_REPAIR.SPARES_LEFT (reset: From self-test) -/
def F.MEM_DEV_REPAIR_SPARES_LEFT : Fld := ⟨.memDevRepair, 31, 16, .ro, 0⟩
/-- MEM_DEV_REPAIR.EXHAUSTED -/
def F.MEM_DEV_REPAIR_EXHAUSTED : Fld := ⟨.memDevRepair, 15, 0, .rc, 0⟩
/-- MEM_DEV_LINK.LINK_CE -/
def F.MEM_DEV_LINK_LINK_CE : Fld := ⟨.memDevLink, 63, 32, .rc, 0⟩
/-- MEM_DEV_LINK.CMD_RETRY -/
def F.MEM_DEV_LINK_CMD_RETRY : Fld := ⟨.memDevLink, 31, 0, .rc, 0⟩
/-- MEM_DEV_CRYPT.EN -/
def F.MEM_DEV_CRYPT_EN : Fld := ⟨.memDevCrypt, 63, 63, .ro, 0⟩
/-- MEM_DEV_CRYPT.PARTITION -/
def F.MEM_DEV_CRYPT_PARTITION : Fld := ⟨.memDevCrypt, 58, 56, .ro, 0⟩
/-- PORT_LINK_GLB.LOCK -/
def F.PORT_LINK_GLB_LOCK : Fld := ⟨.portLinkGlb, 63, 63, .w1s, 0⟩
/-- PORT_LINK_GLB.LANE_RETRY_S -/
def F.PORT_LINK_GLB_LANE_RETRY_S : Fld := ⟨.portLinkGlb, 39, 32, .rwl, 60⟩
/-- PORT_LINK_GLB.REPLAY_TIMEOUT_NS -/
def F.PORT_LINK_GLB_REPLAY_TIMEOUT_NS : Fld := ⟨.portLinkGlb, 15, 0, .rwl, 2000⟩
/-- PORT_XPORT_CTL.LOCK -/
def F.PORT_XPORT_CTL_LOCK : Fld := ⟨.portXportCtl, 63, 63, .w1s, 0⟩
/-- PORT_XPORT_CTL.RETRIES -/
def F.PORT_XPORT_CTL_RETRIES : Fld := ⟨.portXportCtl, 47, 44, .rwl, 3⟩
/-- PORT_XPORT_CTL.EXCLUDE_MS -/
def F.PORT_XPORT_CTL_EXCLUDE_MS : Fld := ⟨.portXportCtl, 43, 32, .rwl, 100⟩
/-- PORT_XPORT_CTL.LIFETIME_US -/
def F.PORT_XPORT_CTL_LIFETIME_US : Fld := ⟨.portXportCtl, 31, 16, .rwl, 10⟩
/-- PORT_XPORT_CTL.RETRY_US -/
def F.PORT_XPORT_CTL_RETRY_US : Fld := ⟨.portXportCtl, 15, 0, .rwl, 10⟩
/-- PORT_XPORT_STATUS.STALE -/
def F.PORT_XPORT_STATUS_STALE : Fld := ⟨.portXportStatus, 63, 48, .rc, 0⟩
/-- PORT_XPORT_STATUS.MISROUTED -/
def F.PORT_XPORT_STATUS_MISROUTED : Fld := ⟨.portXportStatus, 47, 32, .rc, 0⟩
/-- PORT_XPORT_STATUS.MALFORMED -/
def F.PORT_XPORT_STATUS_MALFORMED : Fld := ⟨.portXportStatus, 31, 16, .rc, 0⟩
/-- PORT_XPORT_STATUS.DUPLICATES -/
def F.PORT_XPORT_STATUS_DUPLICATES : Fld := ⟨.portXportStatus, 15, 0, .rc, 0⟩
/-- PORT_XPORT_ERR.TIMEOUTS -/
def F.PORT_XPORT_ERR_TIMEOUTS : Fld := ⟨.portXportErr, 63, 32, .rc, 0⟩
/-- PORT_XPORT_ERR.RESENDS -/
def F.PORT_XPORT_ERR_RESENDS : Fld := ⟨.portXportErr, 31, 16, .rc, 0⟩
/-- PORT_XPORT_ERR.EXCLUSIONS -/
def F.PORT_XPORT_ERR_EXCLUSIONS : Fld := ⟨.portXportErr, 10, 0, .ro, 0⟩
/-- PORT_TIME_CTL.DELAY_MAX_NS -/
def F.PORT_TIME_CTL_DELAY_MAX_NS : Fld := ⟨.portTimeCtl, 31, 16, .rwl, 1000⟩
/-- PORT_TIME_CTL.BEACON_US -/
def F.PORT_TIME_CTL_BEACON_US : Fld := ⟨.portTimeCtl, 15, 0, .rwl, 10⟩
/-- PORT_TIME_STATUS.OFFSET_NS -/
def F.PORT_TIME_STATUS_OFFSET_NS : Fld := ⟨.portTimeStatus, 63, 32, .ro, 0⟩
/-- PORT_TIME_STATUS.HOLDOVER -/
def F.PORT_TIME_STATUS_HOLDOVER : Fld := ⟨.portTimeStatus, 31, 31, .ro, 0⟩
/-- PORT_TIME_STATUS.PORTS_USED -/
def F.PORT_TIME_STATUS_PORTS_USED : Fld := ⟨.portTimeStatus, 5, 0, .ro, 0⟩
/-- PORT_TELEM_BASE.BASE -/
def F.PORT_TELEM_BASE_BASE : Fld := ⟨.portTelemBase, 63, 11, .rw, 0⟩
/-- PORT_TELEM_CTL.EN -/
def F.PORT_TELEM_CTL_EN : Fld := ⟨.portTelemCtl, 63, 63, .rw, 0⟩
/-- PORT_TELEM_CTL.SEQ -/
def F.PORT_TELEM_CTL_SEQ : Fld := ⟨.portTelemCtl, 47, 16, .ro, 0⟩
/-- PORT_TELEM_CTL.SIZE_LOG2 -/
def F.PORT_TELEM_CTL_SIZE_LOG2 : Fld := ⟨.portTelemCtl, 4, 0, .rw, 4⟩
/-- PORT_SAMPLE_BASE.BASE -/
def F.PORT_SAMPLE_BASE_BASE : Fld := ⟨.portSampleBase, 63, 5, .rw, 0⟩
/-- PORT_SAMPLE_CTL.EN -/
def F.PORT_SAMPLE_CTL_EN : Fld := ⟨.portSampleCtl, 63, 63, .rw, 0⟩
/-- PORT_SAMPLE_CTL.SAMPLE_LOG2 -/
def F.PORT_SAMPLE_CTL_SAMPLE_LOG2 : Fld := ⟨.portSampleCtl, 28, 24, .rw, 10⟩
/-- PORT_SAMPLE_CTL.SIZE_LOG2 -/
def F.PORT_SAMPLE_CTL_SIZE_LOG2 : Fld := ⟨.portSampleCtl, 4, 0, .rw, 10⟩
/-- PORT_SAMPLE_HEAD.DROPPED -/
def F.PORT_SAMPLE_HEAD_DROPPED : Fld := ⟨.portSampleHead, 63, 32, .rc, 0⟩
/-- PORT_SAMPLE_HEAD.INDEX -/
def F.PORT_SAMPLE_HEAD_INDEX : Fld := ⟨.portSampleHead, 19, 0, .ro, 0⟩
/-- PORT_LINK_CTL.RETRAIN -/
def F.PORT_LINK_CTL_RETRAIN : Fld := ⟨.portLinkCtl, 16, 16, .wo, 0⟩
/-- PORT_LINK_CTL.LANE_DISABLE -/
def F.PORT_LINK_CTL_LANE_DISABLE : Fld := ⟨.portLinkCtl, 15, 8, .rw, 0⟩
/-- PORT_LINK_CTL.EN -/
def F.PORT_LINK_CTL_EN : Fld := ⟨.portLinkCtl, 0, 0, .rw, 1⟩
/-- PORT_LINK_STATUS.GOOD -/
def F.PORT_LINK_STATUS_GOOD : Fld := ⟨.portLinkStatus, 47, 40, .ro, 0⟩
/-- PORT_LINK_STATUS.LANE_MAP -/
def F.PORT_LINK_STATUS_LANE_MAP : Fld := ⟨.portLinkStatus, 39, 32, .ro, 0⟩
/-- PORT_LINK_STATUS.HELD_REASON -/
def F.PORT_LINK_STATUS_HELD_REASON : Fld := ⟨.portLinkStatus, 27, 24, .ro, 0⟩
/-- PORT_LINK_STATUS.WIDTH -/
def F.PORT_LINK_STATUS_WIDTH : Fld := ⟨.portLinkStatus, 15, 12, .ro, 0⟩
/-- PORT_LINK_STATUS.STATE -/
def F.PORT_LINK_STATUS_STATE : Fld := ⟨.portLinkStatus, 3, 0, .ro, 0⟩
/-- PORT_FEC_COUNT.CW_CORRECTED -/
def F.PORT_FEC_COUNT_CW_CORRECTED : Fld := ⟨.portFecCount, 63, 32, .rc, 0⟩
/-- PORT_FEC_COUNT.CW_UNCORR -/
def F.PORT_FEC_COUNT_CW_UNCORR : Fld := ⟨.portFecCount, 31, 0, .rc, 0⟩
/-- PORT_LANE_SYM0.SYM 3 -/
def F.PORT_LANE_SYM0_SYM3 : Fld := ⟨.portLaneSym0, 63, 48, .rc, 0⟩
/-- PORT_LANE_SYM0.SYM 2 -/
def F.PORT_LANE_SYM0_SYM2 : Fld := ⟨.portLaneSym0, 47, 32, .rc, 0⟩
/-- PORT_LANE_SYM0.SYM 1 -/
def F.PORT_LANE_SYM0_SYM1 : Fld := ⟨.portLaneSym0, 31, 16, .rc, 0⟩
/-- PORT_LANE_SYM0.SYM 0 -/
def F.PORT_LANE_SYM0_SYM0 : Fld := ⟨.portLaneSym0, 15, 0, .rc, 0⟩
/-- PORT_LANE_SYM1.SYM 7 -/
def F.PORT_LANE_SYM1_SYM7 : Fld := ⟨.portLaneSym1, 63, 48, .rc, 0⟩
/-- PORT_LANE_SYM1.SYM 6 -/
def F.PORT_LANE_SYM1_SYM6 : Fld := ⟨.portLaneSym1, 47, 32, .rc, 0⟩
/-- PORT_LANE_SYM1.SYM 5 -/
def F.PORT_LANE_SYM1_SYM5 : Fld := ⟨.portLaneSym1, 31, 16, .rc, 0⟩
/-- PORT_LANE_SYM1.SYM 4 -/
def F.PORT_LANE_SYM1_SYM4 : Fld := ⟨.portLaneSym1, 15, 0, .rc, 0⟩
/-- PORT_REPLAY.REPLAYS -/
def F.PORT_REPLAY_REPLAYS : Fld := ⟨.portReplay, 63, 32, .rc, 0⟩
/-- PORT_REPLAY.CRC_FAIL -/
def F.PORT_REPLAY_CRC_FAIL : Fld := ⟨.portReplay, 31, 16, .rc, 0⟩
/-- PORT_REPLAY.TIMEOUTS -/
def F.PORT_REPLAY_TIMEOUTS : Fld := ⟨.portReplay, 15, 8, .rc, 0⟩
/-- PORT_REPLAY.RUN -/
def F.PORT_REPLAY_RUN : Fld := ⟨.portReplay, 3, 0, .ro, 0⟩
/-- PORT_EVENTS.RETRAINS -/
def F.PORT_EVENTS_RETRAINS : Fld := ⟨.portEvents, 63, 48, .rc, 0⟩
/-- PORT_EVENTS.WIDTH_DOWN -/
def F.PORT_EVENTS_WIDTH_DOWN : Fld := ⟨.portEvents, 47, 32, .rc, 0⟩
/-- PORT_EVENTS.WIDTH_UP -/
def F.PORT_EVENTS_WIDTH_UP : Fld := ⟨.portEvents, 31, 16, .rc, 0⟩
/-- PORT_EVENTS.HELD -/
def F.PORT_EVENTS_HELD : Fld := ⟨.portEvents, 15, 0, .rc, 0⟩
/-- PORT_LANE_TEST.PASSED -/
def F.PORT_LANE_TEST_PASSED : Fld := ⟨.portLaneTest, 63, 56, .ro, 0⟩
/-- PORT_LANE_TEST.TESTED -/
def F.PORT_LANE_TEST_TESTED : Fld := ⟨.portLaneTest, 55, 48, .ro, 0⟩
/-- PORT_LANE_TIME.TIME -/
def F.PORT_LANE_TIME_TIME : Fld := ⟨.portLaneTime, 63, 0, .ro, 0⟩
/-- PORT_RTT.RTT_NS -/
def F.PORT_RTT_RTT_NS : Fld := ⟨.portRtt, 31, 0, .ro, 0⟩
/-- PORT_DEVID.VALID -/
def F.PORT_DEVID_VALID : Fld := ⟨.portDevid, 63, 63, .rw, 0⟩
/-- PORT_DEVID.CFG_ERR -/
def F.PORT_DEVID_CFG_ERR : Fld := ⟨.portDevid, 62, 62, .w1c, 0⟩
/-- PORT_DEVID.EPOCH -/
def F.PORT_DEVID_EPOCH : Fld := ⟨.portDevid, 39, 32, .ro, 0⟩
/-- PORT_DEVID.ID -/
def F.PORT_DEVID_ID : Fld := ⟨.portDevid, 17, 0, .rw, 0⟩
/-- PORT_HERALD_LIST.COUNT -/
def F.PORT_HERALD_LIST_COUNT : Fld := ⟨.portHeraldList, 63, 53, .rw, 0⟩
/-- PORT_HERALD_LIST.BASE -/
def F.PORT_HERALD_LIST_BASE : Fld := ⟨.portHeraldList, 43, 6, .rw, 0⟩
/-- PORT_COLL_TABLE.EN -/
def F.PORT_COLL_TABLE_EN : Fld := ⟨.portCollTable, 63, 63, .rw, 0⟩
/-- PORT_COLL_TABLE.ENTRIES -/
def F.PORT_COLL_TABLE_ENTRIES : Fld := ⟨.portCollTable, 51, 44, .rw, 0⟩
/-- PORT_COLL_TABLE.BASE -/
def F.PORT_COLL_TABLE_BASE : Fld := ⟨.portCollTable, 43, 6, .rw, 0⟩
/-- PORT_COLL_STATUS.DONE -/
def F.PORT_COLL_STATUS_DONE : Fld := ⟨.portCollStatus, 63, 32, .rc, 0⟩
/-- PORT_COLL_STATUS.FAILED -/
def F.PORT_COLL_STATUS_FAILED : Fld := ⟨.portCollStatus, 31, 16, .rc, 0⟩
/-- PORT_COLL_STATUS.ACTIVE -/
def F.PORT_COLL_STATUS_ACTIVE : Fld := ⟨.portCollStatus, 8, 0, .ro, 0⟩
/-- PORT_PART_HERALD.RESETS_RX -/
def F.PORT_PART_HERALD_RESETS_RX : Fld := ⟨.portPartHerald, 63, 48, .rc, 0⟩
/-- PORT_PART_HERALD.RETURNS_RX -/
def F.PORT_PART_HERALD_RETURNS_RX : Fld := ⟨.portPartHerald, 47, 32, .rc, 0⟩
/-- HOST_LINK_STATUS.FLIT -/
def F.HOST_LINK_STATUS_FLIT : Fld := ⟨.hostLinkStatus, 20, 20, .ro, 0⟩
/-- HOST_LINK_STATUS.GEN -/
def F.HOST_LINK_STATUS_GEN : Fld := ⟨.hostLinkStatus, 19, 16, .ro, 0⟩
/-- HOST_LINK_STATUS.WIDTH -/
def F.HOST_LINK_STATUS_WIDTH : Fld := ⟨.hostLinkStatus, 13, 8, .ro, 0⟩
/-- HOST_LINK_STATUS.DL_UP -/
def F.HOST_LINK_STATUS_DL_UP : Fld := ⟨.hostLinkStatus, 0, 0, .ro, 0⟩
/-- HOST_LINK_ERR.RETRAINS -/
def F.HOST_LINK_ERR_RETRAINS : Fld := ⟨.hostLinkErr, 63, 48, .rc, 0⟩
/-- HOST_LINK_ERR.DOWN -/
def F.HOST_LINK_ERR_DOWN : Fld := ⟨.hostLinkErr, 47, 32, .rc, 0⟩
/-- HOST_LINK_ERR.CPL_TIMEOUT -/
def F.HOST_LINK_ERR_CPL_TIMEOUT : Fld := ⟨.hostLinkErr, 31, 0, .rc, 0⟩
/-- HOST_PF_CTL.BAR2_PART -/
def F.HOST_PF_CTL_BAR2_PART : Fld := ⟨.hostPfCtl, 2, 0, .rw, 0⟩
/-- HOST_EVENT_VEC.LINK_EN -/
def F.HOST_EVENT_VEC_LINK_EN : Fld := ⟨.hostEventVec, 63, 63, .rw, 0⟩
/-- HOST_EVENT_VEC.LINK_VEC -/
def F.HOST_EVENT_VEC_LINK_VEC : Fld := ⟨.hostEventVec, 62, 52, .rw, 0⟩
/-- HOST_EVENT_VEC.CAP_EN -/
def F.HOST_EVENT_VEC_CAP_EN : Fld := ⟨.hostEventVec, 47, 47, .rw, 0⟩
/-- HOST_EVENT_VEC.CAP_VEC -/
def F.HOST_EVENT_VEC_CAP_VEC : Fld := ⟨.hostEventVec, 46, 36, .rw, 0⟩
/-- HOST_EVENT_VEC.RESET_EN -/
def F.HOST_EVENT_VEC_RESET_EN : Fld := ⟨.hostEventVec, 31, 31, .rw, 0⟩
/-- HOST_EVENT_VEC.RESET_VEC -/
def F.HOST_EVENT_VEC_RESET_VEC : Fld := ⟨.hostEventVec, 30, 20, .rw, 0⟩
/-- HOST_EVENT_VEC.ERR_EN -/
def F.HOST_EVENT_VEC_ERR_EN : Fld := ⟨.hostEventVec, 15, 15, .rw, 0⟩
/-- HOST_EVENT_VEC.ERR_VEC -/
def F.HOST_EVENT_VEC_ERR_VEC : Fld := ⟨.hostEventVec, 14, 4, .rw, 0⟩
/-- HOST_BAR2_STATUS.REFUSED_RD -/
def F.HOST_BAR2_STATUS_REFUSED_RD : Fld := ⟨.hostBar2Status, 63, 32, .rc, 0⟩
/-- HOST_BAR2_STATUS.REFUSED_WR -/
def F.HOST_BAR2_STATUS_REFUSED_WR : Fld := ⟨.hostBar2Status, 31, 0, .rc, 0⟩
/-- HOST_IRQ_STATUS.BAD_VECTOR -/
def F.HOST_IRQ_STATUS_BAD_VECTOR : Fld := ⟨.hostIrqStatus, 63, 32, .rc, 0⟩
/-- HOST_IRQ_STATUS.SENT -/
def F.HOST_IRQ_STATUS_SENT : Fld := ⟨.hostIrqStatus, 31, 0, .rc, 0⟩
/-- HOST_DMA_BASE.BASE -/
def F.HOST_DMA_BASE_BASE : Fld := ⟨.hostDmaBase, 63, 6, .rw, 0⟩
/-- HOST_DMA_CTL.EN -/
def F.HOST_DMA_CTL_EN : Fld := ⟨.hostDmaCtl, 31, 31, .rw, 0⟩
/-- HOST_DMA_CTL.IRQ_EN -/
def F.HOST_DMA_CTL_IRQ_EN : Fld := ⟨.hostDmaCtl, 30, 30, .rw, 0⟩
/-- HOST_DMA_CTL.PART -/
def F.HOST_DMA_CTL_PART : Fld := ⟨.hostDmaCtl, 29, 27, .rw, 0⟩
/-- HOST_DMA_CTL.VECTOR -/
def F.HOST_DMA_CTL_VECTOR : Fld := ⟨.hostDmaCtl, 26, 16, .rw, 0⟩
/-- HOST_DMA_CTL.SIZE_LOG2 -/
def F.HOST_DMA_CTL_SIZE_LOG2 : Fld := ⟨.hostDmaCtl, 4, 0, .rw, 4⟩
/-- HOST_DMA_HEAD.TAIL -/
def F.HOST_DMA_HEAD_TAIL : Fld := ⟨.hostDmaHead, 31, 16, .ro, 0⟩
/-- HOST_DMA_HEAD.HEAD -/
def F.HOST_DMA_HEAD_HEAD : Fld := ⟨.hostDmaHead, 15, 0, .ro, 0⟩
/-- HOST_DMA_STATUS.DONE_COUNT -/
def F.HOST_DMA_STATUS_DONE_COUNT : Fld := ⟨.hostDmaStatus, 63, 32, .rc, 0⟩
/-- HOST_DMA_STATUS.FAIL_INDEX -/
def F.HOST_DMA_STATUS_FAIL_INDEX : Fld := ⟨.hostDmaStatus, 31, 16, .ro, 0⟩
/-- HOST_DMA_STATUS.DOORBELL_RANGE -/
def F.HOST_DMA_STATUS_DOORBELL_RANGE : Fld := ⟨.hostDmaStatus, 2, 2, .w1c, 0⟩
/-- HOST_DMA_STATUS.ERR -/
def F.HOST_DMA_STATUS_ERR : Fld := ⟨.hostDmaStatus, 1, 1, .w1c, 0⟩
/-- HOST_DMA_STATUS.BUSY -/
def F.HOST_DMA_STATUS_BUSY : Fld := ⟨.hostDmaStatus, 0, 0, .ro, 0⟩
/-- HOST_MSIX_ADDR.ADDR -/
def F.HOST_MSIX_ADDR_ADDR : Fld := ⟨.hostMsixAddr, 63, 2, .rw, 0⟩
/-- HOST_MSIX_DATA.MASK -/
def F.HOST_MSIX_DATA_MASK : Fld := ⟨.hostMsixData, 32, 32, .rw, 1⟩
/-- HOST_MSIX_DATA.DATA -/
def F.HOST_MSIX_DATA_DATA : Fld := ⟨.hostMsixData, 31, 0, .rw, 0⟩
/-- HOST_MSIX_MOD.COUNT -/
def F.HOST_MSIX_MOD_COUNT : Fld := ⟨.hostMsixMod, 47, 32, .rw, 1⟩
/-- HOST_MSIX_MOD.TIME_US -/
def F.HOST_MSIX_MOD_TIME_US : Fld := ⟨.hostMsixMod, 31, 0, .rw, 0⟩
/-- HOST_MSIX_PBA.PENDING -/
def F.HOST_MSIX_PBA_PENDING : Fld := ⟨.hostMsixPba, 63, 0, .ro, 0⟩
/-- GUARD_LOG_BASE.BASE -/
def F.GUARD_LOG_BASE_BASE : Fld := ⟨.guardLogBase, 63, 6, .rw, 0⟩
/-- GUARD_LOG_CTL.EN -/
def F.GUARD_LOG_CTL_EN : Fld := ⟨.guardLogCtl, 31, 31, .rw, 0⟩
/-- GUARD_LOG_CTL.SIZE_LOG2 -/
def F.GUARD_LOG_CTL_SIZE_LOG2 : Fld := ⟨.guardLogCtl, 4, 0, .rw, 4⟩
/-- GUARD_LOG_HEAD.HEAD -/
def F.GUARD_LOG_HEAD_HEAD : Fld := ⟨.guardLogHead, 15, 0, .rw, 0⟩
/-- GUARD_LOG_STATUS.OVERFLOW -/
def F.GUARD_LOG_STATUS_OVERFLOW : Fld := ⟨.guardLogStatus, 63, 63, .w1c, 0⟩
/-- GUARD_LOG_STATUS.WAITING -/
def F.GUARD_LOG_STATUS_WAITING : Fld := ⟨.guardLogStatus, 55, 48, .ro, 0⟩
/-- GUARD_LOG_STATUS.LOST -/
def F.GUARD_LOG_STATUS_LOST : Fld := ⟨.guardLogStatus, 47, 32, .rc, 0⟩
/-- GUARD_LOG_STATUS.DROPPED -/
def F.GUARD_LOG_STATUS_DROPPED : Fld := ⟨.guardLogStatus, 31, 16, .rc, 0⟩
/-- GUARD_LOG_STATUS.INDEX -/
def F.GUARD_LOG_STATUS_INDEX : Fld := ⟨.guardLogStatus, 15, 0, .ro, 0⟩
/-- GUARD_RESET_REQ.LEVEL -/
def F.GUARD_RESET_REQ_LEVEL : Fld := ⟨.guardResetReq, 63, 61, .wo, 0⟩
/-- GUARD_RESET_REQ.UNIT_KIND -/
def F.GUARD_RESET_REQ_UNIT_KIND : Fld := ⟨.guardResetReq, 60, 57, .wo, 0⟩
/-- GUARD_RESET_REQ.UNIT_INDEX -/
def F.GUARD_RESET_REQ_UNIT_INDEX : Fld := ⟨.guardResetReq, 56, 46, .wo, 0⟩
/-- GUARD_RESET_REQ.HOLD -/
def F.GUARD_RESET_REQ_HOLD : Fld := ⟨.guardResetReq, 4, 4, .wo, 0⟩
/-- GUARD_RESET_REQ.PARTITION -/
def F.GUARD_RESET_REQ_PARTITION : Fld := ⟨.guardResetReq, 2, 0, .wo, 0⟩
/-- GUARD_RESET_STATUS.BUSY -/
def F.GUARD_RESET_STATUS_BUSY : Fld := ⟨.guardResetStatus, 63, 63, .ro, 0⟩
/-- GUARD_RESET_STATUS.LEVEL -/
def F.GUARD_RESET_STATUS_LEVEL : Fld := ⟨.guardResetStatus, 62, 60, .ro, 0⟩
/-- GUARD_RESET_STATUS.REFUSED -/
def F.GUARD_RESET_STATUS_REFUSED : Fld := ⟨.guardResetStatus, 59, 59, .w1c, 0⟩
/-- GUARD_RESET_STATUS.RESETTING -/
def F.GUARD_RESET_STATUS_RESETTING : Fld := ⟨.guardResetStatus, 15, 8, .ro, 0⟩
/-- GUARD_RESET_STATUS.HELD -/
def F.GUARD_RESET_STATUS_HELD : Fld := ⟨.guardResetStatus, 7, 0, .ro, 0⟩
/-- GUARD_RESET_RELEASE.PARTS -/
def F.GUARD_RESET_RELEASE_PARTS : Fld := ⟨.guardResetRelease, 7, 0, .wo, 0⟩
/-- GUARD_CTL.LOCK -/
def F.GUARD_CTL_LOCK : Fld := ⟨.guardCtl, 63, 63, .w1s, 0⟩
/-- GUARD_CTL.TILE_UE_LIMIT -/
def F.GUARD_CTL_TILE_UE_LIMIT : Fld := ⟨.guardCtl, 47, 40, .rwl, 4⟩
/-- GUARD_CTL.DRAIN_MS -/
def F.GUARD_CTL_DRAIN_MS : Fld := ⟨.guardCtl, 24, 16, .rwl, 100⟩
/-- GUARD_CTL.AUTO_PC -/
def F.GUARD_CTL_AUTO_PC : Fld := ⟨.guardCtl, 0, 0, .rwl, 1⟩
/-- GUARD_OVERMAN.ACTIVE_DIE2 -/
def F.GUARD_OVERMAN_ACTIVE_DIE2 : Fld := ⟨.guardOverman, 63, 63, .ro, 0⟩
/-- GUARD_OVERMAN.STANDBY -/
def F.GUARD_OVERMAN_STANDBY : Fld := ⟨.guardOverman, 62, 62, .ro, 1⟩
/-- GUARD_OVERMAN.SWITCH -/
def F.GUARD_OVERMAN_SWITCH : Fld := ⟨.guardOverman, 61, 61, .wo, 0⟩
/-- GUARD_OVERMAN.FAILOVERS -/
def F.GUARD_OVERMAN_FAILOVERS : Fld := ⟨.guardOverman, 31, 0, .ro, 0⟩
/-- GUARD_REJOIN_CTL.MODE (reset: From persistent store) -/
def F.GUARD_REJOIN_CTL_MODE : Fld := ⟨.guardRejoinCtl, 63, 63, .rw, 0⟩
/-- GUARD_REJOIN_CTL.GO -/
def F.GUARD_REJOIN_CTL_GO : Fld := ⟨.guardRejoinCtl, 62, 62, .wo, 0⟩
/-- GUARD_REJOIN_CTL.ABORT -/
def F.GUARD_REJOIN_CTL_ABORT : Fld := ⟨.guardRejoinCtl, 61, 61, .wo, 0⟩
/-- GUARD_REJOIN_CTL.REFUSED -/
def F.GUARD_REJOIN_CTL_REFUSED : Fld := ⟨.guardRejoinCtl, 60, 60, .w1c, 0⟩
/-- GUARD_REJOIN_PLAN.ADDR (reset: From persistent store) -/
def F.GUARD_REJOIN_PLAN_ADDR : Fld := ⟨.guardRejoinPlan, 63, 6, .rw, 0⟩
/-- GUARD_REJOIN_ADMIT.TIME -/
def F.GUARD_REJOIN_ADMIT_TIME : Fld := ⟨.guardRejoinAdmit, 63, 0, .rw, 0⟩
/-- GUARD_REJOIN_STATUS.STAGE -/
def F.GUARD_REJOIN_STATUS_STAGE : Fld := ⟨.guardRejoinStatus, 63, 60, .ro, 0⟩
/-- GUARD_REJOIN_STATUS.RESULT -/
def F.GUARD_REJOIN_STATUS_RESULT : Fld := ⟨.guardRejoinStatus, 59, 56, .ro, 0⟩
/-- GUARD_REJOIN_STATUS.HELD -/
def F.GUARD_REJOIN_STATUS_HELD : Fld := ⟨.guardRejoinStatus, 55, 55, .ro, 0⟩
/-- GUARD_REJOIN_STATUS.DONE -/
def F.GUARD_REJOIN_STATUS_DONE : Fld := ⟨.guardRejoinStatus, 31, 0, .ro, 0⟩
/-- GUARD_REJOIN_COUNT.RESTORED -/
def F.GUARD_REJOIN_COUNT_RESTORED : Fld := ⟨.guardRejoinCount, 63, 32, .ro, 0⟩
/-- GUARD_REJOIN_COUNT.FAILED -/
def F.GUARD_REJOIN_COUNT_FAILED : Fld := ⟨.guardRejoinCount, 31, 0, .ro, 0⟩
/-- GUARD_PROSPECT_CTL.LOCK -/
def F.GUARD_PROSPECT_CTL_LOCK : Fld := ⟨.guardProspectCtl, 63, 63, .w1s, 0⟩
/-- GUARD_PROSPECT_CTL.EN -/
def F.GUARD_PROSPECT_CTL_EN : Fld := ⟨.guardProspectCtl, 16, 16, .rwl, 1⟩
/-- GUARD_PROSPECT_CTL.INTERVAL_S -/
def F.GUARD_PROSPECT_CTL_INTERVAL_S : Fld := ⟨.guardProspectCtl, 15, 0, .rwl, 40⟩
/-- GUARD_PROSPECT_NOMINATE.TILE -/
def F.GUARD_PROSPECT_NOMINATE_TILE : Fld := ⟨.guardProspectNominate, 10, 0, .wo, 0⟩
/-- GUARD_PROSPECT_DIE.PASSES -/
def F.GUARD_PROSPECT_DIE_PASSES : Fld := ⟨.guardProspectDie, 63, 48, .ro, 0⟩
/-- GUARD_PROSPECT_DIE.CURRENT -/
def F.GUARD_PROSPECT_DIE_CURRENT : Fld := ⟨.guardProspectDie, 47, 37, .ro, 2047⟩
/-- GUARD_PROSPECT_DIE.TESTING -/
def F.GUARD_PROSPECT_DIE_TESTING : Fld := ⟨.guardProspectDie, 36, 36, .ro, 0⟩
/-- GUARD_PROSPECT_DIE.DEFERRED -/
def F.GUARD_PROSPECT_DIE_DEFERRED : Fld := ⟨.guardProspectDie, 35, 35, .ro, 0⟩
/-- GUARD_PROSPECT_DIE.QUEUED -/
def F.GUARD_PROSPECT_DIE_QUEUED : Fld := ⟨.guardProspectDie, 34, 32, .ro, 0⟩
/-- GUARD_PROSPECT_DIE.FAILS -/
def F.GUARD_PROSPECT_DIE_FAILS : Fld := ⟨.guardProspectDie, 31, 16, .ro, 0⟩
/-- GUARD_PROSPECT_DIE.POSITION (reset: From persistent store) -/
def F.GUARD_PROSPECT_DIE_POSITION : Fld := ⟨.guardProspectDie, 8, 0, .ro, 0⟩
/-- GUARD_PROSPECT_FORCE.FORCED -/
def F.GUARD_PROSPECT_FORCE_FORCED : Fld := ⟨.guardProspectForce, 63, 32, .rc, 0⟩
/-- GUARD_PROSPECT_FORCE.DEFER_S -/
def F.GUARD_PROSPECT_FORCE_DEFER_S : Fld := ⟨.guardProspectForce, 31, 0, .ro, 0⟩
/-- GUARD_SHADOW_ADDR.ADDR -/
def F.GUARD_SHADOW_ADDR_ADDR : Fld := ⟨.guardShadowAddr, 63, 8, .rw, 0⟩
/-- GUARD_SHADOW_CTL.GO -/
def F.GUARD_SHADOW_CTL_GO : Fld := ⟨.guardShadowCtl, 0, 0, .wo, 0⟩
/-- GUARD_SHADOW_STATUS.RESULT -/
def F.GUARD_SHADOW_STATUS_RESULT : Fld := ⟨.guardShadowStatus, 63, 56, .ro, 0⟩
/-- GUARD_SHADOW_STATUS.BUSY_ERR -/
def F.GUARD_SHADOW_STATUS_BUSY_ERR : Fld := ⟨.guardShadowStatus, 3, 3, .w1c, 0⟩
/-- GUARD_SHADOW_STATUS.STATE -/
def F.GUARD_SHADOW_STATUS_STATE : Fld := ⟨.guardShadowStatus, 2, 0, .ro, 0⟩
/-- GUARD_INTEGRITY_COUNT.TRIPS -/
def F.GUARD_INTEGRITY_COUNT_TRIPS : Fld := ⟨.guardIntegrityCount, 63, 32, .rc, 0⟩
/-- GUARD_INTEGRITY_COUNT.SHADOW_RUNS -/
def F.GUARD_INTEGRITY_COUNT_SHADOW_RUNS : Fld := ⟨.guardIntegrityCount, 31, 16, .rc, 0⟩
/-- GUARD_INTEGRITY_COUNT.SHADOW_BAD -/
def F.GUARD_INTEGRITY_COUNT_SHADOW_BAD : Fld := ⟨.guardIntegrityCount, 15, 0, .rc, 0⟩
/-- SEC_DIK_PUB.KEY (reset: From key engine) -/
def F.SEC_DIK_PUB_KEY : Fld := ⟨.secDikPub, 63, 0, .ro, 0⟩
/-- SEC_FW_STATUS.SVN_LOADER -/
def F.SEC_FW_STATUS_SVN_LOADER : Fld := ⟨.secFwStatus, 63, 48, .ro, 0⟩
/-- SEC_FW_STATUS.SVN_OVERMAN -/
def F.SEC_FW_STATUS_SVN_OVERMAN : Fld := ⟨.secFwStatus, 47, 32, .ro, 0⟩
/-- SEC_FW_STATUS.SVN_TILE -/
def F.SEC_FW_STATUS_SVN_TILE : Fld := ⟨.secFwStatus, 31, 16, .ro, 0⟩
/-- SEC_FW_STATUS.SVN_MICRO -/
def F.SEC_FW_STATUS_SVN_MICRO : Fld := ⟨.secFwStatus, 15, 0, .ro, 0⟩
/-- SEC_FW_FLOOR.FLOOR_LOADER -/
def F.SEC_FW_FLOOR_FLOOR_LOADER : Fld := ⟨.secFwFloor, 63, 48, .ro, 0⟩
/-- SEC_FW_FLOOR.FLOOR_OVERMAN -/
def F.SEC_FW_FLOOR_FLOOR_OVERMAN : Fld := ⟨.secFwFloor, 47, 32, .ro, 0⟩
/-- SEC_FW_FLOOR.FLOOR_TILE -/
def F.SEC_FW_FLOOR_FLOOR_TILE : Fld := ⟨.secFwFloor, 31, 16, .ro, 0⟩
/-- SEC_FW_FLOOR.FLOOR_MICRO -/
def F.SEC_FW_FLOOR_FLOOR_MICRO : Fld := ⟨.secFwFloor, 15, 0, .ro, 0⟩
/-- SEC_FW_CTL.OWNER_ENROLLED (reset: From persistent store) -/
def F.SEC_FW_CTL_OWNER_ENROLLED : Fld := ⟨.secFwCtl, 63, 63, .ro, 0⟩
/-- SEC_FW_CTL.OWNER_REQ (reset: From persistent store) -/
def F.SEC_FW_CTL_OWNER_REQ : Fld := ⟨.secFwCtl, 62, 62, .ro, 0⟩
/-- SEC_FW_CTL.COMMIT -/
def F.SEC_FW_CTL_COMMIT : Fld := ⟨.secFwCtl, 3, 0, .w1s, 0⟩
/-- SEC_STAGE_ADDR.ADDR -/
def F.SEC_STAGE_ADDR_ADDR : Fld := ⟨.secStageAddr, 63, 6, .rw, 0⟩
/-- SEC_STAGE_CTL.GO -/
def F.SEC_STAGE_CTL_GO : Fld := ⟨.secStageCtl, 63, 63, .wo, 0⟩
/-- SEC_STAGE_CTL.TYPE -/
def F.SEC_STAGE_CTL_TYPE : Fld := ⟨.secStageCtl, 34, 32, .rw, 0⟩
/-- SEC_STAGE_CTL.LENGTH -/
def F.SEC_STAGE_CTL_LENGTH : Fld := ⟨.secStageCtl, 31, 0, .rw, 0⟩
/-- SEC_STAGE_STATUS.RESULT -/
def F.SEC_STAGE_STATUS_RESULT : Fld := ⟨.secStageStatus, 63, 60, .ro, 0⟩
/-- SEC_STAGE_STATUS.BUSY_ERR -/
def F.SEC_STAGE_STATUS_BUSY_ERR : Fld := ⟨.secStageStatus, 59, 59, .w1c, 0⟩
/-- SEC_ATTEST_ADDR.ADDR -/
def F.SEC_ATTEST_ADDR_ADDR : Fld := ⟨.secAttestAddr, 63, 12, .rw, 0⟩
/-- SEC_ATTEST_CTL.GO -/
def F.SEC_ATTEST_CTL_GO : Fld := ⟨.secAttestCtl, 63, 63, .wo, 0⟩
/-- SEC_ATTEST_CTL.PART -/
def F.SEC_ATTEST_CTL_PART : Fld := ⟨.secAttestCtl, 2, 0, .wo, 0⟩
/-- SEC_ATTEST_STATUS.RESULT -/
def F.SEC_ATTEST_STATUS_RESULT : Fld := ⟨.secAttestStatus, 63, 60, .ro, 0⟩
/-- SEC_ATTEST_STATUS.BUSY_ERR -/
def F.SEC_ATTEST_STATUS_BUSY_ERR : Fld := ⟨.secAttestStatus, 59, 59, .w1c, 0⟩
/-- SEC_PART_CTL.CONF -/
def F.SEC_PART_CTL_CONF : Fld := ⟨.secPartCtl, 63, 63, .rw, 0⟩
/-- SEC_PART_CTL.CFG_ERR -/
def F.SEC_PART_CTL_CFG_ERR : Fld := ⟨.secPartCtl, 62, 62, .w1c, 0⟩
/-- SEC_PART_CTL.STATE -/
def F.SEC_PART_CTL_STATE : Fld := ⟨.secPartCtl, 57, 56, .ro, 0⟩
/-- SEC_TENANT_KEY.KEY -/
def F.SEC_TENANT_KEY_KEY : Fld := ⟨.secTenantKey, 63, 0, .rw, 0⟩
/-- SEC_SESS_ADDR.ADDR -/
def F.SEC_SESS_ADDR_ADDR : Fld := ⟨.secSessAddr, 63, 12, .rw, 0⟩
/-- SEC_SESS_CTL.GO -/
def F.SEC_SESS_CTL_GO : Fld := ⟨.secSessCtl, 63, 63, .wo, 0⟩
/-- SEC_SESS_CTL.OP -/
def F.SEC_SESS_CTL_OP : Fld := ⟨.secSessCtl, 62, 61, .wo, 0⟩
/-- SEC_SESS_CTL.TENANT -/
def F.SEC_SESS_CTL_TENANT : Fld := ⟨.secSessCtl, 60, 60, .wo, 0⟩
/-- SEC_SESS_CTL.SLOT -/
def F.SEC_SESS_CTL_SLOT : Fld := ⟨.secSessCtl, 59, 54, .wo, 0⟩
/-- SEC_SESS_CTL.PEER_ID -/
def F.SEC_SESS_CTL_PEER_ID : Fld := ⟨.secSessCtl, 53, 36, .wo, 0⟩
/-- SEC_SESS_STATUS.RESULT -/
def F.SEC_SESS_STATUS_RESULT : Fld := ⟨.secSessStatus, 63, 60, .ro, 0⟩
/-- SEC_SESS_STATUS.BUSY_ERR -/
def F.SEC_SESS_STATUS_BUSY_ERR : Fld := ⟨.secSessStatus, 59, 59, .w1c, 0⟩
/-- SEC_SESS_ERR.AUTH_FAIL -/
def F.SEC_SESS_ERR_AUTH_FAIL : Fld := ⟨.secSessErr, 63, 32, .rc, 0⟩
/-- SEC_SESS_ERR.REPLAY -/
def F.SEC_SESS_ERR_REPLAY : Fld := ⟨.secSessErr, 31, 0, .rc, 0⟩
/-- SEC_SEAL_HOST.ADDR -/
def F.SEC_SEAL_HOST_ADDR : Fld := ⟨.secSealHost, 63, 6, .rw, 0⟩
/-- SEC_SEAL_LOCAL.ADDR -/
def F.SEC_SEAL_LOCAL_ADDR : Fld := ⟨.secSealLocal, 43, 6, .rw, 0⟩
/-- SEC_SEAL_CTL.GO -/
def F.SEC_SEAL_CTL_GO : Fld := ⟨.secSealCtl, 63, 63, .wo, 0⟩
/-- SEC_SEAL_CTL.DIR -/
def F.SEC_SEAL_CTL_DIR : Fld := ⟨.secSealCtl, 62, 62, .rw, 0⟩
/-- SEC_SEAL_CTL.SLOT -/
def F.SEC_SEAL_CTL_SLOT : Fld := ⟨.secSealCtl, 61, 56, .rw, 0⟩
/-- SEC_SEAL_CTL.POST_EN -/
def F.SEC_SEAL_CTL_POST_EN : Fld := ⟨.secSealCtl, 55, 55, .rw, 0⟩
/-- SEC_SEAL_CTL.GATE -/
def F.SEC_SEAL_CTL_GATE : Fld := ⟨.secSealCtl, 54, 45, .rw, 0⟩
/-- SEC_SEAL_CTL.UNITS -/
def F.SEC_SEAL_CTL_UNITS : Fld := ⟨.secSealCtl, 18, 0, .rw, 0⟩
/-- SEC_SEAL_STATUS.RESULT -/
def F.SEC_SEAL_STATUS_RESULT : Fld := ⟨.secSealStatus, 63, 60, .ro, 0⟩
/-- SEC_SEAL_STATUS.BUSY_ERR -/
def F.SEC_SEAL_STATUS_BUSY_ERR : Fld := ⟨.secSealStatus, 59, 59, .w1c, 0⟩
/-- SEC_SLOT.STATE -/
def F.SEC_SLOT_STATE : Fld := ⟨.secSlot, 63, 62, .ro, 0⟩
/-- SEC_SLOT.TENANT -/
def F.SEC_SLOT_TENANT : Fld := ⟨.secSlot, 61, 61, .ro, 0⟩
/-- SEC_SLOT.PEER_ID -/
def F.SEC_SLOT_PEER_ID : Fld := ⟨.secSlot, 60, 43, .ro, 0⟩
/-- SEC_SLOT.PEER_EPOCH -/
def F.SEC_SLOT_PEER_EPOCH : Fld := ⟨.secSlot, 42, 35, .ro, 0⟩
/-- SEC_SLOT.SESSION_ID -/
def F.SEC_SLOT_SESSION_ID : Fld := ⟨.secSlot, 15, 0, .ro, 0⟩
/-- CLK_REF_STATUS.HOST_LOSSES -/
def F.CLK_REF_STATUS_HOST_LOSSES : Fld := ⟨.clkRefStatus, 63, 48, .rc, 0⟩
/-- CLK_REF_STATUS.FABRIC_LOSSES -/
def F.CLK_REF_STATUS_FABRIC_LOSSES : Fld := ⟨.clkRefStatus, 47, 32, .rc, 0⟩
/-- CLK_REF_STATUS.FALLBACK_PPM -/
def F.CLK_REF_STATUS_FALLBACK_PPM : Fld := ⟨.clkRefStatus, 31, 16, .ro, 0⟩
/-- CLK_REF_STATUS.HOST_LOST -/
def F.CLK_REF_STATUS_HOST_LOST : Fld := ⟨.clkRefStatus, 5, 5, .ro, 0⟩
/-- CLK_REF_STATUS.FABRIC_LOST -/
def F.CLK_REF_STATUS_FABRIC_LOST : Fld := ⟨.clkRefStatus, 4, 4, .ro, 0⟩
/-- CLK_REF_STATUS.ON_FALLBACK -/
def F.CLK_REF_STATUS_ON_FALLBACK : Fld := ⟨.clkRefStatus, 3, 3, .ro, 0⟩
/-- CLK_REF_STATUS.FABRIC_EVT -/
def F.CLK_REF_STATUS_FABRIC_EVT : Fld := ⟨.clkRefStatus, 1, 1, .w1c, 0⟩
/-- CLK_REF_STATUS.HOST_EVT -/
def F.CLK_REF_STATUS_HOST_EVT : Fld := ⟨.clkRefStatus, 0, 0, .w1c, 0⟩
/-- CLK_GATE_CTL.LOCK -/
def F.CLK_GATE_CTL_LOCK : Fld := ⟨.clkGateCtl, 63, 63, .w1s, 0⟩
/-- CLK_GATE_CTL.GATE_EN -/
def F.CLK_GATE_CTL_GATE_EN : Fld := ⟨.clkGateCtl, 0, 0, .rwl, 1⟩
/-- CLK_MERIDIAN.TIME -/
def F.CLK_MERIDIAN_TIME : Fld := ⟨.clkMeridian, 63, 0, .ro, 0⟩
/-- CLK_TIME_SET.TIME -/
def F.CLK_TIME_SET_TIME : Fld := ⟨.clkTimeSet, 63, 0, .wo, 0⟩
/-- CLK_TIME_STATUS.HOLDOVER_MS -/
def F.CLK_TIME_STATUS_HOLDOVER_MS : Fld := ⟨.clkTimeStatus, 63, 32, .ro, 0⟩
/-- CLK_TIME_STATUS.CFG_ERR -/
def F.CLK_TIME_STATUS_CFG_ERR : Fld := ⟨.clkTimeStatus, 31, 31, .w1c, 0⟩
/-- CLK_TIME_STATUS.STATE -/
def F.CLK_TIME_STATUS_STATE : Fld := ⟨.clkTimeStatus, 1, 0, .ro, 0⟩
/-- CLK_PWR_CTL.LOCK -/
def F.CLK_PWR_CTL_LOCK : Fld := ⟨.clkPwrCtl, 63, 63, .w1s, 0⟩
/-- CLK_PWR_CTL.POLICY_EN -/
def F.CLK_PWR_CTL_POLICY_EN : Fld := ⟨.clkPwrCtl, 62, 62, .rwl, 1⟩
/-- CLK_PWR_CTL.MARGIN_PCT -/
def F.CLK_PWR_CTL_MARGIN_PCT : Fld := ⟨.clkPwrCtl, 39, 32, .rwl, 1⟩
/-- CLK_PWR_CTL.LIMIT_MW (reset: Grade limit) -/
def F.CLK_PWR_CTL_LIMIT_MW : Fld := ⟨.clkPwrCtl, 31, 0, .rwl, 2400000⟩
/-- CLK_PWR_CAP.CAP_MW -/
def F.CLK_PWR_CAP_CAP_MW : Fld := ⟨.clkPwrCap, 31, 0, .rw, 0⟩
/-- CLK_PWR_STATUS.INPUT_MW -/
def F.CLK_PWR_STATUS_INPUT_MW : Fld := ⟨.clkPwrStatus, 63, 32, .ro, 0⟩
/-- CLK_PWR_STATUS.TARGET_MW -/
def F.CLK_PWR_STATUS_TARGET_MW : Fld := ⟨.clkPwrStatus, 31, 0, .ro, 0⟩
/-- CLK_PWR_MEAS.TILE_MW -/
def F.CLK_PWR_MEAS_TILE_MW : Fld := ⟨.clkPwrMeas, 63, 32, .ro, 0⟩
/-- CLK_PWR_MEAS.OUTPUT_MW -/
def F.CLK_PWR_MEAS_OUTPUT_MW : Fld := ⟨.clkPwrMeas, 31, 0, .ro, 0⟩
/-- CLK_THERM_CTL.LOCK -/
def F.CLK_THERM_CTL_LOCK : Fld := ⟨.clkThermCtl, 63, 63, .w1s, 0⟩
/-- CLK_THERM_CTL.THROTTLE_C -/
def F.CLK_THERM_CTL_THROTTLE_C : Fld := ⟨.clkThermCtl, 15, 8, .rwl, 95⟩
/-- CLK_THERM_CTL.RESUME_C -/
def F.CLK_THERM_CTL_RESUME_C : Fld := ⟨.clkThermCtl, 7, 0, .rwl, 90⟩
/-- CLK_THERM_STATUS.HOTTEST_C -/
def F.CLK_THERM_STATUS_HOTTEST_C : Fld := ⟨.clkThermStatus, 63, 56, .ro, 0⟩
/-- CLK_THERM_STATUS.SENSOR -/
def F.CLK_THERM_STATUS_SENSOR : Fld := ⟨.clkThermStatus, 55, 48, .ro, 0⟩
/-- CLK_THERM_STATUS.HALT -/
def F.CLK_THERM_STATUS_HALT : Fld := ⟨.clkThermStatus, 1, 1, .ro, 0⟩
/-- CLK_THERM_STATUS.DERATE -/
def F.CLK_THERM_STATUS_DERATE : Fld := ⟨.clkThermStatus, 0, 0, .ro, 0⟩
/-- CLK_RAIL_STATUS.FAULT (reset: From module controller) -/
def F.CLK_RAIL_STATUS_FAULT : Fld := ⟨.clkRailStatus, 44, 32, .w1c, 0⟩
/-- CLK_RAIL_STATUS.WARN -/
def F.CLK_RAIL_STATUS_WARN : Fld := ⟨.clkRailStatus, 12, 0, .w1c, 0⟩
/-- CLK_DORMANT_CTL.EXIT -/
def F.CLK_DORMANT_CTL_EXIT : Fld := ⟨.clkDormantCtl, 1, 1, .wo, 0⟩
/-- CLK_DORMANT_CTL.ENTER -/
def F.CLK_DORMANT_CTL_ENTER : Fld := ⟨.clkDormantCtl, 0, 0, .wo, 0⟩
/-- CLK_DORMANT_STATUS.ENTRIES -/
def F.CLK_DORMANT_STATUS_ENTRIES : Fld := ⟨.clkDormantStatus, 63, 32, .ro, 0⟩
/-- CLK_DORMANT_STATUS.LAST_WAKE_US -/
def F.CLK_DORMANT_STATUS_LAST_WAKE_US : Fld := ⟨.clkDormantStatus, 31, 16, .ro, 0⟩
/-- CLK_DORMANT_STATUS.EXIT_ERR -/
def F.CLK_DORMANT_STATUS_EXIT_ERR : Fld := ⟨.clkDormantStatus, 3, 3, .w1c, 0⟩
/-- CLK_DORMANT_STATUS.CAUSE -/
def F.CLK_DORMANT_STATUS_CAUSE : Fld := ⟨.clkDormantStatus, 2, 2, .ro, 0⟩
/-- CLK_DORMANT_STATUS.STATE -/
def F.CLK_DORMANT_STATUS_STATE : Fld := ⟨.clkDormantStatus, 1, 0, .ro, 0⟩
/-- HAUL_CTL.LOCK -/
def F.HAUL_CTL_LOCK : Fld := ⟨.haulCtl, 63, 63, .w1s, 0⟩
/-- HAUL_CTL.QUOTA -/
def F.HAUL_CTL_QUOTA : Fld := ⟨.haulCtl, 47, 28, .rwl, 0⟩
/-- HAUL_CTL.RESEND_LIMIT -/
def F.HAUL_CTL_RESEND_LIMIT : Fld := ⟨.haulCtl, 27, 20, .rwl, 8⟩
/-- HAUL_CTL.AGE_SLACK -/
def F.HAUL_CTL_AGE_SLACK : Fld := ⟨.haulCtl, 11, 0, .rwl, 200⟩
/-- HAUL_TIMEOUT.TIMEOUT_HC -/
def F.HAUL_TIMEOUT_TIMEOUT_HC : Fld := ⟨.haulTimeout, 31, 0, .rwl, 85000⟩
/-- HAUL_STATUS.SHUNTS -/
def F.HAUL_STATUS_SHUNTS : Fld := ⟨.haulStatus, 63, 48, .ro, 0⟩
/-- HAUL_STATUS.UNREACHABLE -/
def F.HAUL_STATUS_UNREACHABLE : Fld := ⟨.haulStatus, 47, 40, .rc, 0⟩
/-- HAUL_STATUS.SIDEBAND_UE -/
def F.HAUL_STATUS_SIDEBAND_UE : Fld := ⟨.haulStatus, 39, 32, .rc, 0⟩
/-- HAUL_STATUS.TIMEOUTS -/
def F.HAUL_STATUS_TIMEOUTS : Fld := ⟨.haulStatus, 31, 0, .rc, 0⟩
/-- HAUL_RING_ENTERED.COUNT -/
def F.HAUL_RING_ENTERED_COUNT : Fld := ⟨.haulRingEntered, 63, 0, .rc, 0⟩
/-- HAUL_RING_LAPS.LAPS -/
def F.HAUL_RING_LAPS_LAPS : Fld := ⟨.haulRingLaps, 63, 32, .rc, 0⟩
/-- HAUL_RING_LAPS.THROTTLED -/
def F.HAUL_RING_LAPS_THROTTLED : Fld := ⟨.haulRingLaps, 31, 0, .rc, 0⟩
/-- HAUL_RING_ERR.DISCARDED -/
def F.HAUL_RING_ERR_DISCARDED : Fld := ⟨.haulRingErr, 63, 48, .rc, 0⟩
/-- HAUL_RING_ERR.BODY_UE -/
def F.HAUL_RING_ERR_BODY_UE : Fld := ⟨.haulRingErr, 31, 16, .rc, 0⟩
/-- HAUL_RING_ERR.CE -/
def F.HAUL_RING_ERR_CE : Fld := ⟨.haulRingErr, 15, 0, .rc, 0⟩
/-- HAUL_CH_Q.MESSAGES -/
def F.HAUL_CH_Q_MESSAGES : Fld := ⟨.haulChQ, 63, 32, .rc, 0⟩
/-- HAUL_CH_Q.NACK_FULL -/
def F.HAUL_CH_Q_NACK_FULL : Fld := ⟨.haulChQ, 31, 24, .rc, 0⟩
/-- HAUL_CH_Q.NACK_GONE -/
def F.HAUL_CH_Q_NACK_GONE : Fld := ⟨.haulChQ, 23, 16, .rc, 0⟩
/-- HAUL_CH_Q.NACK_STALE -/
def F.HAUL_CH_Q_NACK_STALE : Fld := ⟨.haulChQ, 15, 8, .rc, 0⟩
/-- HAUL_CH_Q.NACK_FENCED -/
def F.HAUL_CH_Q_NACK_FENCED : Fld := ⟨.haulChQ, 7, 0, .rc, 0⟩
/-- HAUL_CH_SEND.SENT -/
def F.HAUL_CH_SEND_SENT : Fld := ⟨.haulChSend, 63, 32, .rc, 0⟩
/-- HAUL_CH_SEND.NACKED -/
def F.HAUL_CH_SEND_NACKED : Fld := ⟨.haulChSend, 31, 16, .rc, 0⟩
/-- HAUL_CH_SEND.STALLS -/
def F.HAUL_CH_SEND_STALLS : Fld := ⟨.haulChSend, 15, 0, .rc, 0⟩
/-- HAUL_CH_DEPTH0.DEPTH 7 -/
def F.HAUL_CH_DEPTH0_DEPTH7 : Fld := ⟨.haulChDepth0, 63, 56, .ro, 0⟩
/-- HAUL_CH_DEPTH0.DEPTH 6 -/
def F.HAUL_CH_DEPTH0_DEPTH6 : Fld := ⟨.haulChDepth0, 55, 48, .ro, 0⟩
/-- HAUL_CH_DEPTH0.DEPTH 5 -/
def F.HAUL_CH_DEPTH0_DEPTH5 : Fld := ⟨.haulChDepth0, 47, 40, .ro, 0⟩
/-- HAUL_CH_DEPTH0.DEPTH 4 -/
def F.HAUL_CH_DEPTH0_DEPTH4 : Fld := ⟨.haulChDepth0, 39, 32, .ro, 0⟩
/-- HAUL_CH_DEPTH0.DEPTH 3 -/
def F.HAUL_CH_DEPTH0_DEPTH3 : Fld := ⟨.haulChDepth0, 31, 24, .ro, 0⟩
/-- HAUL_CH_DEPTH0.DEPTH 2 -/
def F.HAUL_CH_DEPTH0_DEPTH2 : Fld := ⟨.haulChDepth0, 23, 16, .ro, 0⟩
/-- HAUL_CH_DEPTH0.DEPTH 1 -/
def F.HAUL_CH_DEPTH0_DEPTH1 : Fld := ⟨.haulChDepth0, 15, 8, .ro, 0⟩
/-- HAUL_CH_DEPTH0.DEPTH 0 -/
def F.HAUL_CH_DEPTH0_DEPTH0 : Fld := ⟨.haulChDepth0, 7, 0, .ro, 0⟩
/-- HAUL_CH_DEPTH1.DEPTH 15 -/
def F.HAUL_CH_DEPTH1_DEPTH15 : Fld := ⟨.haulChDepth1, 63, 56, .ro, 0⟩
/-- HAUL_CH_DEPTH1.DEPTH 14 -/
def F.HAUL_CH_DEPTH1_DEPTH14 : Fld := ⟨.haulChDepth1, 55, 48, .ro, 0⟩
/-- HAUL_CH_DEPTH1.DEPTH 13 -/
def F.HAUL_CH_DEPTH1_DEPTH13 : Fld := ⟨.haulChDepth1, 47, 40, .ro, 0⟩
/-- HAUL_CH_DEPTH1.DEPTH 12 -/
def F.HAUL_CH_DEPTH1_DEPTH12 : Fld := ⟨.haulChDepth1, 39, 32, .ro, 0⟩
/-- HAUL_CH_DEPTH1.DEPTH 11 -/
def F.HAUL_CH_DEPTH1_DEPTH11 : Fld := ⟨.haulChDepth1, 31, 24, .ro, 0⟩
/-- HAUL_CH_DEPTH1.DEPTH 10 -/
def F.HAUL_CH_DEPTH1_DEPTH10 : Fld := ⟨.haulChDepth1, 23, 16, .ro, 0⟩
/-- HAUL_CH_DEPTH1.DEPTH 9 -/
def F.HAUL_CH_DEPTH1_DEPTH9 : Fld := ⟨.haulChDepth1, 15, 8, .ro, 0⟩
/-- HAUL_CH_DEPTH1.DEPTH 8 -/
def F.HAUL_CH_DEPTH1_DEPTH8 : Fld := ⟨.haulChDepth1, 7, 0, .ro, 0⟩
/-- HAUL_CH_GEN.GEN 15 -/
def F.HAUL_CH_GEN_GEN15 : Fld := ⟨.haulChGen, 63, 56, .ro, 0⟩
/-- HAUL_CH_GEN.GEN 14 -/
def F.HAUL_CH_GEN_GEN14 : Fld := ⟨.haulChGen, 55, 48, .ro, 0⟩
/-- HAUL_CH_GEN.GEN 13 -/
def F.HAUL_CH_GEN_GEN13 : Fld := ⟨.haulChGen, 47, 40, .ro, 0⟩
/-- HAUL_CH_GEN.GEN 12 -/
def F.HAUL_CH_GEN_GEN12 : Fld := ⟨.haulChGen, 39, 32, .ro, 0⟩
/-- HAUL_CH_GEN.GEN 11 -/
def F.HAUL_CH_GEN_GEN11 : Fld := ⟨.haulChGen, 31, 24, .ro, 0⟩
/-- HAUL_CH_GEN.GEN 10 -/
def F.HAUL_CH_GEN_GEN10 : Fld := ⟨.haulChGen, 23, 16, .ro, 0⟩
/-- HAUL_CH_GEN.GEN 9 -/
def F.HAUL_CH_GEN_GEN9 : Fld := ⟨.haulChGen, 15, 8, .ro, 0⟩
/-- HAUL_CH_GEN.GEN 8 -/
def F.HAUL_CH_GEN_GEN8 : Fld := ⟨.haulChGen, 7, 0, .ro, 0⟩
/-- PSTORE_BOOT.BOOT_EPOCH (reset: From persistent store) -/
def F.PSTORE_BOOT_BOOT_EPOCH : Fld := ⟨.pstoreBoot, 63, 32, .ro, 0⟩
/-- PSTORE_BOOT.LAST_RESET (reset: From boot) -/
def F.PSTORE_BOOT_LAST_RESET : Fld := ⟨.pstoreBoot, 27, 24, .ro, 0⟩
/-- PSTORE_BOOT.HALT_CODE -/
def F.PSTORE_BOOT_HALT_CODE : Fld := ⟨.pstoreBoot, 23, 16, .ro, 0⟩
/-- PSTORE_BOOT.RESULT -/
def F.PSTORE_BOOT_RESULT : Fld := ⟨.pstoreBoot, 7, 4, .ro, 0⟩
/-- PSTORE_BOOT.PHASE -/
def F.PSTORE_BOOT_PHASE : Fld := ⟨.pstoreBoot, 3, 0, .ro, 0⟩
/-- PSTORE_FLASH.ERASES (reset: From flash) -/
def F.PSTORE_FLASH_ERASES : Fld := ⟨.pstoreFlash, 63, 32, .ro, 0⟩
/-- PSTORE_FLASH.WRITE_FAIL -/
def F.PSTORE_FLASH_WRITE_FAIL : Fld := ⟨.pstoreFlash, 31, 16, .rc, 0⟩
/-- PSTORE_FLASH.WRITES -/
def F.PSTORE_FLASH_WRITES : Fld := ⟨.pstoreFlash, 15, 0, .rc, 0⟩
/-- PSTORE_XFER_ADDR.ADDR -/
def F.PSTORE_XFER_ADDR_ADDR : Fld := ⟨.pstoreXferAddr, 63, 6, .rw, 0⟩
/-- PSTORE_XFER_CTL.GO -/
def F.PSTORE_XFER_CTL_GO : Fld := ⟨.pstoreXferCtl, 63, 63, .wo, 0⟩
/-- PSTORE_XFER_CTL.TYPE -/
def F.PSTORE_XFER_CTL_TYPE : Fld := ⟨.pstoreXferCtl, 35, 32, .wo, 0⟩
/-- PSTORE_XFER_CTL.INDEX -/
def F.PSTORE_XFER_CTL_INDEX : Fld := ⟨.pstoreXferCtl, 31, 0, .wo, 0⟩
/-- PSTORE_XFER_STATUS.RESULT -/
def F.PSTORE_XFER_STATUS_RESULT : Fld := ⟨.pstoreXferStatus, 63, 60, .ro, 0⟩
/-- PSTORE_XFER_STATUS.BUSY_ERR -/
def F.PSTORE_XFER_STATUS_BUSY_ERR : Fld := ⟨.pstoreXferStatus, 59, 59, .w1c, 0⟩
/-- PSTORE_XFER_STATUS.LENGTH -/
def F.PSTORE_XFER_STATUS_LENGTH : Fld := ⟨.pstoreXferStatus, 31, 0, .ro, 0⟩
/-- PSTORE_REC.SEQ (reset: From recovery) -/
def F.PSTORE_REC_SEQ : Fld := ⟨.pstoreRec, 63, 32, .ro, 0⟩
/-- PSTORE_REC.DEFAULTED (reset: From recovery) -/
def F.PSTORE_REC_DEFAULTED : Fld := ⟨.pstoreRec, 5, 5, .ro, 0⟩
/-- PSTORE_REC.PENDING -/
def F.PSTORE_REC_PENDING : Fld := ⟨.pstoreRec, 4, 4, .ro, 0⟩
/-- PSTORE_REC.NEWEST (reset: From recovery) -/
def F.PSTORE_REC_NEWEST : Fld := ⟨.pstoreRec, 3, 2, .ro, 0⟩
/-- PSTORE_REC.A_VALID (reset: From recovery) -/
def F.PSTORE_REC_A_VALID : Fld := ⟨.pstoreRec, 1, 1, .ro, 0⟩
/-- PSTORE_REC.B_VALID (reset: From recovery) -/
def F.PSTORE_REC_B_VALID : Fld := ⟨.pstoreRec, 0, 0, .ro, 0⟩
/-- PSTORE_BIST.ROWS_SPARED (reset: From boot) -/
def F.PSTORE_BIST_ROWS_SPARED : Fld := ⟨.pstoreBist, 63, 48, .ro, 0⟩
/-- PSTORE_BIST.COLS_SPARED (reset: From boot) -/
def F.PSTORE_BIST_COLS_SPARED : Fld := ⟨.pstoreBist, 47, 40, .ro, 0⟩
/-- PSTORE_BIST.TILES_FENCED (reset: From boot) -/
def F.PSTORE_BIST_TILES_FENCED : Fld := ⟨.pstoreBist, 39, 32, .ro, 0⟩
/-- PSTORE_BIST.FUSES_LEFT (reset: From fuses) -/
def F.PSTORE_BIST_FUSES_LEFT : Fld := ⟨.pstoreBist, 31, 23, .ro, 256⟩
/-- PSTORE_BIST.PPR_HARD (reset: From boot) -/
def F.PSTORE_BIST_PPR_HARD : Fld := ⟨.pstoreBist, 22, 8, .ro, 0⟩
/-- PSTORE_BIST.FATAL (reset: From boot) -/
def F.PSTORE_BIST_FATAL : Fld := ⟨.pstoreBist, 7, 0, .ro, 0⟩
/-- TS_CTL.LOCK -/
def F.TS_CTL_LOCK : Fld := ⟨.tsCtl, 63, 63, .w1s, 0⟩
/-- TS_CTL.RESERVE -/
def F.TS_CTL_RESERVE : Fld := ⟨.tsCtl, 11, 8, .rwl, 1⟩
/-- TS_CTL.SCRUB_EN -/
def F.TS_CTL_SCRUB_EN : Fld := ⟨.tsCtl, 0, 0, .rwl, 1⟩
/-- TS_STATUS.WIN_OPEN -/
def F.TS_STATUS_WIN_OPEN : Fld := ⟨.tsStatus, 39, 32, .ro, 0⟩
/-- TS_STATUS.WIN_REJECT -/
def F.TS_STATUS_WIN_REJECT : Fld := ⟨.tsStatus, 31, 24, .w1c, 0⟩
/-- TS_STATUS.STOP_QUEUED -/
def F.TS_STATUS_STOP_QUEUED : Fld := ⟨.tsStatus, 18, 16, .ro, 0⟩
/-- TS_STATUS.GATHER_ISSUE -/
def F.TS_STATUS_GATHER_ISSUE : Fld := ⟨.tsStatus, 15, 12, .ro, 0⟩
/-- TS_STATUS.GATHER_MOVER -/
def F.TS_STATUS_GATHER_MOVER : Fld := ⟨.tsStatus, 11, 8, .ro, 0⟩
/-- TS_STATUS.TASK -/
def F.TS_STATUS_TASK : Fld := ⟨.tsStatus, 0, 0, .ro, 0⟩
/-- TS_ECC_COUNT.UE_COUNT -/
def F.TS_ECC_COUNT_UE_COUNT : Fld := ⟨.tsEccCount, 63, 32, .rc, 0⟩
/-- TS_ECC_COUNT.CE_COUNT -/
def F.TS_ECC_COUNT_CE_COUNT : Fld := ⟨.tsEccCount, 31, 0, .rc, 0⟩
/-- TS_ECC_LAST.VALID -/
def F.TS_ECC_LAST_VALID : Fld := ⟨.tsEccLast, 63, 63, .rc, 0⟩
/-- TS_ECC_LAST.UE -/
def F.TS_ECC_LAST_UE : Fld := ⟨.tsEccLast, 62, 62, .ro, 0⟩
/-- TS_ECC_LAST.SOURCE -/
def F.TS_ECC_LAST_SOURCE : Fld := ⟨.tsEccLast, 61, 60, .ro, 0⟩
/-- TS_ECC_LAST.BIT_A -/
def F.TS_ECC_LAST_BIT_A : Fld := ⟨.tsEccLast, 47, 40, .ro, 255⟩
/-- TS_ECC_LAST.BIT_B -/
def F.TS_ECC_LAST_BIT_B : Fld := ⟨.tsEccLast, 39, 32, .ro, 255⟩
/-- TS_ECC_LAST.OFFSET -/
def F.TS_ECC_LAST_OFFSET : Fld := ⟨.tsEccLast, 20, 0, .ro, 0⟩
/-- TS_SCRUB.PASSES -/
def F.TS_SCRUB_PASSES : Fld := ⟨.tsScrub, 47, 32, .ro, 0⟩
/-- TS_SCRUB.POSITION -/
def F.TS_SCRUB_POSITION : Fld := ⟨.tsScrub, 14, 0, .ro, 0⟩
/-- TS_REFUSE.DOUT_REFUSED -/
def F.TS_REFUSE_DOUT_REFUSED : Fld := ⟨.tsRefuse, 63, 48, .rc, 0⟩
/-- TS_REFUSE.DIN_REFUSED -/
def F.TS_REFUSE_DIN_REFUSED : Fld := ⟨.tsRefuse, 47, 32, .rc, 0⟩
/-- TS_REFUSE.MMA_STALL -/
def F.TS_REFUSE_MMA_STALL : Fld := ⟨.tsRefuse, 31, 16, .rc, 0⟩
/-- TS_REFUSE.DRAIN_STALL -/
def F.TS_REFUSE_DRAIN_STALL : Fld := ⟨.tsRefuse, 15, 0, .rc, 0⟩
/-- PL_TILE_STATE.LOGICAL (reset: From mapping) -/
def F.PL_TILE_STATE_LOGICAL : Fld := ⟨.plTileState, 58, 48, .ro, 0⟩
/-- PL_TILE_STATE.PARTITION (reset: From section map) -/
def F.PL_TILE_STATE_PARTITION : Fld := ⟨.plTileState, 43, 40, .ro, 0⟩
/-- PL_TILE_STATE.FENCE -/
def F.PL_TILE_STATE_FENCE : Fld := ⟨.plTileState, 7, 7, .w1s, 0⟩
/-- PL_TILE_STATE.PASSAGE_FAIL -/
def F.PL_TILE_STATE_PASSAGE_FAIL : Fld := ⟨.plTileState, 6, 6, .ro, 0⟩
/-- PL_TILE_STATE.FENCED -/
def F.PL_TILE_STATE_FENCED : Fld := ⟨.plTileState, 5, 5, .ro, 0⟩
/-- PL_TILE_STATE.RETIRED (reset: From repair map) -/
def F.PL_TILE_STATE_RETIRED : Fld := ⟨.plTileState, 4, 4, .ro, 0⟩
/-- PL_TILE_STATE.HELD -/
def F.PL_TILE_STATE_HELD : Fld := ⟨.plTileState, 3, 3, .ro, 0⟩
/-- PL_TILE_STATE.CLAIMED -/
def F.PL_TILE_STATE_CLAIMED : Fld := ⟨.plTileState, 2, 2, .ro, 0⟩
/-- PL_TILE_STATE.BUSY -/
def F.PL_TILE_STATE_BUSY : Fld := ⟨.plTileState, 1, 1, .ro, 0⟩
/-- PL_TILE_STATE.SERVING (reset: From mapping) -/
def F.PL_TILE_STATE_SERVING : Fld := ⟨.plTileState, 0, 0, .ro, 0⟩
/-- PL_DRIFT_ERR.N_UE -/
def F.PL_DRIFT_ERR_N_UE : Fld := ⟨.plDriftErr, 63, 56, .rc, 0⟩
/-- PL_DRIFT_ERR.N_CE -/
def F.PL_DRIFT_ERR_N_CE : Fld := ⟨.plDriftErr, 55, 48, .rc, 0⟩
/-- PL_DRIFT_ERR.E_UE -/
def F.PL_DRIFT_ERR_E_UE : Fld := ⟨.plDriftErr, 47, 40, .rc, 0⟩
/-- PL_DRIFT_ERR.E_CE -/
def F.PL_DRIFT_ERR_E_CE : Fld := ⟨.plDriftErr, 39, 32, .rc, 0⟩
/-- PL_DRIFT_ERR.S_UE -/
def F.PL_DRIFT_ERR_S_UE : Fld := ⟨.plDriftErr, 31, 24, .rc, 0⟩
/-- PL_DRIFT_ERR.S_CE -/
def F.PL_DRIFT_ERR_S_CE : Fld := ⟨.plDriftErr, 23, 16, .rc, 0⟩
/-- PL_DRIFT_ERR.W_UE -/
def F.PL_DRIFT_ERR_W_UE : Fld := ⟨.plDriftErr, 15, 8, .rc, 0⟩
/-- PL_DRIFT_ERR.W_CE -/
def F.PL_DRIFT_ERR_W_CE : Fld := ⟨.plDriftErr, 7, 0, .rc, 0⟩
/-- SEC_MEAS.BYTES -/
def F.SEC_MEAS_BYTES : Fld := ⟨.secMeas, 63, 0, .ro, 0⟩

/-- The place of each family (Table 1.9 and the register tables). -/
def RegName.fam : RegName → Fam
  | .glbPart => ⟨0x0, 0x0, 1, 0x0, 1⟩
  | .glbSectionMap => ⟨0x10, 0x0, 1, 0x0, 1⟩
  | .glbSectionApply => ⟨0x18, 0x0, 1, 0x0, 1⟩
  | .glbSectionStatus => ⟨0x20, 0x0, 1, 0x0, 1⟩
  | .glbSectionActive => ⟨0x28, 0x0, 1, 0x0, 1⟩
  | .tgeTickCtl => ⟨0x100000, 0x0, 1, 0x0, 1⟩
  | .tgeTickSwitch => ⟨0x100008, 0x0, 1, 0x0, 1⟩
  | .tgeTickNow => ⟨0x100010, 0x0, 1, 0x0, 1⟩
  | .tgeAdmitCtl => ⟨0x100018, 0x0, 1, 0x0, 1⟩
  | .tgeEnergyBudget => ⟨0x100020, 0x0, 1, 0x0, 1⟩
  | .tgeEnergyStatus => ⟨0x100028, 0x0, 1, 0x0, 1⟩
  | .tgeGraphCancel => ⟨0x100030, 0x0, 1, 0x0, 1⟩
  | .tgeGateAdd => ⟨0x100038, 0x0, 1, 0x0, 1⟩
  | .tgeNodeStatus => ⟨0x100040, 0x0, 1, 0x0, 1⟩
  | .tgePartEnergyCap => ⟨0x100100, 0x8, 8, 0x0, 1⟩
  | .tgeSqBase => ⟨0x110000, 0x40, 128, 0x0, 1⟩
  | .tgeSqCtl => ⟨0x110008, 0x40, 128, 0x0, 1⟩
  | .tgeSqHead => ⟨0x110010, 0x40, 128, 0x0, 1⟩
  | .tgeCqBase => ⟨0x110018, 0x40, 128, 0x0, 1⟩
  | .tgeCqCtl => ⟨0x110020, 0x40, 128, 0x0, 1⟩
  | .tgeCqTail => ⟨0x110028, 0x40, 128, 0x0, 1⟩
  | .tgeQStatus => ⟨0x110030, 0x40, 128, 0x0, 1⟩
  | .tgePlaceCtl => ⟨0x120000, 0x0, 1, 0x0, 1⟩
  | .tgePlaceStatus => ⟨0x120008, 0x0, 1, 0x0, 1⟩
  | .tgePlaceDie => ⟨0x120100, 0x10, 4, 0x0, 1⟩
  | .tgePlaceFence => ⟨0x120108, 0x10, 4, 0x0, 1⟩
  | .tgeGate => ⟨0x180000, 0x2000, 8, 0x8, 1024⟩
  | .seamDomain => ⟨0x200000, 0x0, 1, 0x0, 1⟩
  | .seamLock => ⟨0x200008, 0x0, 1, 0x0, 1⟩
  | .seamCtl => ⟨0x201000, 0x200, 8, 0x0, 1⟩
  | .seamPoolT1 => ⟨0x201008, 0x200, 8, 0x0, 1⟩
  | .seamPoolT2 => ⟨0x201010, 0x200, 8, 0x0, 1⟩
  | .seamPoolMap => ⟨0x201018, 0x200, 8, 0x0, 1⟩
  | .seamPoolSketch => ⟨0x201020, 0x200, 8, 0x0, 1⟩
  | .seamHostBase => ⟨0x201028, 0x200, 8, 0x0, 1⟩
  | .seamHostFrames => ⟨0x201030, 0x200, 8, 0x0, 1⟩
  | .seamLedger => ⟨0x201038, 0x200, 8, 0x0, 1⟩
  | .seamRemoteBase => ⟨0x201040, 0x200, 8, 0x10, 4⟩
  | .seamRemoteCfg => ⟨0x201048, 0x200, 8, 0x10, 4⟩
  | .seamLeaseBase => ⟨0x201080, 0x200, 8, 0x10, 4⟩
  | .seamLeaseCfg => ⟨0x201088, 0x200, 8, 0x10, 4⟩
  | .seamTierCtl => ⟨0x2010C0, 0x200, 8, 0x0, 1⟩
  | .seamTierCtl2 => ⟨0x2010C8, 0x200, 8, 0x0, 1⟩
  | .seamContrailCtl => ⟨0x2010D0, 0x200, 8, 0x0, 1⟩
  | .seamContrailStatus => ⟨0x2010D8, 0x200, 8, 0x0, 1⟩
  | .seamHqBase => ⟨0x2010E0, 0x200, 8, 0x0, 1⟩
  | .seamHqCtl => ⟨0x2010E8, 0x200, 8, 0x0, 1⟩
  | .seamHqTail => ⟨0x2010F0, 0x200, 8, 0x0, 1⟩
  | .seamHqHead => ⟨0x2010F8, 0x200, 8, 0x0, 1⟩
  | .seamFree => ⟨0x201100, 0x200, 8, 0x0, 1⟩
  | .seamStreams => ⟨0x201108, 0x200, 8, 0x0, 1⟩
  | .seamPackStats => ⟨0x201110, 0x200, 8, 0x0, 1⟩
  | .assayDieStatus => ⟨0x300000, 0x8, 4, 0x0, 1⟩
  | .assayCtl => ⟨0x301000, 0x100, 8, 0x0, 1⟩
  | .assayQueries => ⟨0x301008, 0x100, 8, 0x0, 1⟩
  | .assayScored => ⟨0x301010, 0x100, 8, 0x0, 1⟩
  | .assayListed => ⟨0x301018, 0x100, 8, 0x0, 1⟩
  | .assayExcluded => ⟨0x301020, 0x100, 8, 0x0, 1⟩
  | .assayEvents => ⟨0x301028, 0x100, 8, 0x0, 1⟩
  | .assayHist => ⟨0x301040, 0x100, 8, 0x8, 8⟩
  | .memCtl => ⟨0x400000, 0x0, 1, 0x0, 1⟩
  | .memDevStatus => ⟨0x410000, 0x10000, 2, 0x100, 16⟩
  | .memDevEccCount => ⟨0x410008, 0x10000, 2, 0x100, 16⟩
  | .memDevEccLast => ⟨0x410010, 0x10000, 2, 0x100, 16⟩
  | .memDevEccAddr => ⟨0x410018, 0x10000, 2, 0x100, 16⟩
  | .memDevScrub => ⟨0x410020, 0x10000, 2, 0x100, 16⟩
  | .memDevRepair => ⟨0x410028, 0x10000, 2, 0x100, 16⟩
  | .memDevLink => ⟨0x410030, 0x10000, 2, 0x100, 16⟩
  | .memDevCrypt => ⟨0x410038, 0x10000, 2, 0x100, 16⟩
  | .portLinkGlb => ⟨0x500000, 0x0, 1, 0x0, 1⟩
  | .portXportCtl => ⟨0x500100, 0x0, 1, 0x0, 1⟩
  | .portXportStatus => ⟨0x500108, 0x0, 1, 0x0, 1⟩
  | .portXportErr => ⟨0x500110, 0x0, 1, 0x0, 1⟩
  | .portTimeCtl => ⟨0x500118, 0x0, 1, 0x0, 1⟩
  | .portTimeStatus => ⟨0x500120, 0x0, 1, 0x0, 1⟩
  | .portTelemBase => ⟨0x500128, 0x0, 1, 0x0, 1⟩
  | .portTelemCtl => ⟨0x500130, 0x0, 1, 0x0, 1⟩
  | .portSampleBase => ⟨0x500138, 0x0, 1, 0x0, 1⟩
  | .portSampleCtl => ⟨0x500140, 0x0, 1, 0x0, 1⟩
  | .portSampleHead => ⟨0x500148, 0x0, 1, 0x0, 1⟩
  | .portLinkCtl => ⟨0x510000, 0x100, 32, 0x0, 1⟩
  | .portLinkStatus => ⟨0x510008, 0x100, 32, 0x0, 1⟩
  | .portFecCount => ⟨0x510010, 0x100, 32, 0x0, 1⟩
  | .portLaneSym0 => ⟨0x510018, 0x100, 32, 0x0, 1⟩
  | .portLaneSym1 => ⟨0x510020, 0x100, 32, 0x0, 1⟩
  | .portReplay => ⟨0x510028, 0x100, 32, 0x0, 1⟩
  | .portEvents => ⟨0x510030, 0x100, 32, 0x0, 1⟩
  | .portLaneTest => ⟨0x510038, 0x100, 32, 0x0, 1⟩
  | .portLaneTime => ⟨0x510040, 0x100, 32, 0x0, 1⟩
  | .portRtt => ⟨0x510048, 0x100, 32, 0x0, 1⟩
  | .portDevid => ⟨0x520000, 0x100, 8, 0x0, 1⟩
  | .portHeraldList => ⟨0x520008, 0x100, 8, 0x0, 1⟩
  | .portCollTable => ⟨0x520010, 0x100, 8, 0x0, 1⟩
  | .portCollStatus => ⟨0x520018, 0x100, 8, 0x0, 1⟩
  | .portPartHerald => ⟨0x520020, 0x100, 8, 0x0, 1⟩
  | .hostLinkStatus => ⟨0x600000, 0x0, 1, 0x0, 1⟩
  | .hostLinkErr => ⟨0x600008, 0x0, 1, 0x0, 1⟩
  | .hostPfCtl => ⟨0x600010, 0x0, 1, 0x0, 1⟩
  | .hostEventVec => ⟨0x600018, 0x0, 1, 0x0, 1⟩
  | .hostBar2Status => ⟨0x600020, 0x0, 1, 0x0, 1⟩
  | .hostIrqStatus => ⟨0x600028, 0x0, 1, 0x0, 1⟩
  | .hostDmaBase => ⟨0x610000, 0x40, 72, 0x0, 1⟩
  | .hostDmaCtl => ⟨0x610008, 0x40, 72, 0x0, 1⟩
  | .hostDmaHead => ⟨0x610010, 0x40, 72, 0x0, 1⟩
  | .hostDmaStatus => ⟨0x610018, 0x40, 72, 0x0, 1⟩
  | .hostMsixAddr => ⟨0x680000, 0x10, 2048, 0x0, 1⟩
  | .hostMsixData => ⟨0x680008, 0x10, 2048, 0x0, 1⟩
  | .hostMsixMod => ⟨0x6A0000, 0x8, 2048, 0x0, 1⟩
  | .hostMsixPba => ⟨0x6C0000, 0x8, 32, 0x0, 1⟩
  | .guardLogBase => ⟨0x700000, 0x1000, 2, 0x40, 8⟩
  | .guardLogCtl => ⟨0x700008, 0x1000, 2, 0x40, 8⟩
  | .guardLogHead => ⟨0x700010, 0x1000, 2, 0x40, 8⟩
  | .guardLogStatus => ⟨0x700018, 0x1000, 2, 0x40, 8⟩
  | .guardResetReq => ⟨0x700100, 0x0, 1, 0x0, 1⟩
  | .guardResetStatus => ⟨0x700108, 0x0, 1, 0x0, 1⟩
  | .guardResetRelease => ⟨0x700110, 0x0, 1, 0x0, 1⟩
  | .guardCtl => ⟨0x700118, 0x0, 1, 0x0, 1⟩
  | .guardOverman => ⟨0x700120, 0x0, 1, 0x0, 1⟩
  | .guardRejoinCtl => ⟨0x702000, 0x40, 8, 0x0, 1⟩
  | .guardRejoinPlan => ⟨0x702008, 0x40, 8, 0x0, 1⟩
  | .guardRejoinAdmit => ⟨0x702010, 0x40, 8, 0x0, 1⟩
  | .guardRejoinStatus => ⟨0x702018, 0x40, 8, 0x0, 1⟩
  | .guardRejoinCount => ⟨0x702020, 0x40, 8, 0x0, 1⟩
  | .guardProspectCtl => ⟨0x740000, 0x0, 1, 0x0, 1⟩
  | .guardProspectNominate => ⟨0x740008, 0x0, 1, 0x0, 1⟩
  | .guardProspectDie => ⟨0x740100, 0x10, 4, 0x0, 1⟩
  | .guardProspectForce => ⟨0x740108, 0x10, 4, 0x0, 1⟩
  | .guardShadowAddr => ⟨0x750000, 0x40, 8, 0x0, 1⟩
  | .guardShadowCtl => ⟨0x750008, 0x40, 8, 0x0, 1⟩
  | .guardShadowStatus => ⟨0x750010, 0x40, 8, 0x0, 1⟩
  | .guardIntegrityCount => ⟨0x750018, 0x40, 8, 0x0, 1⟩
  | .secDikPub => ⟨0x800000, 0x8, 4, 0x0, 1⟩
  | .secFwStatus => ⟨0x800020, 0x0, 1, 0x0, 1⟩
  | .secFwFloor => ⟨0x800028, 0x0, 1, 0x0, 1⟩
  | .secFwCtl => ⟨0x800030, 0x0, 1, 0x0, 1⟩
  | .secStageAddr => ⟨0x800200, 0x0, 1, 0x0, 1⟩
  | .secStageCtl => ⟨0x800208, 0x0, 1, 0x0, 1⟩
  | .secStageStatus => ⟨0x800210, 0x0, 1, 0x0, 1⟩
  | .secAttestAddr => ⟨0x800218, 0x0, 1, 0x0, 1⟩
  | .secAttestCtl => ⟨0x800220, 0x0, 1, 0x0, 1⟩
  | .secAttestStatus => ⟨0x800228, 0x0, 1, 0x0, 1⟩
  | .secPartCtl => ⟨0x810000, 0x400, 8, 0x0, 1⟩
  | .secTenantKey => ⟨0x810008, 0x400, 8, 0x8, 4⟩
  | .secSessAddr => ⟨0x810028, 0x400, 8, 0x0, 1⟩
  | .secSessCtl => ⟨0x810030, 0x400, 8, 0x0, 1⟩
  | .secSessStatus => ⟨0x810038, 0x400, 8, 0x0, 1⟩
  | .secSessErr => ⟨0x810040, 0x400, 8, 0x0, 1⟩
  | .secSealHost => ⟨0x810048, 0x400, 8, 0x0, 1⟩
  | .secSealLocal => ⟨0x810050, 0x400, 8, 0x0, 1⟩
  | .secSealCtl => ⟨0x810058, 0x400, 8, 0x0, 1⟩
  | .secSealStatus => ⟨0x810060, 0x400, 8, 0x0, 1⟩
  | .secSlot => ⟨0x810200, 0x400, 8, 0x8, 64⟩
  | .clkRefStatus => ⟨0x900000, 0x0, 1, 0x0, 1⟩
  | .clkGateCtl => ⟨0x900008, 0x0, 1, 0x0, 1⟩
  | .clkMeridian => ⟨0x900010, 0x0, 1, 0x0, 1⟩
  | .clkTimeSet => ⟨0x900018, 0x0, 1, 0x0, 1⟩
  | .clkTimeStatus => ⟨0x900020, 0x0, 1, 0x0, 1⟩
  | .clkPwrCtl => ⟨0x900040, 0x0, 1, 0x0, 1⟩
  | .clkPwrCap => ⟨0x900048, 0x0, 1, 0x0, 1⟩
  | .clkPwrStatus => ⟨0x900050, 0x0, 1, 0x0, 1⟩
  | .clkPwrMeas => ⟨0x900058, 0x0, 1, 0x0, 1⟩
  | .clkThermCtl => ⟨0x900060, 0x0, 1, 0x0, 1⟩
  | .clkThermStatus => ⟨0x900068, 0x0, 1, 0x0, 1⟩
  | .clkRailStatus => ⟨0x900070, 0x0, 1, 0x0, 1⟩
  | .clkDormantCtl => ⟨0x900080, 0x0, 1, 0x0, 1⟩
  | .clkDormantStatus => ⟨0x900088, 0x0, 1, 0x0, 1⟩
  | .haulCtl => ⟨0xA00000, 0x0, 1, 0x0, 1⟩
  | .haulTimeout => ⟨0xA00008, 0x0, 1, 0x0, 1⟩
  | .haulStatus => ⟨0xA00010, 0x0, 1, 0x0, 1⟩
  | .haulRingEntered => ⟨0xA10000, 0x20, 272, 0x0, 1⟩
  | .haulRingLaps => ⟨0xA10008, 0x20, 272, 0x0, 1⟩
  | .haulRingErr => ⟨0xA10010, 0x20, 272, 0x0, 1⟩
  | .haulChQ => ⟨0xA40000, 0x100, 1152, 0x8, 16⟩
  | .haulChSend => ⟨0xA40080, 0x100, 1152, 0x8, 2⟩
  | .haulChDepth0 => ⟨0xA40090, 0x100, 1152, 0x0, 1⟩
  | .haulChDepth1 => ⟨0xA40098, 0x100, 1152, 0x0, 1⟩
  | .haulChGen => ⟨0xA400A0, 0x100, 1152, 0x0, 1⟩
  | .pstoreBoot => ⟨0xB00000, 0x0, 1, 0x0, 1⟩
  | .pstoreFlash => ⟨0xB00008, 0x0, 1, 0x0, 1⟩
  | .pstoreXferAddr => ⟨0xB00010, 0x0, 1, 0x0, 1⟩
  | .pstoreXferCtl => ⟨0xB00018, 0x0, 1, 0x0, 1⟩
  | .pstoreXferStatus => ⟨0xB00020, 0x0, 1, 0x0, 1⟩
  | .pstoreRec => ⟨0xB00108, 0x8, 8, 0x0, 1⟩
  | .pstoreBist => ⟨0xB00200, 0x8, 4, 0x0, 1⟩
  | .tsCtl => ⟨0x1000000, 0x4000, 1152, 0x0, 1⟩
  | .tsStatus => ⟨0x1000008, 0x4000, 1152, 0x0, 1⟩
  | .tsEccCount => ⟨0x1000010, 0x4000, 1152, 0x0, 1⟩
  | .tsEccLast => ⟨0x1000018, 0x4000, 1152, 0x0, 1⟩
  | .tsScrub => ⟨0x1000020, 0x4000, 1152, 0x0, 1⟩
  | .tsRefuse => ⟨0x1000028, 0x4000, 1152, 0x0, 1⟩
  | .plTileState => ⟨0x1001000, 0x4000, 1152, 0x0, 1⟩
  | .plDriftErr => ⟨0x1001008, 0x4000, 1152, 0x0, 1⟩
  | .secMeas => ⟨0x800100, 0x40, 5, 0x8, 8⟩

/-- The fields of each family, highest bits first. -/
def RegName.fields : RegName → List Fld
  | .glbPart => [F.GLB_PART_STEPPING, F.GLB_PART_PORTS, F.GLB_PART_T2_DEVICES, F.GLB_PART_T1_STACK_GIB, F.GLB_PART_TILES, F.GLB_PART_GRADE]
  | .glbSectionMap => [F.GLB_SECTION_MAP_SEC7, F.GLB_SECTION_MAP_SEC6, F.GLB_SECTION_MAP_SEC5, F.GLB_SECTION_MAP_SEC4, F.GLB_SECTION_MAP_SEC3, F.GLB_SECTION_MAP_SEC2, F.GLB_SECTION_MAP_SEC1, F.GLB_SECTION_MAP_SEC0]
  | .glbSectionApply => [F.GLB_SECTION_APPLY_GO]
  | .glbSectionStatus => [F.GLB_SECTION_STATUS_RESULT]
  | .glbSectionActive => [F.GLB_SECTION_ACTIVE_SEC7, F.GLB_SECTION_ACTIVE_SEC6, F.GLB_SECTION_ACTIVE_SEC5, F.GLB_SECTION_ACTIVE_SEC4, F.GLB_SECTION_ACTIVE_SEC3, F.GLB_SECTION_ACTIVE_SEC2, F.GLB_SECTION_ACTIVE_SEC1, F.GLB_SECTION_ACTIVE_SEC0]
  | .tgeTickCtl => [F.TGE_TICK_CTL_PENDING, F.TGE_TICK_CTL_SWITCH_ERR, F.TGE_TICK_CTL_PERIOD_NEXT, F.TGE_TICK_CTL_PERIOD]
  | .tgeTickSwitch => [F.TGE_TICK_SWITCH_TIME]
  | .tgeTickNow => [F.TGE_TICK_NOW_COUNT]
  | .tgeAdmitCtl => [F.TGE_ADMIT_CTL_EN, F.TGE_ADMIT_CTL_STARVE_TICKS]
  | .tgeEnergyBudget => [F.TGE_ENERGY_BUDGET_BUDGET_MW]
  | .tgeEnergyStatus => [F.TGE_ENERGY_STATUS_DEBT_UJ, F.TGE_ENERGY_STATUS_ADMITTED_UJ]
  | .tgeGraphCancel => [F.TGE_GRAPH_CANCEL_TAG]
  | .tgeGateAdd => [F.TGE_GATE_ADD_PART, F.TGE_GATE_ADD_GATE, F.TGE_GATE_ADD_ADD]
  | .tgeNodeStatus => [F.TGE_NODE_STATUS_GRAPHS, F.TGE_NODE_STATUS_NODES]
  | .tgePartEnergyCap => [F.TGE_PART_ENERGY_CAP_CAP_MW]
  | .tgeSqBase => [F.TGE_SQ_BASE_BASE]
  | .tgeSqCtl => [F.TGE_SQ_CTL_EN, F.TGE_SQ_CTL_SIZE_LOG2]
  | .tgeSqHead => [F.TGE_SQ_HEAD_DOORBELL, F.TGE_SQ_HEAD_INDEX]
  | .tgeCqBase => [F.TGE_CQ_BASE_BASE]
  | .tgeCqCtl => [F.TGE_CQ_CTL_EN, F.TGE_CQ_CTL_IRQ_EN, F.TGE_CQ_CTL_VECTOR, F.TGE_CQ_CTL_SIZE_LOG2]
  | .tgeCqTail => [F.TGE_CQ_TAIL_PHASE, F.TGE_CQ_TAIL_DOORBELL, F.TGE_CQ_TAIL_INDEX]
  | .tgeQStatus => [F.TGE_Q_STATUS_CFG_ERR, F.TGE_Q_STATUS_CQ_WAIT, F.TGE_Q_STATUS_DOORBELL_RANGE, F.TGE_Q_STATUS_CQ_ADDR_FAULT, F.TGE_Q_STATUS_SQ_ADDR_FAULT]
  | .tgePlaceCtl => [F.TGE_PLACE_CTL_LOCK, F.TGE_PLACE_CTL_RETIRE_EN]
  | .tgePlaceStatus => [F.TGE_PLACE_STATUS_CHANGES, F.TGE_PLACE_STATUS_REPLACING, F.TGE_PLACE_STATUS_CAP_CHANGE]
  | .tgePlaceDie => [F.TGE_PLACE_DIE_LOST, F.TGE_PLACE_DIE_SERVING, F.TGE_PLACE_DIE_BREAKS, F.TGE_PLACE_DIE_RETIRED]
  | .tgePlaceFence => [F.TGE_PLACE_FENCE_FENCED_TILES, F.TGE_PLACE_FENCE_FENCED_COLS]
  | .tgeGate => [F.TGE_GATE_VALUE]
  | .seamDomain => [F.SEAM_DOMAIN_TRAY, F.SEAM_DOMAIN_POWER, F.SEAM_DOMAIN_COOLING, F.SEAM_DOMAIN_SWITCH]
  | .seamLock => [F.SEAM_LOCK_LOCK]
  | .seamCtl => [F.SEAM_CTL_EN, F.SEAM_CTL_CFG_ERR, F.SEAM_CTL_HQ_FETCH_ERR]
  | .seamPoolT1 => [F.SEAM_POOL_T1_FRAMES, F.SEAM_POOL_T1_BASE]
  | .seamPoolT2 => [F.SEAM_POOL_T2_FRAMES, F.SEAM_POOL_T2_BASE]
  | .seamPoolMap => [F.SEAM_POOL_MAP_BLOCKS, F.SEAM_POOL_MAP_BASE]
  | .seamPoolSketch => [F.SEAM_POOL_SKETCH_SLOTS, F.SEAM_POOL_SKETCH_SLOT, F.SEAM_POOL_SKETCH_BASE]
  | .seamHostBase => [F.SEAM_HOST_BASE_BASE]
  | .seamHostFrames => [F.SEAM_HOST_FRAMES_FRAMES]
  | .seamLedger => [F.SEAM_LEDGER_SECTIONS, F.SEAM_LEDGER_BASE]
  | .seamRemoteBase => [F.SEAM_REMOTE_BASE_BASE]
  | .seamRemoteCfg => [F.SEAM_REMOTE_CFG_EN, F.SEAM_REMOTE_CFG_KIND, F.SEAM_REMOTE_CFG_FRAMES]
  | .seamLeaseBase => [F.SEAM_LEASE_BASE_BASE]
  | .seamLeaseCfg => [F.SEAM_LEASE_CFG_EN, F.SEAM_LEASE_CFG_KIND, F.SEAM_LEASE_CFG_HOLDER, F.SEAM_LEASE_CFG_FRAMES]
  | .seamTierCtl => [F.SEAM_TIER_CTL_HALF_LIFE, F.SEAM_TIER_CTL_HEAT_ADD, F.SEAM_TIER_CTL_DEMOTE_T1, F.SEAM_TIER_CTL_PROMOTE, F.SEAM_TIER_CTL_DEMOTE_T2, F.SEAM_TIER_CTL_T1_LOW, F.SEAM_TIER_CTL_T2_LOW]
  | .seamTierCtl2 => [F.SEAM_TIER_CTL2_EN, F.SEAM_TIER_CTL2_OVERFLOW, F.SEAM_TIER_CTL2_MOVE_MB_S]
  | .seamContrailCtl => [F.SEAM_CONTRAIL_CTL_OVERRIDE, F.SEAM_CONTRAIL_CTL_MODE, F.SEAM_CONTRAIL_CTL_POOL, F.SEAM_CONTRAIL_CTL_RESULT, F.SEAM_CONTRAIL_CTL_TIMEOUT_US]
  | .seamContrailStatus => [F.SEAM_CONTRAIL_STATUS_LAPSED, F.SEAM_CONTRAIL_STATUS_ABANDONED]
  | .seamHqBase => [F.SEAM_HQ_BASE_BASE]
  | .seamHqCtl => [F.SEAM_HQ_CTL_EN, F.SEAM_HQ_CTL_IRQ_EN, F.SEAM_HQ_CTL_VECTOR, F.SEAM_HQ_CTL_SIZE_LOG2]
  | .seamHqTail => [F.SEAM_HQ_TAIL_TAIL]
  | .seamHqHead => [F.SEAM_HQ_HEAD_HEAD]
  | .seamFree => [F.SEAM_FREE_T2_FREE, F.SEAM_FREE_T1_FREE]
  | .seamStreams => [F.SEAM_STREAMS_OPEN, F.SEAM_STREAMS_PARKED]
  | .seamPackStats => [F.SEAM_PACK_STATS_SAT, F.SEAM_PACK_STATS_NAN]
  | .assayDieStatus => [F.ASSAY_DIE_STATUS_QUEUED]
  | .assayCtl => [F.ASSAY_CTL_AUDIT_EVERY, F.ASSAY_CTL_FORCE_EXACT]
  | .assayQueries => [F.ASSAY_QUERIES_COUNT]
  | .assayScored => [F.ASSAY_SCORED_COUNT]
  | .assayListed => [F.ASSAY_LISTED_COUNT]
  | .assayExcluded => [F.ASSAY_EXCLUDED_COUNT]
  | .assayEvents => [F.ASSAY_EVENTS_TRUNC, F.ASSAY_EVENTS_NONFINITE, F.ASSAY_EVENTS_UNBOUNDED, F.ASSAY_EVENTS_LOST]
  | .assayHist => [F.ASSAY_HIST_COUNT]
  | .memCtl => [F.MEM_CTL_LOCK, F.MEM_CTL_REORDER_NS, F.MEM_CTL_ROW_CE_LIMIT, F.MEM_CTL_T2_SCRUB_H, F.MEM_CTL_T1_SCRUB_H]
  | .memDevStatus => [F.MEM_DEV_STATUS_TEMP, F.MEM_DEV_STATUS_REF_RATE, F.MEM_DEV_STATUS_READY]
  | .memDevEccCount => [F.MEM_DEV_ECC_COUNT_UE_COUNT, F.MEM_DEV_ECC_COUNT_CE_COUNT]
  | .memDevEccLast => [F.MEM_DEV_ECC_LAST_VALID, F.MEM_DEV_ECC_LAST_UE, F.MEM_DEV_ECC_LAST_SOURCE, F.MEM_DEV_ECC_LAST_KIND, F.MEM_DEV_ECC_LAST_PARTITION, F.MEM_DEV_ECC_LAST_BIT_A, F.MEM_DEV_ECC_LAST_BIT_B]
  | .memDevEccAddr => [F.MEM_DEV_ECC_ADDR_OFFSET]
  | .memDevScrub => [F.MEM_DEV_SCRUB_PASSES, F.MEM_DEV_SCRUB_LINE]
  | .memDevRepair => [F.MEM_DEV_REPAIR_SPPR_DONE, F.MEM_DEV_REPAIR_HPPR_PENDING, F.MEM_DEV_REPAIR_SPARES_LEFT, F.MEM_DEV_REPAIR_EXHAUSTED]
  | .memDevLink => [F.MEM_DEV_LINK_LINK_CE, F.MEM_DEV_LINK_CMD_RETRY]
  | .memDevCrypt => [F.MEM_DEV_CRYPT_EN, F.MEM_DEV_CRYPT_PARTITION]
  | .portLinkGlb => [F.PORT_LINK_GLB_LOCK, F.PORT_LINK_GLB_LANE_RETRY_S, F.PORT_LINK_GLB_REPLAY_TIMEOUT_NS]
  | .portXportCtl => [F.PORT_XPORT_CTL_LOCK, F.PORT_XPORT_CTL_RETRIES, F.PORT_XPORT_CTL_EXCLUDE_MS, F.PORT_XPORT_CTL_LIFETIME_US, F.PORT_XPORT_CTL_RETRY_US]
  | .portXportStatus => [F.PORT_XPORT_STATUS_STALE, F.PORT_XPORT_STATUS_MISROUTED, F.PORT_XPORT_STATUS_MALFORMED, F.PORT_XPORT_STATUS_DUPLICATES]
  | .portXportErr => [F.PORT_XPORT_ERR_TIMEOUTS, F.PORT_XPORT_ERR_RESENDS, F.PORT_XPORT_ERR_EXCLUSIONS]
  | .portTimeCtl => [F.PORT_TIME_CTL_DELAY_MAX_NS, F.PORT_TIME_CTL_BEACON_US]
  | .portTimeStatus => [F.PORT_TIME_STATUS_OFFSET_NS, F.PORT_TIME_STATUS_HOLDOVER, F.PORT_TIME_STATUS_PORTS_USED]
  | .portTelemBase => [F.PORT_TELEM_BASE_BASE]
  | .portTelemCtl => [F.PORT_TELEM_CTL_EN, F.PORT_TELEM_CTL_SEQ, F.PORT_TELEM_CTL_SIZE_LOG2]
  | .portSampleBase => [F.PORT_SAMPLE_BASE_BASE]
  | .portSampleCtl => [F.PORT_SAMPLE_CTL_EN, F.PORT_SAMPLE_CTL_SAMPLE_LOG2, F.PORT_SAMPLE_CTL_SIZE_LOG2]
  | .portSampleHead => [F.PORT_SAMPLE_HEAD_DROPPED, F.PORT_SAMPLE_HEAD_INDEX]
  | .portLinkCtl => [F.PORT_LINK_CTL_RETRAIN, F.PORT_LINK_CTL_LANE_DISABLE, F.PORT_LINK_CTL_EN]
  | .portLinkStatus => [F.PORT_LINK_STATUS_GOOD, F.PORT_LINK_STATUS_LANE_MAP, F.PORT_LINK_STATUS_HELD_REASON, F.PORT_LINK_STATUS_WIDTH, F.PORT_LINK_STATUS_STATE]
  | .portFecCount => [F.PORT_FEC_COUNT_CW_CORRECTED, F.PORT_FEC_COUNT_CW_UNCORR]
  | .portLaneSym0 => [F.PORT_LANE_SYM0_SYM3, F.PORT_LANE_SYM0_SYM2, F.PORT_LANE_SYM0_SYM1, F.PORT_LANE_SYM0_SYM0]
  | .portLaneSym1 => [F.PORT_LANE_SYM1_SYM7, F.PORT_LANE_SYM1_SYM6, F.PORT_LANE_SYM1_SYM5, F.PORT_LANE_SYM1_SYM4]
  | .portReplay => [F.PORT_REPLAY_REPLAYS, F.PORT_REPLAY_CRC_FAIL, F.PORT_REPLAY_TIMEOUTS, F.PORT_REPLAY_RUN]
  | .portEvents => [F.PORT_EVENTS_RETRAINS, F.PORT_EVENTS_WIDTH_DOWN, F.PORT_EVENTS_WIDTH_UP, F.PORT_EVENTS_HELD]
  | .portLaneTest => [F.PORT_LANE_TEST_PASSED, F.PORT_LANE_TEST_TESTED]
  | .portLaneTime => [F.PORT_LANE_TIME_TIME]
  | .portRtt => [F.PORT_RTT_RTT_NS]
  | .portDevid => [F.PORT_DEVID_VALID, F.PORT_DEVID_CFG_ERR, F.PORT_DEVID_EPOCH, F.PORT_DEVID_ID]
  | .portHeraldList => [F.PORT_HERALD_LIST_COUNT, F.PORT_HERALD_LIST_BASE]
  | .portCollTable => [F.PORT_COLL_TABLE_EN, F.PORT_COLL_TABLE_ENTRIES, F.PORT_COLL_TABLE_BASE]
  | .portCollStatus => [F.PORT_COLL_STATUS_DONE, F.PORT_COLL_STATUS_FAILED, F.PORT_COLL_STATUS_ACTIVE]
  | .portPartHerald => [F.PORT_PART_HERALD_RESETS_RX, F.PORT_PART_HERALD_RETURNS_RX]
  | .hostLinkStatus => [F.HOST_LINK_STATUS_FLIT, F.HOST_LINK_STATUS_GEN, F.HOST_LINK_STATUS_WIDTH, F.HOST_LINK_STATUS_DL_UP]
  | .hostLinkErr => [F.HOST_LINK_ERR_RETRAINS, F.HOST_LINK_ERR_DOWN, F.HOST_LINK_ERR_CPL_TIMEOUT]
  | .hostPfCtl => [F.HOST_PF_CTL_BAR2_PART]
  | .hostEventVec => [F.HOST_EVENT_VEC_LINK_EN, F.HOST_EVENT_VEC_LINK_VEC, F.HOST_EVENT_VEC_CAP_EN, F.HOST_EVENT_VEC_CAP_VEC, F.HOST_EVENT_VEC_RESET_EN, F.HOST_EVENT_VEC_RESET_VEC, F.HOST_EVENT_VEC_ERR_EN, F.HOST_EVENT_VEC_ERR_VEC]
  | .hostBar2Status => [F.HOST_BAR2_STATUS_REFUSED_RD, F.HOST_BAR2_STATUS_REFUSED_WR]
  | .hostIrqStatus => [F.HOST_IRQ_STATUS_BAD_VECTOR, F.HOST_IRQ_STATUS_SENT]
  | .hostDmaBase => [F.HOST_DMA_BASE_BASE]
  | .hostDmaCtl => [F.HOST_DMA_CTL_EN, F.HOST_DMA_CTL_IRQ_EN, F.HOST_DMA_CTL_PART, F.HOST_DMA_CTL_VECTOR, F.HOST_DMA_CTL_SIZE_LOG2]
  | .hostDmaHead => [F.HOST_DMA_HEAD_TAIL, F.HOST_DMA_HEAD_HEAD]
  | .hostDmaStatus => [F.HOST_DMA_STATUS_DONE_COUNT, F.HOST_DMA_STATUS_FAIL_INDEX, F.HOST_DMA_STATUS_DOORBELL_RANGE, F.HOST_DMA_STATUS_ERR, F.HOST_DMA_STATUS_BUSY]
  | .hostMsixAddr => [F.HOST_MSIX_ADDR_ADDR]
  | .hostMsixData => [F.HOST_MSIX_DATA_MASK, F.HOST_MSIX_DATA_DATA]
  | .hostMsixMod => [F.HOST_MSIX_MOD_COUNT, F.HOST_MSIX_MOD_TIME_US]
  | .hostMsixPba => [F.HOST_MSIX_PBA_PENDING]
  | .guardLogBase => [F.GUARD_LOG_BASE_BASE]
  | .guardLogCtl => [F.GUARD_LOG_CTL_EN, F.GUARD_LOG_CTL_SIZE_LOG2]
  | .guardLogHead => [F.GUARD_LOG_HEAD_HEAD]
  | .guardLogStatus => [F.GUARD_LOG_STATUS_OVERFLOW, F.GUARD_LOG_STATUS_WAITING, F.GUARD_LOG_STATUS_LOST, F.GUARD_LOG_STATUS_DROPPED, F.GUARD_LOG_STATUS_INDEX]
  | .guardResetReq => [F.GUARD_RESET_REQ_LEVEL, F.GUARD_RESET_REQ_UNIT_KIND, F.GUARD_RESET_REQ_UNIT_INDEX, F.GUARD_RESET_REQ_HOLD, F.GUARD_RESET_REQ_PARTITION]
  | .guardResetStatus => [F.GUARD_RESET_STATUS_BUSY, F.GUARD_RESET_STATUS_LEVEL, F.GUARD_RESET_STATUS_REFUSED, F.GUARD_RESET_STATUS_RESETTING, F.GUARD_RESET_STATUS_HELD]
  | .guardResetRelease => [F.GUARD_RESET_RELEASE_PARTS]
  | .guardCtl => [F.GUARD_CTL_LOCK, F.GUARD_CTL_TILE_UE_LIMIT, F.GUARD_CTL_DRAIN_MS, F.GUARD_CTL_AUTO_PC]
  | .guardOverman => [F.GUARD_OVERMAN_ACTIVE_DIE2, F.GUARD_OVERMAN_STANDBY, F.GUARD_OVERMAN_SWITCH, F.GUARD_OVERMAN_FAILOVERS]
  | .guardRejoinCtl => [F.GUARD_REJOIN_CTL_MODE, F.GUARD_REJOIN_CTL_GO, F.GUARD_REJOIN_CTL_ABORT, F.GUARD_REJOIN_CTL_REFUSED]
  | .guardRejoinPlan => [F.GUARD_REJOIN_PLAN_ADDR]
  | .guardRejoinAdmit => [F.GUARD_REJOIN_ADMIT_TIME]
  | .guardRejoinStatus => [F.GUARD_REJOIN_STATUS_STAGE, F.GUARD_REJOIN_STATUS_RESULT, F.GUARD_REJOIN_STATUS_HELD, F.GUARD_REJOIN_STATUS_DONE]
  | .guardRejoinCount => [F.GUARD_REJOIN_COUNT_RESTORED, F.GUARD_REJOIN_COUNT_FAILED]
  | .guardProspectCtl => [F.GUARD_PROSPECT_CTL_LOCK, F.GUARD_PROSPECT_CTL_EN, F.GUARD_PROSPECT_CTL_INTERVAL_S]
  | .guardProspectNominate => [F.GUARD_PROSPECT_NOMINATE_TILE]
  | .guardProspectDie => [F.GUARD_PROSPECT_DIE_PASSES, F.GUARD_PROSPECT_DIE_CURRENT, F.GUARD_PROSPECT_DIE_TESTING, F.GUARD_PROSPECT_DIE_DEFERRED, F.GUARD_PROSPECT_DIE_QUEUED, F.GUARD_PROSPECT_DIE_FAILS, F.GUARD_PROSPECT_DIE_POSITION]
  | .guardProspectForce => [F.GUARD_PROSPECT_FORCE_FORCED, F.GUARD_PROSPECT_FORCE_DEFER_S]
  | .guardShadowAddr => [F.GUARD_SHADOW_ADDR_ADDR]
  | .guardShadowCtl => [F.GUARD_SHADOW_CTL_GO]
  | .guardShadowStatus => [F.GUARD_SHADOW_STATUS_RESULT, F.GUARD_SHADOW_STATUS_BUSY_ERR, F.GUARD_SHADOW_STATUS_STATE]
  | .guardIntegrityCount => [F.GUARD_INTEGRITY_COUNT_TRIPS, F.GUARD_INTEGRITY_COUNT_SHADOW_RUNS, F.GUARD_INTEGRITY_COUNT_SHADOW_BAD]
  | .secDikPub => [F.SEC_DIK_PUB_KEY]
  | .secFwStatus => [F.SEC_FW_STATUS_SVN_LOADER, F.SEC_FW_STATUS_SVN_OVERMAN, F.SEC_FW_STATUS_SVN_TILE, F.SEC_FW_STATUS_SVN_MICRO]
  | .secFwFloor => [F.SEC_FW_FLOOR_FLOOR_LOADER, F.SEC_FW_FLOOR_FLOOR_OVERMAN, F.SEC_FW_FLOOR_FLOOR_TILE, F.SEC_FW_FLOOR_FLOOR_MICRO]
  | .secFwCtl => [F.SEC_FW_CTL_OWNER_ENROLLED, F.SEC_FW_CTL_OWNER_REQ, F.SEC_FW_CTL_COMMIT]
  | .secStageAddr => [F.SEC_STAGE_ADDR_ADDR]
  | .secStageCtl => [F.SEC_STAGE_CTL_GO, F.SEC_STAGE_CTL_TYPE, F.SEC_STAGE_CTL_LENGTH]
  | .secStageStatus => [F.SEC_STAGE_STATUS_RESULT, F.SEC_STAGE_STATUS_BUSY_ERR]
  | .secAttestAddr => [F.SEC_ATTEST_ADDR_ADDR]
  | .secAttestCtl => [F.SEC_ATTEST_CTL_GO, F.SEC_ATTEST_CTL_PART]
  | .secAttestStatus => [F.SEC_ATTEST_STATUS_RESULT, F.SEC_ATTEST_STATUS_BUSY_ERR]
  | .secPartCtl => [F.SEC_PART_CTL_CONF, F.SEC_PART_CTL_CFG_ERR, F.SEC_PART_CTL_STATE]
  | .secTenantKey => [F.SEC_TENANT_KEY_KEY]
  | .secSessAddr => [F.SEC_SESS_ADDR_ADDR]
  | .secSessCtl => [F.SEC_SESS_CTL_GO, F.SEC_SESS_CTL_OP, F.SEC_SESS_CTL_TENANT, F.SEC_SESS_CTL_SLOT, F.SEC_SESS_CTL_PEER_ID]
  | .secSessStatus => [F.SEC_SESS_STATUS_RESULT, F.SEC_SESS_STATUS_BUSY_ERR]
  | .secSessErr => [F.SEC_SESS_ERR_AUTH_FAIL, F.SEC_SESS_ERR_REPLAY]
  | .secSealHost => [F.SEC_SEAL_HOST_ADDR]
  | .secSealLocal => [F.SEC_SEAL_LOCAL_ADDR]
  | .secSealCtl => [F.SEC_SEAL_CTL_GO, F.SEC_SEAL_CTL_DIR, F.SEC_SEAL_CTL_SLOT, F.SEC_SEAL_CTL_POST_EN, F.SEC_SEAL_CTL_GATE, F.SEC_SEAL_CTL_UNITS]
  | .secSealStatus => [F.SEC_SEAL_STATUS_RESULT, F.SEC_SEAL_STATUS_BUSY_ERR]
  | .secSlot => [F.SEC_SLOT_STATE, F.SEC_SLOT_TENANT, F.SEC_SLOT_PEER_ID, F.SEC_SLOT_PEER_EPOCH, F.SEC_SLOT_SESSION_ID]
  | .clkRefStatus => [F.CLK_REF_STATUS_HOST_LOSSES, F.CLK_REF_STATUS_FABRIC_LOSSES, F.CLK_REF_STATUS_FALLBACK_PPM, F.CLK_REF_STATUS_HOST_LOST, F.CLK_REF_STATUS_FABRIC_LOST, F.CLK_REF_STATUS_ON_FALLBACK, F.CLK_REF_STATUS_FABRIC_EVT, F.CLK_REF_STATUS_HOST_EVT]
  | .clkGateCtl => [F.CLK_GATE_CTL_LOCK, F.CLK_GATE_CTL_GATE_EN]
  | .clkMeridian => [F.CLK_MERIDIAN_TIME]
  | .clkTimeSet => [F.CLK_TIME_SET_TIME]
  | .clkTimeStatus => [F.CLK_TIME_STATUS_HOLDOVER_MS, F.CLK_TIME_STATUS_CFG_ERR, F.CLK_TIME_STATUS_STATE]
  | .clkPwrCtl => [F.CLK_PWR_CTL_LOCK, F.CLK_PWR_CTL_POLICY_EN, F.CLK_PWR_CTL_MARGIN_PCT, F.CLK_PWR_CTL_LIMIT_MW]
  | .clkPwrCap => [F.CLK_PWR_CAP_CAP_MW]
  | .clkPwrStatus => [F.CLK_PWR_STATUS_INPUT_MW, F.CLK_PWR_STATUS_TARGET_MW]
  | .clkPwrMeas => [F.CLK_PWR_MEAS_TILE_MW, F.CLK_PWR_MEAS_OUTPUT_MW]
  | .clkThermCtl => [F.CLK_THERM_CTL_LOCK, F.CLK_THERM_CTL_THROTTLE_C, F.CLK_THERM_CTL_RESUME_C]
  | .clkThermStatus => [F.CLK_THERM_STATUS_HOTTEST_C, F.CLK_THERM_STATUS_SENSOR, F.CLK_THERM_STATUS_HALT, F.CLK_THERM_STATUS_DERATE]
  | .clkRailStatus => [F.CLK_RAIL_STATUS_FAULT, F.CLK_RAIL_STATUS_WARN]
  | .clkDormantCtl => [F.CLK_DORMANT_CTL_EXIT, F.CLK_DORMANT_CTL_ENTER]
  | .clkDormantStatus => [F.CLK_DORMANT_STATUS_ENTRIES, F.CLK_DORMANT_STATUS_LAST_WAKE_US, F.CLK_DORMANT_STATUS_EXIT_ERR, F.CLK_DORMANT_STATUS_CAUSE, F.CLK_DORMANT_STATUS_STATE]
  | .haulCtl => [F.HAUL_CTL_LOCK, F.HAUL_CTL_QUOTA, F.HAUL_CTL_RESEND_LIMIT, F.HAUL_CTL_AGE_SLACK]
  | .haulTimeout => [F.HAUL_TIMEOUT_TIMEOUT_HC]
  | .haulStatus => [F.HAUL_STATUS_SHUNTS, F.HAUL_STATUS_UNREACHABLE, F.HAUL_STATUS_SIDEBAND_UE, F.HAUL_STATUS_TIMEOUTS]
  | .haulRingEntered => [F.HAUL_RING_ENTERED_COUNT]
  | .haulRingLaps => [F.HAUL_RING_LAPS_LAPS, F.HAUL_RING_LAPS_THROTTLED]
  | .haulRingErr => [F.HAUL_RING_ERR_DISCARDED, F.HAUL_RING_ERR_BODY_UE, F.HAUL_RING_ERR_CE]
  | .haulChQ => [F.HAUL_CH_Q_MESSAGES, F.HAUL_CH_Q_NACK_FULL, F.HAUL_CH_Q_NACK_GONE, F.HAUL_CH_Q_NACK_STALE, F.HAUL_CH_Q_NACK_FENCED]
  | .haulChSend => [F.HAUL_CH_SEND_SENT, F.HAUL_CH_SEND_NACKED, F.HAUL_CH_SEND_STALLS]
  | .haulChDepth0 => [F.HAUL_CH_DEPTH0_DEPTH7, F.HAUL_CH_DEPTH0_DEPTH6, F.HAUL_CH_DEPTH0_DEPTH5, F.HAUL_CH_DEPTH0_DEPTH4, F.HAUL_CH_DEPTH0_DEPTH3, F.HAUL_CH_DEPTH0_DEPTH2, F.HAUL_CH_DEPTH0_DEPTH1, F.HAUL_CH_DEPTH0_DEPTH0]
  | .haulChDepth1 => [F.HAUL_CH_DEPTH1_DEPTH15, F.HAUL_CH_DEPTH1_DEPTH14, F.HAUL_CH_DEPTH1_DEPTH13, F.HAUL_CH_DEPTH1_DEPTH12, F.HAUL_CH_DEPTH1_DEPTH11, F.HAUL_CH_DEPTH1_DEPTH10, F.HAUL_CH_DEPTH1_DEPTH9, F.HAUL_CH_DEPTH1_DEPTH8]
  | .haulChGen => [F.HAUL_CH_GEN_GEN15, F.HAUL_CH_GEN_GEN14, F.HAUL_CH_GEN_GEN13, F.HAUL_CH_GEN_GEN12, F.HAUL_CH_GEN_GEN11, F.HAUL_CH_GEN_GEN10, F.HAUL_CH_GEN_GEN9, F.HAUL_CH_GEN_GEN8]
  | .pstoreBoot => [F.PSTORE_BOOT_BOOT_EPOCH, F.PSTORE_BOOT_LAST_RESET, F.PSTORE_BOOT_HALT_CODE, F.PSTORE_BOOT_RESULT, F.PSTORE_BOOT_PHASE]
  | .pstoreFlash => [F.PSTORE_FLASH_ERASES, F.PSTORE_FLASH_WRITE_FAIL, F.PSTORE_FLASH_WRITES]
  | .pstoreXferAddr => [F.PSTORE_XFER_ADDR_ADDR]
  | .pstoreXferCtl => [F.PSTORE_XFER_CTL_GO, F.PSTORE_XFER_CTL_TYPE, F.PSTORE_XFER_CTL_INDEX]
  | .pstoreXferStatus => [F.PSTORE_XFER_STATUS_RESULT, F.PSTORE_XFER_STATUS_BUSY_ERR, F.PSTORE_XFER_STATUS_LENGTH]
  | .pstoreRec => [F.PSTORE_REC_SEQ, F.PSTORE_REC_DEFAULTED, F.PSTORE_REC_PENDING, F.PSTORE_REC_NEWEST, F.PSTORE_REC_A_VALID, F.PSTORE_REC_B_VALID]
  | .pstoreBist => [F.PSTORE_BIST_ROWS_SPARED, F.PSTORE_BIST_COLS_SPARED, F.PSTORE_BIST_TILES_FENCED, F.PSTORE_BIST_FUSES_LEFT, F.PSTORE_BIST_PPR_HARD, F.PSTORE_BIST_FATAL]
  | .tsCtl => [F.TS_CTL_LOCK, F.TS_CTL_RESERVE, F.TS_CTL_SCRUB_EN]
  | .tsStatus => [F.TS_STATUS_WIN_OPEN, F.TS_STATUS_WIN_REJECT, F.TS_STATUS_STOP_QUEUED, F.TS_STATUS_GATHER_ISSUE, F.TS_STATUS_GATHER_MOVER, F.TS_STATUS_TASK]
  | .tsEccCount => [F.TS_ECC_COUNT_UE_COUNT, F.TS_ECC_COUNT_CE_COUNT]
  | .tsEccLast => [F.TS_ECC_LAST_VALID, F.TS_ECC_LAST_UE, F.TS_ECC_LAST_SOURCE, F.TS_ECC_LAST_BIT_A, F.TS_ECC_LAST_BIT_B, F.TS_ECC_LAST_OFFSET]
  | .tsScrub => [F.TS_SCRUB_PASSES, F.TS_SCRUB_POSITION]
  | .tsRefuse => [F.TS_REFUSE_DOUT_REFUSED, F.TS_REFUSE_DIN_REFUSED, F.TS_REFUSE_MMA_STALL, F.TS_REFUSE_DRAIN_STALL]
  | .plTileState => [F.PL_TILE_STATE_LOGICAL, F.PL_TILE_STATE_PARTITION, F.PL_TILE_STATE_FENCE, F.PL_TILE_STATE_PASSAGE_FAIL, F.PL_TILE_STATE_FENCED, F.PL_TILE_STATE_RETIRED, F.PL_TILE_STATE_HELD, F.PL_TILE_STATE_CLAIMED, F.PL_TILE_STATE_BUSY, F.PL_TILE_STATE_SERVING]
  | .plDriftErr => [F.PL_DRIFT_ERR_N_UE, F.PL_DRIFT_ERR_N_CE, F.PL_DRIFT_ERR_E_UE, F.PL_DRIFT_ERR_E_CE, F.PL_DRIFT_ERR_S_UE, F.PL_DRIFT_ERR_S_CE, F.PL_DRIFT_ERR_W_UE, F.PL_DRIFT_ERR_W_CE]
  | .secMeas => [F.SEC_MEAS_BYTES]

/-- The GLB, TGE, SEAM and ASSAY families, in address order. -/
def RegName.part1 : List RegName :=
  [.glbPart, .glbSectionMap, .glbSectionApply, .glbSectionStatus, .glbSectionActive, .tgeTickCtl, .tgeTickSwitch, .tgeTickNow,
   .tgeAdmitCtl, .tgeEnergyBudget, .tgeEnergyStatus, .tgeGraphCancel, .tgeGateAdd, .tgeNodeStatus, .tgePartEnergyCap, .tgeSqBase,
   .tgeSqCtl, .tgeSqHead, .tgeCqBase, .tgeCqCtl, .tgeCqTail, .tgeQStatus, .tgePlaceCtl, .tgePlaceStatus,
   .tgePlaceDie, .tgePlaceFence, .tgeGate, .seamDomain, .seamLock, .seamCtl, .seamPoolT1, .seamPoolT2,
   .seamPoolMap, .seamPoolSketch, .seamHostBase, .seamHostFrames, .seamLedger, .seamRemoteBase, .seamRemoteCfg, .seamLeaseBase,
   .seamLeaseCfg, .seamTierCtl, .seamTierCtl2, .seamContrailCtl, .seamContrailStatus, .seamHqBase, .seamHqCtl, .seamHqTail]

/-- Part 2 of the families, in address order. -/
def RegName.part2 : List RegName :=
  [.seamHqHead, .seamFree, .seamStreams, .seamPackStats, .assayDieStatus, .assayCtl, .assayQueries, .assayScored,
   .assayListed, .assayExcluded, .assayEvents, .assayHist, .memCtl, .memDevStatus, .memDevEccCount, .memDevEccLast,
   .memDevEccAddr, .memDevScrub, .memDevRepair, .memDevLink, .memDevCrypt, .portLinkGlb, .portXportCtl, .portXportStatus,
   .portXportErr, .portTimeCtl, .portTimeStatus, .portTelemBase, .portTelemCtl, .portSampleBase, .portSampleCtl, .portSampleHead,
   .portLinkCtl, .portLinkStatus, .portFecCount, .portLaneSym0, .portLaneSym1, .portReplay, .portEvents, .portLaneTest,
   .portLaneTime, .portRtt, .portDevid, .portHeraldList, .portCollTable, .portCollStatus, .portPartHerald, .hostLinkStatus]

/-- Part 3 of the families, in address order. -/
def RegName.part3 : List RegName :=
  [.hostLinkErr, .hostPfCtl, .hostEventVec, .hostBar2Status, .hostIrqStatus, .hostDmaBase, .hostDmaCtl, .hostDmaHead,
   .hostDmaStatus, .hostMsixAddr, .hostMsixData, .hostMsixMod, .hostMsixPba, .guardLogBase, .guardLogCtl, .guardLogHead,
   .guardLogStatus, .guardResetReq, .guardResetStatus, .guardResetRelease, .guardCtl, .guardOverman, .guardRejoinCtl, .guardRejoinPlan,
   .guardRejoinAdmit, .guardRejoinStatus, .guardRejoinCount, .guardProspectCtl, .guardProspectNominate, .guardProspectDie, .guardProspectForce, .guardShadowAddr,
   .guardShadowCtl, .guardShadowStatus, .guardIntegrityCount, .secDikPub, .secFwStatus, .secFwFloor, .secFwCtl, .secStageAddr,
   .secStageCtl, .secStageStatus, .secAttestAddr, .secAttestCtl, .secAttestStatus, .secPartCtl, .secTenantKey, .secSessAddr]

/-- Part 4 of the families, in address order. -/
def RegName.part4 : List RegName :=
  [.secSessCtl, .secSessStatus, .secSessErr, .secSealHost, .secSealLocal, .secSealCtl, .secSealStatus, .secSlot,
   .clkRefStatus, .clkGateCtl, .clkMeridian, .clkTimeSet, .clkTimeStatus, .clkPwrCtl, .clkPwrCap, .clkPwrStatus,
   .clkPwrMeas, .clkThermCtl, .clkThermStatus, .clkRailStatus, .clkDormantCtl, .clkDormantStatus, .haulCtl, .haulTimeout,
   .haulStatus, .haulRingEntered, .haulRingLaps, .haulRingErr, .haulChQ, .haulChSend, .haulChDepth0, .haulChDepth1,
   .haulChGen, .pstoreBoot, .pstoreFlash, .pstoreXferAddr, .pstoreXferCtl, .pstoreXferStatus, .pstoreRec, .pstoreBist,
   .tsCtl, .tsStatus, .tsEccCount, .tsEccLast, .tsScrub, .tsRefuse, .plTileState, .plDriftErr]

/-- Part 5 of the families, in address order. -/
def RegName.part5 : List RegName :=
  [.secMeas]

/-- Every family, in address order. -/
def RegName.all : List RegName := RegName.part1 ++ RegName.part2 ++ RegName.part3 ++ RegName.part4 ++ RegName.part5

/-- The register whose LOCK bit (bit 63) governs the family's RWL fields: a LOCK of its own, or another register's
(SEAM_DOMAIN by SEAM_LOCK, HAUL_TIMEOUT by HAUL_CTL, PORT_TIME_CTL by PORT_XPORT_CTL). -/
def RegName.lockReg : RegName → RegName
  | .seamDomain => .seamLock
  | .haulTimeout => .haulCtl
  | .portTimeCtl => .portXportCtl
  | r => r

/-- BAR0 offset of the register of indices i, j. -/
def RegName.off (r : RegName) (i j : Nat) : Nat := r.fam.base + i * r.fam.s1 + j * r.fam.s2

/-- The word whose fields all hold their reset values. -/
def RegName.reset (r : RegName) : Word := BitVec.ofNat 64 ((r.fields.map fun f => f.reset * 2 ^ f.lo).foldl (· + ·) 0)

/-- The mask of the fields with access code `a`. -/
def RegName.maskOf (r : RegName) (a : Acc) : Word :=
  BitVec.ofNat 64 ((r.fields.map fun f => if f.acc = a then (2 ^ (f.hi + 1 - f.lo) - 1) * 2 ^ f.lo else 0).foldl (· + ·) 0)

/-- Whether the family has a register of these indices: the module has one log, and each partition has one (R366). -/
def RegName.has (r : RegName) (i j : Nat) : Bool :=
  match r with
  | .guardLogBase => decide (i = 1 ∨ j = 0)
  | .guardLogCtl => decide (i = 1 ∨ j = 0)
  | .guardLogHead => decide (i = 1 ∨ j = 0)
  | .guardLogStatus => decide (i = 1 ∨ j = 0)
  | _ => true

/-- Indices of the family's register at an offset, if it lies there. -/
def RegName.at? (r : RegName) (off : Nat) : Option (Nat × Nat) :=
  let m := r.fam
  if off < m.base then none else
  let d := off - m.base
  let i := if m.s1 = 0 then 0 else d / m.s1
  let e := if m.s1 = 0 then d else d % m.s1
  let j := if m.s2 = 0 then 0 else e / m.s2
  let z := if m.s2 = 0 then e else e % m.s2
  if z = 0 ∧ i < m.n1 ∧ j < m.n2 ∧ r.has i j then some (i, j) else none

/-- The register at a BAR0 offset (R8: none at a reserved offset). -/
def lookupIn : List RegName → Nat → Option (RegName × Nat × Nat)
  | [], _ => none
  | r :: rs, off =>
    match r.at? off with
    | some (i, j) => some (r, i, j)
    | none => lookupIn rs off

/-- The register at a BAR0 offset. -/
def regAt (off : Nat) : Option (RegName × Nat × Nat) := lookupIn RegName.all off

end Sys2Proof.Machine
end

