-- ==== Sys2Proof/Machine/SMap.lean ====
section
/-! DEFINITION. Sparse maps as plain data: a list of key and value pairs with strictly rising keys. Every sparse
table of the machine (registers, store words, Ledger entries, slots) is one of these. -/

namespace Sys2Proof.Machine

/-- A sparse map from numbers: pairs with strictly rising keys. -/
abbrev SMap (α : Type) := List (Nat × α)

/-- The value held for key `k`, if one is. -/
def SMap.find {α : Type} : SMap α → Nat → Option α
  | [], _ => none
  | (k', v) :: m, k => if k = k' then some v else SMap.find m k

/-- The value held for key `k`, or `d`. -/
def SMap.get {α : Type} (d : α) (m : SMap α) (k : Nat) : α := (SMap.find m k).getD d

/-- `m` with key `k` holding `v`. -/
def SMap.set {α : Type} : SMap α → Nat → α → SMap α
  | [], k, v => [(k, v)]
  | (k', v') :: m, k, v =>
    if k < k' then (k, v) :: (k', v') :: m
    else if k = k' then (k, v) :: m
    else (k', v') :: SMap.set m k v

/-- `m` without key `k`. -/
def SMap.erase {α : Type} : SMap α → Nat → SMap α
  | [], _ => []
  | (k', v') :: m, k => if k = k' then m else (k', v') :: SMap.erase m k

/-- Keys rise strictly. -/
def SMap.wf {α : Type} : SMap α → Bool
  | [] => true
  | [_] => true
  | (k, _) :: (k', v') :: m => decide (k < k') && SMap.wf ((k', v') :: m)

/-- The keys of a map. -/
def SMap.keys {α : Type} (m : SMap α) : List Nat := m.map (·.1)

/-- The values of a map. -/
def SMap.vals {α : Type} (m : SMap α) : List α := m.map (·.2)

/-- `f` applied to the value of key `k`, when the map holds the key. -/
def SMap.modify {α : Type} (m : SMap α) (k : Nat) (f : α → α) : SMap α :=
  match SMap.find m k with
  | some v => SMap.set m k (f v)
  | none => m

/-- `f` applied to every value. -/
def SMap.mapVals {α : Type} (m : SMap α) (f : Nat → α → α) : SMap α := m.map fun (k, v) => (k, f k v)

/-- The pairs that satisfy `p`. -/
def SMap.keep {α : Type} (m : SMap α) (p : Nat → α → Bool) : SMap α := m.filter fun (k, v) => p k v

end Sys2Proof.Machine
end

