-- ==== Sys2Proof/Machine/State.lean ====
section
/-! DEFINITION. The state of the module: every register, queue, buffer, counter and mode that the spec gives it, as
plain data, the queue of waiting commands, and the state after reset. -/

namespace Sys2Proof.Machine

/-- No command stops the machine: the spec gives every row of the table an effect (an event whose condition does not hold
changes nothing), so there is no fault. -/
inductive Fault where
deriving DecidableEq, Repr

/-- Why a command has no meaning in the model. -/
inductive Refusal where
  /-- Raised by an arm of exec whose row has no meaning yet, naming the row: safe, since nothing is said of that command. -/
  | notModelled (mnemonic : String)
deriving DecidableEq, Repr

/-! ### Records, messages and memory -/

/-- An error record before it is given to a log (Table 15.1): everything but PHASE-like words added at delivery (SEQ, VALID), with the fetch number of the graph whose task it names (R45). -/
structure Rec where
  cls      : Nat
  cause    : Nat
  part     : Option Nat
  epoch    : Nat
  action   : Nat
  stream   : Option Nat
  task     : Option (Nat × Nat × Nat × Word)
  graph    : Option Nat
  tile     : Option (Nat × Nat × Bool)
  time     : Nat
  pc       : Nat
  unit     : Nat
  unitIx   : Nat
  aux      : Word
  aux2     : Word
deriving DecidableEq, Repr

/-- A log (R366): the records that wait on the die for room, oldest first, with the SEQ each was given, and the next SEQ. -/
structure Log where
  queue : List (Nat × Rec)
  seq   : Nat
deriving DecidableEq, Repr

/-- What the module sends to the outside world: MSI-X messages (function, address, data), packets whose header leaves on a fabric port, the link blocks that
carry them (R276), management responses, pin levels, BAR completions and the error completions of a memory controller (R266, R367). -/
inductive Out where
  | msix (fn vec : Nat) (addr data : Word)
  | packet (port : Nat) (kind : Nat) (p : Packet)
  | block (port : Nat) (head : BitVec 40) (payload : List Byte)
  | completion (fn : Nat) (status : Nat) (data : List Byte)
  | mgmt (data : List Byte)
  | pin (name level : Nat)
  | beacon (port : Nat) (time : Nat)
  | memError (dev off status : Nat)
deriving DecidableEq, Repr

/-! ### The Task Graph Engine -/

/-- The states of Table 2.14. -/
inductive TaskState where
  | waiting
  | eligible
  | ready
  | launching
  | running
  | resetting
  | done
  | faulted
  | cancelled
deriving DecidableEq, Repr

/-- A region (R161): die, origin row and logical column, rows and columns. -/
structure Region where
  die  : Nat
  row  : Nat
  col  : Nat
  rows : Nat
  cols : Nat
deriving DecidableEq, Repr

/-- A node of a graph in flight: its descriptor (Table 2.5) and its task's progress (R46 to R57). `why` is 0 or the code of
Table 2.13 that a fault gives the graph; `resetTick` is the Tick in which the task entered RESETTING; `overrun` says which cause; `twice` marks the
task of a shadow run, of twice the width and ENERGY (R348). -/
structure Node where
  words     : List Word
  state     : TaskState
  deps      : Nat
  age       : Nat
  restarted : Bool
  nOverrun  : Nat
  nFence    : Nat
  slot      : Option Nat
  why       : Nat
  passed    : Nat
  passedNow : Bool
  reserved  : Bool
  resetTick : Nat
  overrun   : Bool
  region    : Option Region
  twice     : Bool
deriving DecidableEq, Repr

/-- A graph in flight (R34, R39, R45). `status` is set by validation when it fails: code, DETAIL, NO_NODE and first node. `shadow` marks the one-node graph of a shadow run (R348), `mute` a graph whose record an FLR has discarded (R324). -/
structure Graph where
  queue     : Nat
  seq       : Nat
  hdr       : List Word
  validated : Bool
  nodes     : List Node
  edges     : List Nat
  cancelled : Bool
  aborted   : Bool
  appends   : Nat
  unacked   : Bool
  status    : Option (Nat × Nat × Bool × Nat)
  shadow    : Bool
  mute      : Bool
  finished  : Option Nat
  released  : Option Nat
deriving DecidableEq, Repr

/-- A task slot (R47): its epoch, and the graph sequence number and node that hold it. -/
structure Slot where
  epoch  : Nat
  holder : Option (Nat × Nat)
deriving DecidableEq, Repr

/-- A task that holds a region (R46, R88): its graph and node, partition, stream, epoch and region, the physical tiles in row-major order of
the logical region, the limits of its image, and schedule cycle 0. `started` is set when the first instructions may execute. `shadow` is the copy number of a shadow run (R347), 0 for an ordinary task. -/
structure Task where
  gseq     : Nat
  node     : Nat
  part     : Nat
  stream   : Option Nat
  epoch    : Nat
  region   : Region
  tiles    : List Nat
  args     : List Word
  codeEnd  : Nat
  start    : Nat
  launchAt : Nat
  started  : Bool
  sets     : List (List Word)
  shadow   : Nat
deriving DecidableEq, Repr

/-! ### Tiles and cores -/

/-- An entry of a gather buffer (R139): the absolute store line, its bytes, its byte-valid mask, and the core cycle of its last ST. -/
structure GEntry where
  line : Nat
  data : List Byte
  mask : List Bool
  last : Nat
deriving DecidableEq, Repr

/-- A store by a core that the other core of the tile may not see yet (R106, Table 4.16): its cycle, core and absolute offset, the bytes that the other core still loads,
and the bytes stored. -/
structure Stored where
  cyc   : Nat
  mover : Bool
  off   : Nat
  old   : List Byte
  new   : List Byte
deriving DecidableEq, Repr

/-- Bytes that a dynamic write of a cycle has replaced, for the reads of that cycle (R135, Tables 4.16 and 5.4): cycle, absolute offset, the bytes before it, and whether
the cores' loads of the cycle see them too (landing data and remote lines). -/
structure Laid where
  cyc  : Nat
  off  : Nat
  old  : List Byte
  land : Bool
deriving DecidableEq, Repr

/-- A store-engine operation (R143): issuing core, COPY or FILL, pattern, absolute source and destination, length, start cycle, PC. -/
structure StopOp where
  mover : Bool
  copy  : Bool
  pat   : Word
  src   : Nat
  dst   : Nat
  len   : Nat
  start : Nat
  pc    : Word
deriving DecidableEq, Repr

/-- A valid beat on its way to a drift input (R116, R157): input side, the core cycle in which it can be captured, its bytes, the PC of the instruction that sent it, its 16-bit
sequence on the link, and the stored bits of its words that arrive wrong. -/
structure Beat where
  side  : Nat
  cycle : Nat
  data  : List Byte
  pc    : Word
  seq   : Nat
  flips : List (Nat × BitVec 80)
deriving DecidableEq, Repr

/-- Where a stream that captures a drift input puts its beats (R115, R116): the beats of a descriptor, or another output. -/
inductive Sink where
  | desc (d : BitVec 256)
  | forward (out : Nat)
deriving DecidableEq, Repr

/-- A DIN or forward in progress: input side, the cycle of its first capture, beats, beats captured so far, where they go, the PC of its instruction, and what the link of a forward does to its beats. -/
structure Consumer where
  side  : Nat
  start : Nat
  n     : Nat
  done  : Nat
  sink  : Sink
  pc    : Word
  noise : LinkNoise
deriving DecidableEq, Repr

/-- A DOUT from a descriptor in progress (R116): output side, descriptor, beats, the cycle of its first read, beats read so far, PC, and what the link does to its beats. -/
structure DoutOp where
  side  : Nat
  desc  : BitVec 256
  n     : Nat
  start : Nat
  done  : Nat
  pc    : Word
  noise : LinkNoise
deriving DecidableEq, Repr

/-- A captured beat that DIN writes to the store in a cycle (R116): cycle, side, absolute offset, bytes, PC. -/
structure StoreBeat where
  cycle : Nat
  side  : Nat
  off   : Nat
  data  : List Byte
  pc    : Word
deriving DecidableEq, Repr

/-- A message in a receive queue (R249): its 64 bytes, for a request the sender's logical tile, reply queue and generation, whether it was stored marked (R235), and the cycle of its arrival. -/
structure Msg where
  data    : List Byte
  request : Bool
  sender  : Nat
  replyQ  : Nat
  gen     : Nat
  marked  : Bool
  at_     : Nat
deriving DecidableEq, Repr

/-- A receive queue (R248): its entries oldest first, its reservations, and the generation of a reply queue. -/
structure MsgQueue where
  entries : List Msg
  resv    : Nat
  gen     : Nat
deriving DecidableEq, Repr

/-- A physical tile: fencing (R165, R166), the Prospector's claim, the cycle at which it became free, the slot of the task it runs and the STORE_BASE of its launch (R131), the gather buffers
of its cores (R139), the stores and dynamic writes of the present cycles (R106, R135), the store engine (R143), the open windows of the comparators as entry number and two words (R145), the drift inputs with the streams
that capture and send beats, beats on their way to the store and the release cycles of held outputs and inputs (R116, R117), the beats that each input's link has carried and that the input has captured since the launch (R157), the message queues (R248), the uncorrectable words its scrubber has found in this
boot epoch (Table 15.9), the last partition served (R133), the copy of the tile image in its reserve (R386, R418), and the source and TAG of the last 8 multicasts its stop has accepted (R246). -/
structure Tile where
  fenced   : Bool
  passFail : Bool
  claimed  : Bool
  freeAt   : Nat
  slot     : Option Nat
  base     : Nat
  gatherI  : List GEntry
  gatherM  : List GEntry
  recent   : List Stored
  laid     : List Laid
  stops    : List StopOp
  windows  : List (Nat × Word × Word)
  beats    : List Beat
  cons     : List Consumer
  douts    : List DoutOp
  wbeats   : List StoreBeat
  outHold  : List (Nat × Nat)
  inHold   : List (Nat × Nat)
  linkSeq  : SMap (Nat × Nat)
  chanOpen : Bool
  queues   : SMap MsgQueue
  ueWords  : List Nat
  lastPart : Option Nat
  fw       : Nat
  casts    : List (Nat × Nat)
deriving DecidableEq, Repr

/-- A powered tile that has served nothing. -/
def Tile.fresh : Tile :=
  { fenced := false, passFail := false, claimed := false, freeAt := 0, slot := none, base := 0, gatherI := [], gatherM := [], recent := [], laid := [],
    stops := [], windows := [], beats := [], cons := [], douts := [], wbeats := [], outHold := [], inHold := [], linkSeq := [], chanOpen := false, queues := [],
    ueWords := [], lastPart := none, fw := 0, casts := [] }

/-- Whether a core runs: idle with no task, executing, stalled until a schedule cycle (R118), or past its task end. -/
inductive CoreState where
  | idle
  | run
  | wait (cyc : Nat)
  | ended
deriving DecidableEq, Repr

/-- A hardware loop (R103): PC of the first body instruction, PC after the last, and passes still to run, the present one included. -/
structure Loop where
  first : Word
  after : Word
  left  : Nat
deriving DecidableEq, Repr

/-- An outstanding HGET or HPUT (R119): number, direction, absolute store offset, global address, length, PC, issue cycle and the fabric operations
that still carry parts of it, with the status and the address of the first error in address order. -/
structure HaulReq where
  id    : Nat
  put   : Bool
  store : Nat
  addr  : Word
  len   : Nat
  pc    : Word
  born  : Nat
  ops   : List Nat
  err   : Nat
  errAt : Nat
  lost  : Bool
deriving DecidableEq, Repr

/-- A scheduled gate addition (R124): gate, value, and the requests and store operations that must complete first. -/
structure GatePend where
  gate  : Nat
  add   : Word
  reqs  : List Nat
  stops : Nat
deriving DecidableEq, Repr

/-- An Edley core (R89, R90): PC, state, the earliest next issue cycle, register files, loops, the cycles at which results become readable (Table 4.14),
the send and command tags, outstanding requests, commands (tags) and sends, and the send outcomes not yet read. -/
structure Core where
  pc       : Word
  st       : CoreState
  readyAt  : Nat
  g        : SMap Word
  p        : SMap Word
  d        : SMap (BitVec 256)
  w        : SMap (BitVec 2048)
  loops    : List Loop
  rdy      : SMap Nat
  sendTag  : Nat
  cmdTag   : Nat
  nextReq  : Nat
  haul     : List HaulReq
  cmds     : List Nat
  sends    : List Nat
  outcomes : List (Nat × Nat)
  gates    : List GatePend
deriving DecidableEq, Repr

/-- A core with no task. -/
def Core.idle : Core :=
  { pc := 0, st := .idle, readyAt := 0, g := [], p := [], d := [], w := [], loops := [], rdy := [], sendTag := 0,
    cmdTag := 0, nextReq := 0, haul := [], cmds := [], sends := [], outcomes := [], gates := [] }

/-- Where an MMA operand comes from (R112): a descriptor, the beats of wide registers as they stood at issue, or a drift input. -/
inductive OperandSrc where
  | desc (d : BitVec 256)
  | wide (beats : List (List Byte))
  | drift (side : Nat)
deriving DecidableEq, Repr

/-- An MMA in flight (R72, R73, R112): operand formats, CLEAR, K, sources, the beats and scale beats taken so far, issue cycle, operand cycles, the next of them, the cycles
lost (R136), and its PC. -/
structure MmaOp where
  fa    : Nat
  fb    : Nat
  clr   : Bool
  k     : Nat
  a     : OperandSrc
  b     : OperandSrc
  inA   : List (List Byte)
  inB   : List (List Byte)
  scA   : List (List Byte)
  scB   : List (List Byte)
  t     : Nat
  n     : Nat
  pos   : Nat
  late  : Nat
  pc    : Word
deriving DecidableEq, Repr

/-- A drain in flight (R74, R75): destination descriptor, format, issue cycle, cycles lost, the next row to be written and those of its beats that are written, the rows
as converted (64 elements and the flags of each row), and its PC. -/
structure DrainOp where
  dst  : BitVec 256
  fmt  : Nat
  t    : Nat
  late : Nat
  row  : Nat
  part : List Nat
  rows : List (List Nat × Nat)
  pc   : Word
deriving DecidableEq, Repr

/-- What a tile's checker holds for one sentinel set (R343, R344): NaN and infinity counts, and the SNCHK row's sum and sum of squares. -/
structure SentRow where
  nan : Nat
  inf : Nat
  sum : BitVec 32
  sq  : BitVec 32
deriving DecidableEq, Repr

/-- The arithmetic state of an issue core (R66, R72, R79, R82, R93): AFLAGS, flags not yet set with the cycle of the result that sets them, SR generators (none until they are seeded), softmax pairs, accumulator rows of 64 entries with
their mode, the MMAs (oldest first) and drains in flight, the sentinel sets' counts, the first trip not yet raised (trip word, PC, auxiliary word; R345), and the cycle
of the last value checked (R346). -/
structure Arith where
  aflags : Nat
  due    : List (Nat × Nat)
  sr     : List (BitVec 32)
  smM    : List (BitVec 32)
  smS    : List (BitVec 32)
  acc    : SMap (List (BitVec 32))
  accInt : Bool
  mmas   : List MmaOp
  drains : List DrainOp
  sents  : SMap SentRow
  trip   : Option (Nat × Word × Nat)
  check  : Nat
deriving DecidableEq, Repr

/-- The arithmetic state at launch but for the SR seeds (R82). -/
def Arith.fresh : Arith :=
  { aflags := 0, due := [], sr := [], smM := List.replicate 64 0xFF800000#32, smS := List.replicate 64 0#32, acc := [], accInt := false,
    mmas := [], drains := [], sents := [], trip := none, check := 0 }

/-- A die's column mapping (R158, R167, R168): the physical column of each logical column in force, the breaks in force (logical column west of each),
the re-placement in progress (start boundary in ns, columns that retire, links selected), and the logical columns held out of placement. -/
structure DiePlace where
  map    : List Nat
  breaks : List Nat
  repl   : Option (Nat × List Nat × Bool)
  held   : List Nat
deriving DecidableEq, Repr

/-! ### Time -/

/-- The module's time: core cycles since device reset, the Meridian time and the core cycle of the last adjustment, the Meridian time and cycle of the
present Tick's opening boundary, the schedule's origin, the armed switch (time and captured period, R31), and the last cycle whose drift captures are
settled. -/
structure Clock where
  cyc     : Nat
  merBase : Nat
  cycBase : Nat
  tickMer : Nat
  tickCyc : Nat
  origin  : Nat
  switch  : Option (Nat × Nat)
  settled : Nat
deriving DecidableEq, Repr

/-- The TGE front end and placers (R34 to R60): graphs in flight, slots, the next header and finish sequence numbers, unfetched doorbells by queue, the
energy left in the Tick and its partition caps (R50), admission enabled and enabled from the next boundary (R53), a thermal or reference halt, the
cycle until which each die's placer is occupied, the searches that found no origin since tiles last came free (graph, node, die, cycle; R163), the debt in nJ (R52), and the dies on which a search of the present
Tick found no region (R354). -/
structure Tge where
  graphs   : List Graph
  slots    : SMap Slot
  nextSeq  : Nat
  dbells   : SMap (List (Nat × Nat))
  budget   : Option Int
  caps     : SMap Int
  admitOn  : Bool
  halted   : Bool
  placer   : SMap Nat
  noFit    : List (Nat × Nat × Nat × Nat)
  debt     : Nat
  tight    : List Nat
deriving DecidableEq, Repr

/-- A partition beyond its registers: fenced (R367), the step of a reset in progress (0 none, 1 accepted, 2 fenced, 3 drained), whether it stays
held at its end, its cause, and the time of its latest step. -/
structure Part where
  fenced : Bool
  phase  : Nat
  hold   : Bool
  cause  : Nat
  since  : Nat
deriving DecidableEq, Repr

/-- A partition in service. -/
def Part.fresh : Part := { fenced := false, phase := 0, hold := false, cause := 0, since := 0 }

/-! ### The Seam Engines and the Assay units -/

/-- Where a SEAM or ASSAY command came from (R121, R199): a core with its slot, epoch, tag, PC and the absolute store offset of its completion area, or an entry of the
partition's host command ring, whose completion is not written where an FLR has discarded it (R324). -/
inductive CmdFrom where
  | task (core slot epoch tag : Nat) (pc : Word) (area : Nat)
  | host (ix : Nat) (mute : Bool)
deriving DecidableEq, Repr

/-- A submitted command (R192, R193, R196, R219): partition, kind (0 FETCH, 1 APPEND, 2 CONTROL, 3 QUERY), block and origin, FORCE_EXACT and the audit mark where ASSAY_CTL was written after a
QUERY was accepted (Table 8.6), the leaf entries (leaf, words) that a command waiting for a peer has read (R190, R211), and whether the operation that carries the entry of a ring QUERY to a peer has been issued (R199). -/
structure SeamCmd where
  part   : Nat
  kind   : Nat
  block  : List Word
  origin : CmdFrom
  assay  : Option (Bool × Bool)
  leaves : List (Nat × Word × Word)
  sent   : Bool
deriving DecidableEq, Repr

/-- A frame move in progress (R191): stream, leaf (group × 65,536 + seam), the leaf STATE it left and the one it goes to, the target frame's global address, whether its writes
to a peer have been issued and whether one of them failed. -/
structure Move where
  part  : Nat
  sid   : Nat
  leaf  : Nat
  src   : Nat
  dst   : Nat
  frame : Nat
  sent  : Bool
  bad   : Bool
deriving DecidableEq, Repr

/-- What an APPEND or RESYNC sends to the contrail lease (R204, R307): its step, the graph of a synchronous append's task, its time, the lines (lease offset and bytes) that wait
for the frame lines they cover, and whether it is acknowledged. Step 0 marks writes that no append waits for. -/
structure Trail where
  part  : Nat
  sid   : Nat
  id    : Nat
  step  : Nat
  gseq  : Option Nat
  sync  : Bool
  born  : Nat
  later : List (Nat × List Byte)
  acked : Bool
deriving DecidableEq, Repr

/-- A RESTORE or RESYNC in progress (R206, R210): stream, its command, the trail that carries a RESYNC's writes, and the cause of a lapse that ended it (0 none; 8 a lost seam). -/
structure SeamJob where
  part    : Nat
  sid     : Nat
  cmd     : SeamCmd
  restore : Bool
  trail   : Nat
  lapse   : Nat
deriving DecidableEq, Repr

/-- The Seam Engines beyond their registers and memory: submitted commands oldest first, the Ledger cache of each die (keys of streams; R181), its
Seam TLB (tags of lines, least recently used first; R188) with the HEAT and HEAT_TICK that a line holds and memory does not (tag, entry in the line, values), moves, frames queued for promotion by RESUME (partition, stream, leaf), contrail writes and the next of
their numbers, RESTOREs and RESYNCs in progress, the holder's image of its contrail lease's Ledger, bitmap and map (keys partition × 2^44 + lease offset; R203) and the lease blocks
it uses for map tables, frames used in remote pools (key partition × 4 + pool), the tiering scanner of each die (next stream key and leaf, and the Tick of its last scan), bytes whose move
each partition started in the present Tick, leases whose header is to be written (R178), partitions with a partner check in progress (R202), remote pools that have ended and the
EPOCH of a pool's lease header where it is known (R377), QUERYs counted for auditing (R228), streams that were closed during RESTORE and whose mirror is to be freed (R182), ring QUERYs whose write to a peer has failed (R199), and source frames
of moves (partition, stream, leaf, source state, frame) that are freed once every command that read the old leaf entry has completed (R191). -/
structure Seam where
  queue   : List SeamCmd
  ledgers : SMap (List Nat)
  tlbs    : SMap (List (Nat × Nat × Nat × Nat))
  heats   : List ((Nat × Nat × Nat × Nat) × Nat × Nat × Nat)
  moves   : List Move
  promo   : List (Nat × Nat × Nat)
  trails  : List Trail
  nextId  : Nat
  jobs    : List SeamJob
  mirror  : SMap Byte
  blocks  : SMap (List Nat)
  remUsed : SMap (List Nat)
  scanAt  : SMap (Nat × Nat)
  scanned : SMap Nat
  moved   : SMap Nat
  headers : List (Nat × Nat)
  checks  : List Nat
  ended   : List Nat
  epochs  : SMap Nat
  audits  : SMap Nat
  orphans : List (Nat × Nat)
  qfail   : List (Nat × Nat)
  late    : List (Nat × Nat × Nat × Nat × Nat)
deriving DecidableEq, Repr

/-! ### Haulage and channels -/

/-- A message on its way to its queue (R249): sending core with its slot, epoch and tag, the physical tile and queue it goes to, its bytes, whether it is a
request, the sender's logical tile, the reply queue of a request, the generation of a reply, the reply slot that the sender reserved, whether
its body is marked uncorrectable (R235), and its AGE (R242). -/
structure Flight where
  core    : Nat
  slot    : Nat
  epoch   : Nat
  tag     : Nat
  dst     : Nat
  q       : Nat
  data    : List Byte
  request : Bool
  sender  : Nat
  replyQ  : Nat
  gen     : Nat
  resv    : Option Nat
  marked  : Bool
  age     : BitVec 32
deriving DecidableEq, Repr

/-- An outcome on its way back to its sender (R251): core, slot, epoch, tag, code, and the reply slot that a failed REQ releases. -/
structure OutcomeFlit where
  core  : Nat
  slot  : Nat
  epoch : Nat
  tag   : Nat
  code  : Nat
  resv  : Option Nat
deriving DecidableEq, Repr

/-- What a multicast carries (R245): the load of the launch of a slot's task, or the tile firmware. -/
inductive CastLoad where
  | launch (slot : Nat)
  | firmware
deriving DecidableEq, Repr

/-- A multicast in progress (R244 to R246): die, whether it travels a column, the row or column, the position on the crossing axis of its source (the relaying row of a column multicast), the stops not yet
known to have accepted it, RELAY, TAG, resends so far, the cycle of its last sending, what it carries, for a column multicast the row multicast that it relays, and for a row multicast the columns whose
response has not come and whether it is itself finished. -/
structure Mcast where
  die    : Nat
  column : Bool
  index  : Nat
  home   : Nat
  mask   : Nat
  relay  : Nat
  tag    : Nat
  sends  : Nat
  born   : Nat
  load   : CastLoad
  parent : Option Nat
  cols   : List Nat
  done   : Bool
deriving DecidableEq, Repr

/-- A flit on a ring: the flit, the position of the stop that holds it, and whether its body is marked (R235). -/
structure RingFlit where
  fl     : Flit
  pos    : Nat
  marked : Bool
deriving DecidableEq, Repr

/-- A flit in a stop's entry queue for a ring (R239): position, its source at the stop, the flit, and whether its body is marked. -/
structure QueuedFlit where
  pos    : Nat
  source : Nat
  fl     : Flit
  marked : Bool
deriving DecidableEq, Repr

/-- A packet that a destination has refused (R240): position, packet, its rank age and its flits. -/
structure RefusedPacket where
  pos   : Nat
  key   : Nat
  age   : BitVec 32
  flits : Nat
deriving DecidableEq, Repr

/-- A ring (R239 to R242): its flits, the entry queues of its stops, the next SEQ of the packets whose flits are entering (R236), the flits that each source has entered in the present Tick and the time
of its last entry, the beacon's value, the packets for which a destination has reserved room, one entry for each flit still to come, and the packets refused. -/
structure Ring where
  flits    : List RingFlit
  queue    : List QueuedFlit
  next     : SMap Nat
  counts   : SMap Nat
  last     : SMap Nat
  beacon   : Option (BitVec 32)
  reserved : List Nat
  refused  : List RefusedPacket
deriving DecidableEq, Repr

/-- An empty ring. -/
def Ring.fresh : Ring := { flits := [], queue := [], next := [], counts := [], last := [], beacon := none, reserved := [], refused := [] }

/-! ### Memory controllers -/

/-- A request that waits for a row under soft repair (R268): device, offset, the write's byte mask and line, or a read with its reader, and its AGE. -/
structure MemReq where
  dev   : Nat
  off   : Nat
  write : Option (BitVec 64 × Line)
  who   : Reader
  age   : BitVec 32
deriving DecidableEq, Repr

/-- The memory controllers beyond their registers (R267 to R269): correctable reads counted per device row with the scrub pass of the last one counted, rows under soft repair
with their start times, spare rows used per bank, requests held for a row in age order, rows recorded for hard repair, the bank refreshed last, write-backs of corrected words that
are scheduled (word, cycle of the read, value; R150, R267), and the uncorrectable words met in the present cycle by a scrubber or by the read half of a partial write (cycle, word, whether a scrubber;
Tables 5.4 and 10.6). -/
structure MemCtl where
  rowCe   : SMap (Nat × Nat)
  repairs : List (Nat × Nat × Nat)
  used    : SMap Nat
  held    : List MemReq
  hppr    : List (Nat × Nat)
  refresh : SMap Nat
  wback   : List (Nat × Nat × Word)
  met     : List (Nat × Nat × Bool)
deriving DecidableEq, Repr

/-! ### Links -/

/-- What a port counts in a Tick for its congestion map (Table 12.8): payload bytes sent and received, the longest wait in ns, the largest queue in bytes, link replays,
resends and stale drops. -/
structure PortTick where
  tx      : Nat
  rx      : Nat
  wait    : Nat
  queue   : Nat
  replays : Nat
  resends : Nat
  stale   : Nat
deriving DecidableEq, Repr

/-- Nothing counted. -/
def PortTick.zero : PortTick := { tx := 0, rx := 0, wait := 0, queue := 0, replays := 0, resends := 0, stale := 0 }

/-- A numbered block in the replay buffer (R280): the link control message that it carries (kind and value), or the payload and the packets of which it carries flits. -/
structure Cargo where
  ctl     : Option (Nat × Nat)
  bytes   : List Byte
  packets : List Packet
deriving DecidableEq, Repr

/-- A fabric port beyond its registers (R279 to R289): lanes detected, adapted and passed (masks), LANE_DISABLE as it applies, the time of entry to its state, the time from which
the next background round counts and whether one runs (at x4 or HELD), a width proposal (boundary, acknowledged), the next SEQ to send and the SEQ expected, the replay buffer (SEQ, block, time of
sending), packets that wait for room in it with the number of their flits that have left, link control messages that wait, received flits of a packet that is not whole, a NAK pending, ACK
and NAK of the last header sent, the time at which the ACK last advanced, the LANE_MAP before a PAUSE, the width last in force, the sampling shift registers of the two directions (none
before their first step from the seed; R318), and what it has counted in the present Tick. -/
structure Link where
  det      : Nat
  eq       : Nat
  passed   : Nat
  disable  : Nat
  since    : Nat
  count    : Nat
  round    : Option Bool
  proposal : Option (Nat × Bool)
  txSeq    : Nat
  rxSeq    : Nat
  held     : List (Nat × Cargo × Nat)
  txq      : List (Packet × Nat)
  ctl      : List (Nat × Nat)
  rxq      : List (List Byte)
  nak      : Bool
  told     : Nat × Bool
  ackAt    : Nat
  oldMap   : Nat
  oldWidth : Nat
  lfsrTx   : Option (BitVec 32)
  lfsrRx   : Option (BitVec 32)
  tick     : PortTick
deriving DecidableEq, Repr

/-- A port that has not trained. -/
def Link.fresh : Link :=
  { det := 0, eq := 0, passed := 0, disable := 0, since := 0, count := 0, round := none, proposal := none, txSeq := 0, rxSeq := 0,
    held := [], txq := [], ctl := [], rxq := [], nak := false, told := (1023, false), ackAt := 0, oldMap := 0, oldWidth := 0, lfsrTx := none, lfsrRx := none, tick := PortTick.zero }

/-! ### Transport -/

/-- What an outstanding fabric operation serves: a haul request of a core, data that an engine waits for, a DMA descriptor of a ring, a contrail append of a
stream, a frame move of the Seam Engine, the entry that a ring QUERY writes, a packet of a collective instance (partition, descriptor, SEQ, rank of the member), or a rejoin's weight read (partition, destination). -/
inductive Purpose where
  | haul (core req : Nat)
  | engine
  | dma (ring ix : Nat)
  | contrail (p sid id : Nat)
  | frame (p sid leaf : Nat)
  | query (p sid : Nat)
  | coll (p desc seq rank : Nat)
  | weights (p dst : Nat)
deriving DecidableEq, Repr

/-- An outstanding operation (R303 to R305): OP_ID, partition, target ID and local address, direction, lines, data, requester unit and tile, purpose, sends so far,
planes used, the time of the last send, whether the passage still holds it behind an earlier operation to its lines (R307), and words 5 and 6 of its header. -/
structure RemOp where
  id     : Nat
  part   : Nat
  dst    : Nat
  la     : Nat
  write  : Bool
  lines  : Nat
  data   : List Byte
  unit   : Nat
  tile   : Nat
  why    : Purpose
  sends  : Nat
  planes : List Nat
  sentAt : Nat
  held   : Bool
  w5     : Word
  bound  : Word
deriving DecidableEq, Repr

/-- An entry of the duplicate table (R305): source, epoch, OP_ID, time of receipt, and the stored completion with the port it left on. -/
structure DupEntry where
  src   : Nat
  epoch : Nat
  op    : Nat
  time  : Nat
  reply : Option Packet
  die   : Nat
deriving DecidableEq, Repr

/-- An entry of the herald table (R309): ID, epoch, kind (1 RESET, 2 RETURN), time. -/
structure HeraldEntry where
  id    : Nat
  epoch : Nat
  kind  : Nat
  time  : Nat
deriving DecidableEq, Repr

/-- A collective descriptor in force (R311, R312): the trigger gate's value when the last instance fired or the table was enabled, the next SEQ, and whether
the check at enabling failed. -/
structure CollDesc where
  base : Nat
  next : Nat
  bad  : Bool
deriving DecidableEq, Repr

/-- A collective instance (R312 to R315): partition, descriptor number, SEQ, descriptor words, the TICK_NOW and opening boundary of its firing, the lines combined in
STAGE and the lines of reduced shards received (rank and element offset of each), whether its part of DST is written, and the RESULT that dooms it before it fires. -/
structure CollInst where
  part  : Nat
  desc  : Nat
  seq   : Nat
  words : List Word
  fired : Option (Nat × Nat)
  got   : List (Nat × Nat)
  red   : List (Nat × Nat)
  wrote : Bool
  doom  : Nat
deriving DecidableEq, Repr

/-- The transport beyond its registers: outstanding operations, the next OP_ID, turns taken by each partition's ports (R299), exclusions in force as ID, plane and
expiry (R300), duplicate and herald tables, and the bytes that read responses have brought for engines, keyed by device ID and local address, with
the engine reads that failed (ID, address, status), collective descriptors and instances, packets to a device ID of this module (R296) not yet judged, partitions
that owe a RETURN herald since a device reset (R374), the IDs to which a partition has sent RESET heralds (R308), and sample records for a peer's memory (time, address, bytes; R318). -/
structure Xport where
  ops     : List RemOp
  nextOp  : Nat
  turns   : SMap Nat
  excl    : List (Nat × Nat × Nat)
  dups    : List DupEntry
  heralds : List HeraldEntry
  arrived : SMap Byte
  failed  : List (Nat × Nat × Nat)
  collDesc : SMap CollDesc
  colls   : List CollInst
  inbox   : List Packet
  owed    : List Nat
  told    : SMap (List Nat)
  samples : List (Nat × Word × List Byte)
deriving DecidableEq, Repr

/-- A port's latest beacon exchange (R316): the time of a request without its answer, and offset, path delay and time of the latest exchange. -/
structure Beacon where
  sent  : Option Nat
  off   : Int
  delay : Int
  at_   : Option Nat
deriving DecidableEq, Repr

/-- The discipline of the time base (R316, R434): the ports' exchanges, the time of the latest update, the time at which a port last qualified, the correction in ns
that the latest update applied, and the time of entry to the present holdover state. -/
structure Sync where
  beacons : SMap Beacon
  last    : Nat
  good    : Nat
  corr    : Int
  hold    : Nat
deriving DecidableEq, Repr

/-! ### Host interface -/

/-- What a function's configuration space holds beside NumVFs, BAR2's size and the power state (Table 13.1): Max Payload Size and Max Read Request Size (log2 of 128-byte units), the
completion timeout value, MSI-X Enable and its function mask, bus mastering, and the AER uncorrectable error status. -/
structure FuncCfg where
  mps    : Nat
  mrrs   : Nat
  cto    : BitVec 4
  msix   : Bool
  mask   : Bool
  master : Bool
  aer    : BitVec 32
deriving DecidableEq, Repr

/-- Configuration space at its reset values (R322). PRESUMED: the sizes and the timeout are those of PCI Express. DESIGN CHOICE: the spec names no step that enables messages or
bus mastering, so both are on (log entry 83). -/
def FuncCfg.reset : FuncCfg := { mps := 0, mrrs := 2, cto := 0, msix := true, mask := false, master := true, aer := 0 }

/-- A DMA descriptor in progress (R331, R332): its index, its words, whether its data has been moved or is with the transport, and the status and offset of its first failure. -/
structure DmaDesc where
  ix    : Nat
  words : List Word
  sent  : Bool
  st    : Nat
  errAt : Nat
deriving DecidableEq, Repr

/-! ### Result integrity -/

/-- A shadow run (R347 to R352): the graph that holds its task once it has been made, its request block once it has been read, and the result that ends it early with the tiles and cycle of a difference. -/
structure ShadowRun where
  gseq  : Option Nat
  block : List Word
  ended : Option (Nat × Nat × Nat × Nat)
deriving DecidableEq, Repr

/-- A die's patrol (R353 to R357): the start S of the pass in ns, the time at which the tile at POSITION fell due, nominated tiles with the time of their nomination, whether
the last claim was of a nominated tile, the tile under test with the boundary of its claim, and tested tiles with the time from which they return. -/
structure Patrol where
  start   : Int
  due     : Option Nat
  noms    : List (Nat × Nat)
  lastNom : Bool
  test    : Option (Nat × Nat)
  back    : List (Nat × Nat)
deriving DecidableEq, Repr

/-- A patrol at position 0 of a pass that starts at time 0. -/
def Patrol.fresh : Patrol := { start := 0, due := none, noms := [], lastNom := false, test := none, back := [] }

/-! ### Containment, bring-up, power and management -/

/-- A boot in progress (R408, R409, R374): cold or warm, controlled, the cause of Table 15.2, the time of its start, the phase of Table 17.1 or step of Table 17.2 that runs, and
whether the boot has been found degraded, and AUTO_PC at its start. -/
structure Boot where
  cold       : Bool
  controlled : Bool
  cause      : Nat
  start      : Nat
  next       : Nat
  degraded   : Bool
  autoPc     : Bool
deriving DecidableEq, Repr

/-- A rejoin in progress (R381 to R383): the plan's words once they have been read, whether self-test comes first, weight entries and pieces (device ID, address, destination, bytes) not yet read, the number
of entries, whether a piece failed, stream IDs once read, and streams restored whose mirrors are to be trimmed. -/
structure Rejoin where
  plan    : Option (List Word)
  test    : Bool
  entries : Option (List (List Word))
  todo    : List (Nat × Nat × Nat × Nat)
  bad     : Bool
  streams : Option (List Nat)
  trim    : List Nat
deriving DecidableEq, Repr

/-- A power request to the tray (R456): off or cycle, whether the module is in reset for it, the time of the request, and pulses given. -/
structure PowerReq where
  off    : Bool
  reset  : Bool
  at_    : Nat
  pulses : Nat
deriving DecidableEq, Repr

/-- The reference monitor (R427, R429): consecutive failing and passing windows of the host and of the fabric reference, and the time from which admission resumes after
the fabric reference's return. -/
structure Refs where
  hostBad  : Nat
  fabBad   : Nat
  hostGood : Nat
  fabGood  : Nat
  resume   : Option Nat
deriving DecidableEq, Repr

/-- A slot of the persistent store (R421): its sequence number, whether it is valid, and its body. -/
structure StoreSlot where
  seq  : Nat
  ok   : Bool
  body : List Byte
deriving DecidableEq, Repr

/-- What the Overman, the module controller and the persistent store hold beyond registers: whether the rails are up; a boot in progress; rejoins; whether the standby is to take over by SWITCH; the time of
the last heartbeat; a power request; the reference monitor; latest sensor readings by PLDM sensor number; self-test results in force by section, as boot epoch and failure entries (R382, R417);
record types whose write is pending; the slot of a transfer in progress with its bytes; the slots of each bank in order of writing (key type × 2 + bank; R420); fuse entries programmed, as die
and entry; repair-map entries of spares and unrepaired rows (KINDs 3 to 5 and 8); dies whose self-test has ended; ports held in DISABLED by self-test; the I3C dynamic address; rails that have missed their time;
records for the persistent ERROR_LOG. -/
structure Overman where
  powered  : Bool
  boot     : Option Boot
  rejoins  : SMap Rejoin
  switching : Bool
  beat     : Nat
  power    : Option PowerReq
  refs     : Refs
  sensors  : SMap Nat
  tested   : SMap (Nat × List FailEntry)
  pend     : List Nat
  xfer     : Option (Option (List Byte))
  store    : SMap (List StoreSlot)
  fuses    : List (Nat × FailEntry)
  spares   : List Word
  dies     : SMap (List FailEntry)
  dead     : List Nat
  dynAddr  : Option Nat
  railMiss : Nat
  errLog   : List Rec
deriving DecidableEq, Repr

/-! ### Security -/

/-- A session beyond its SEC_SLOT register (R401 to R405): the next send counter, the highest counter received plus 1 and the counters of the window that have been received, the
peer's SESSION_ID, the time at which it became ACTIVE, the last imported counter plus 1, the ephemeral private key and local hello of an OPENED slot, and the keys and salts of the two directions. -/
structure Session where
  tx       : Nat
  rx       : Nat
  seen     : List Nat
  peer     : Nat
  since    : Nat
  imported : Nat
  eph      : List Byte
  hello    : List Byte
  keyTx    : List Byte
  keyRx    : List Byte
  saltTx   : List Byte
  saltRx   : List Byte
deriving DecidableEq, Repr

/-- A slot that holds no session. -/
def Session.fresh : Session :=
  { tx := 0, rx := 0, seen := [], peer := 0, since := 0, imported := 0, eph := [], hello := [], keyTx := [], keyRx := [], saltTx := [], saltRx := [] }

/-- A copy of a firmware image in flash (R392, R395): its SVN, the digest of its body, whether Table 16.3 accepts its signatures, and the bytes and length of the body. -/
structure Image where
  svn    : Nat
  digest : List Byte
  ok     : Bool
  size   : Nat
  body   : List Byte
deriving DecidableEq, Repr

/-- The key engine beyond its registers: sessions (keys partition × 64 + slot), PAK seeds with the epoch at creation and memory keys of the partitions, the partition and buffer of an attestation in progress, the type, length and address of a staging
in progress, handshakes in progress (their SEC_SESS_CTL words and buffers), sealed transfers in progress (their SEC_SEAL_CTL words and their two addresses), the image copies in flash (key type × 2 + copy), the copy (0 A, 1 B) of each image type in use, types whose staged image
awaits its switch or reload, types with a COMMIT in progress, the owner key (none enrolled when empty), the DIK certificate where one was provisioned, the number of DRBG draws, and the measurement registers M1 to M5 (keys 0 to 4) (R390, R395). -/
structure KeyEngine where
  sess    : SMap Session
  paks    : SMap (List Byte × Nat)
  memKeys : SMap (List Byte)
  attest  : Option (Nat × Word)
  staging : Option (Nat × Nat × Word)
  shakes  : SMap (Word × Word)
  seals   : SMap (Word × Word × Word)
  images  : SMap Image
  copies  : SMap Nat
  staged  : List Nat
  owner   : List Byte
  cert    : List Byte
  draws   : Nat
  meas    : SMap (List Byte)
deriving DecidableEq, Repr

/-! ### The machine -/

/-- The state of the module. `pending` is the queue of commands; `regs` and `mem` are registers and memory that differ from reset; `flips` the wrong stored bits of words (data
bits 63..0, check bits 79..64); `apply` the section apply in progress (waiting, or with the map that passed); `recs` error records not yet given to a log; `outs` what the module has sent;
`vecs` interrupt moderation; `free` the free values drawn so far; `haulCtl` the QUOTA and AGE_SLACK in force (R252); `fenced` the engines fenced for an engine reset, as kind and number of
Table 15.3, with the cause; `mapPend` retirements (die, column) not yet in the persistent store (R169); `dmas` descriptors in progress by ring; `bar2` the BAR2 sizes of functions
(log2) that differ from 64 GiB and `d3hot` the functions in D3hot and `cfgs` the rest of their configuration space (R321, R325); `sync` the discipline of the time base; `ke` the key engine; `om` the Overman and module controller. -/
structure State where
  pending : List Instr
  regs    : SMap Word
  mem     : List Host.Cell
  flips   : SMap (BitVec 80)
  clk     : Clock
  tge     : Tge
  tasks   : SMap Task
  cores   : SMap Core
  ariths  : SMap Arith
  tiles   : SMap Tile
  dies    : List DiePlace
  apply   : Option (Option Word)
  parts   : SMap Part
  recs    : List Rec
  logs    : SMap Log
  outs    : List Out
  vecs    : SMap (Nat × Nat)
  numVfs  : Nat
  free    : Nat
  seam    : Seam
  haulCtl : Nat × Nat
  flights : List Flight
  outFlits : List OutcomeFlit
  mcasts  : SMap Mcast
  nextMc  : Nat
  rings   : SMap Ring
  memc    : MemCtl
  links   : SMap Link
  xp      : Xport

  sync    : Sync
  dmas    : SMap (List DmaDesc)
  bar2    : SMap Nat
  d3hot   : List Nat
  cfgs    : SMap FuncCfg
  shadows : SMap ShadowRun
  patrols : SMap Patrol
  fenced  : List (Nat × Nat × Nat)
  mapPend : List (Nat × Nat)
  om      : Overman
  ke      : KeyEngine
deriving DecidableEq, Repr

/-- The clock after a device reset: Meridian time 0, which is a boundary (R29). -/
def Clock.reset : Clock :=
  { cyc := 0, merBase := 0, cycBase := 0, tickMer := 0, tickCyc := 0, origin := 0, switch := none, settled := 0 }

/-- The TGE after a device reset: nothing in flight, every slot epoch 0, admission off (R47, R53). -/
def Tge.reset : Tge :=
  { graphs := [], slots := [], nextSeq := 0, dbells := [], budget := none, caps := [], admitOn := false, halted := false,
    placer := [], noFit := [], debt := 0, tight := [] }

/-- A die with no retired column: logical column l on physical column l (R15, R158). -/
def DiePlace.reset : DiePlace := { map := List.range 16, breaks := [], repl := none, held := [] }

/-- Seam Engines with nothing submitted. -/
def Seam.reset : Seam :=
  { queue := [], ledgers := [], tlbs := [], moves := [], promo := [], trails := [], nextId := 1, jobs := [], mirror := [], blocks := [],
    remUsed := [], scanAt := [], scanned := [], moved := [], headers := [], checks := [], ended := [], epochs := [], audits := [],
    heats := [], orphans := [], qfail := [], late := [] }
/-- The memory controllers with nothing in progress. -/
def MemCtl.reset : MemCtl := { rowCe := [], repairs := [], used := [], held := [], hppr := [], refresh := [], wback := [], met := [] }
/-- A transport with nothing outstanding. -/
def Xport.reset : Xport :=
  { ops := [], nextOp := 0, turns := [], excl := [], dups := [], heralds := [], arrived := [], failed := [],
    collDesc := [], colls := [], inbox := [], owed := [], told := [], samples := [] }
/-- A time base that no beacon has disciplined. -/
def Sync.reset : Sync := { beacons := [], last := 0, good := 0, corr := 0, hold := 0 }
/-- A slot as the factory wrote it. -/
def StoreSlot.first : StoreSlot := { seq := 0, ok := true, body := [] }

/-- Nothing in progress, powered, with one valid slot of each record type in bank A (DESIGN CHOICE). -/
def Overman.reset : Overman :=
  { powered := true, boot := none, rejoins := [], switching := false, beat := 0, power := none,
    refs := { hostBad := 0, fabBad := 0, hostGood := 0, fabGood := 0, resume := none }, sensors := [], tested := [], pend := [], xfer := none,
    store := (List.range 8).map fun t => (2 * t + 2, [StoreSlot.first]),
    fuses := [], spares := [], dies := [], dead := [], dynAddr := none, railMiss := 0, errLog := [] }
/-- A key engine that holds no key but those fused. -/
def KeyEngine.reset : KeyEngine :=
  { sess := [], paks := [], memKeys := [], attest := none, staging := none, shakes := [], seals := [], images := [], copies := [],
    staged := [], owner := [], cert := [], draws := 0, meas := [] }

/-- The module right after reset: every register at its reset value (a register not listed in `regs` holds it), nothing in memory, and nothing in
progress or waiting. -/
def State.reset : State :=
  { pending := [], regs := [], mem := [], flips := [], clk := Clock.reset, tge := Tge.reset, tasks := [], cores := [],
    ariths := [], tiles := [], dies := List.replicate 4 DiePlace.reset, apply := none, parts := [], recs := [], logs := [],
    outs := [], vecs := [], numVfs := 0, free := 0,
    seam := Seam.reset,
    haulCtl := (0, 200), flights := [], outFlits := [], mcasts := [], nextMc := 0, rings := [],
    memc := MemCtl.reset,
    links := [],
    xp := Xport.reset,
    sync := Sync.reset,
    dmas := [], bar2 := [], d3hot := [], cfgs := [],
    shadows := [], patrols := [],
    fenced := [], mapPend := [], om := Overman.reset,
    ke := KeyEngine.reset }

end Sys2Proof.Machine
end

