-- ==== Sys2Proof/Machine/Ops.lean ====
section
/-! DEFINITION. The named operations over the state: registers and their fields, the clock, bytes of memory, error
records, interrupts, gates' values and free values. -/

namespace Sys2Proof.Machine

/-- What a command answers. -/
abbrev Ans := Host.Outcome State Fault Refusal

/-- Change the transport. -/
def updXp (s : State) (f : Xport → Xport) : State := { s with xp := f s.xp }

/-- Change the TGE. -/
def updTge (s : State) (f : Tge → Tge) : State := { s with tge := f s.tge }

/-! ### Registers -/

/-- The key of a register in the register file: its BAR0 offset, with the function number above it for the registers that each function has
its own copy of (R338). -/
def regKey (r : RegName) (i j fn : Nat) : Nat := fn * 2 ^ 32 + r.off i j

/-- The stored word of a register. -/
def rd (s : State) (r : RegName) (i : Nat := 0) (j : Nat := 0) (fn : Nat := 0) : Word :=
  SMap.get r.reset s.regs (regKey r i j fn)

/-- The state with a register's stored word replaced. -/
def wr (s : State) (r : RegName) (v : Word) (i : Nat := 0) (j : Nat := 0) (fn : Nat := 0) : State :=
  { s with regs := SMap.set s.regs (regKey r i j fn) v }

/-- A field of a register. -/
def fg (s : State) (f : Fld) (i : Nat := 0) (j : Nat := 0) (fn : Nat := 0) : Nat := getBits (rd s f.reg i j fn) f.hi f.lo

/-- The state with a field of a register replaced. -/
def fs (s : State) (f : Fld) (x : Nat) (i : Nat := 0) (j : Nat := 0) (fn : Nat := 0) : State :=
  wr s f.reg (setBits (rd s f.reg i j fn) f.hi f.lo x) i j fn

/-- A one-bit field as a Bool. -/
def fb (s : State) (f : Fld) (i : Nat := 0) (j : Nat := 0) (fn : Nat := 0) : Bool := decide (fg s f i j fn = 1)

/-- Add to a counter field, which stays at its largest value (R338, R388 and the other register rules). -/
def finc (s : State) (f : Fld) (n : Nat := 1) (i : Nat := 0) (j : Nat := 0) (fn : Nat := 0) : State :=
  fs s f (satAdd (f.hi + 1 - f.lo) (fg s f i j fn) n) i j fn

/-- Add to a field modulo its size. -/
def fwrap (s : State) (f : Fld) (n : Nat := 1) (i : Nat := 0) (j : Nat := 0) (fn : Nat := 0) : State :=
  fs s f ((fg s f i j fn + n) % 2 ^ (f.hi + 1 - f.lo)) i j fn

/-- A field of a word that is being written. -/
def fieldOf (f : Fld) (v : Word) : Nat := getBits v f.hi f.lo

/-- A family back at its reset value for the given indices. -/
def clr (s : State) (r : RegName) (i : Nat := 0) (j : Nat := 0) (fn : Nat := 0) : State :=
  { s with regs := SMap.erase s.regs (regKey r i j fn) }

/-- Whether the RWL fields of a register are locked (R9, Table 0.9). -/
def locked (s : State) (r : RegName) (i : Nat) : Bool := bitOf (rd s r.lockReg (if r.lockReg = r then i else 0)) 63

/-- The word that a write leaves in a register under the access codes of Table 0.9, `m` being the mask of bits that the access addresses: RW takes the
written bits, RWL takes them while LOCK is 0, W1C clears and W1S sets where 1 is written, every other bit keeps its value. -/
def mergeWrite (r : RegName) (lock : Bool) (old v m : Word) : Word :=
  let rwm := (r.maskOf .rw ||| (if lock then 0 else r.maskOf .rwl)) &&& m
  let c := r.maskOf .w1c &&& m
  let t := r.maskOf .w1s &&& m
  (old &&& ~~~ rwm ||| v &&& rwm) &&& ~~~ (v &&& c) ||| (v &&& t)

/-- Write a register under its access codes. -/
def writeReg (s : State) (r : RegName) (v m : Word) (i : Nat := 0) (j : Nat := 0) (fn : Nat := 0) : State :=
  wr s r (mergeWrite r (locked s r i) (rd s r i j fn) v m) i j fn

/-! ### Functions and partitions -/

/-- The partition of section `sec` in force (R17), 15 when unassigned. -/
def sectionPart (s : State) (sec : Nat) : Nat := getBits (rd s .glbSectionActive) (4 * sec + 3) (4 * sec)

/-- The sections of partition p, in increasing number. -/
def sectionsOf (s : State) (p : Nat) : List Nat := (List.range 8).filter fun k => sectionPart s k == p

/-- Whether a partition exists: it holds a section (R20). -/
def partExists (s : State) (p : Nat) : Bool := !(sectionsOf s p).isEmpty

/-- The partition record of p. -/
def part (s : State) (p : Nat) : Part := SMap.get Part.fresh s.parts p

/-- Replace the record of partition p. -/
def setPart (s : State) (p : Nat) (x : Part) : State := { s with parts := SMap.set s.parts p x }

/-- Whether partition p is fenced (R367). -/
def partFenced (s : State) (p : Nat) : Bool := (part s p).fenced

/-- The partition that a virtual function is bound to (R323), if it exists. -/
def vfPart (s : State) (i : Nat) : Option Nat :=
  if 1 ≤ i ∧ i ≤ s.numVfs ∧ partExists s (i - 1) = true then some (i - 1) else none

/-- Whether the module is in device reset, a boot or a power cycle (Table 15.4, R408): a host function's writes are ignored (DEDUCED). -/
def inDeviceReset (s : State) : Bool := fb s F.GUARD_RESET_STATUS_BUSY && decide (4 ≤ fg s F.GUARD_RESET_STATUS_LEVEL)

/-- Whether the module is awake: not Dormant, entering Dormant or waking (R441). -/
def awake (s : State) : Bool := decide (fg s F.CLK_DORMANT_STATUS_STATE = 0)

/-- Whether a function may act on what belongs to partition p: the PF and the Overman on every partition, a virtual function on its own. -/
def mayAct (s : State) (f : Func) (p : Nat) : Bool :=
  match f with
  | .pf => !s.d3hot.contains 0 && !inDeviceReset s
  | .overman => true
  | .vf i => vfPart s i == some p && !s.d3hot.contains i && !inDeviceReset s

/-- Whether a function is the PF or the Overman (R32, R173 and the other rules that exclude virtual functions); a function in D3hot answers configuration requests
only (Table 13.1). -/
def isPriv (s : State) : Func → Bool
  | .pf => !s.d3hot.contains 0 && !inDeviceReset s
  | .overman => true
  | .vf _ => false

/-- The function number of a function's own registers: 0 the PF, i virtual function i. -/
def fnOf : Func → Nat
  | .pf => 0
  | .overman => 0
  | .vf i => i

/-- The owning function of partition p (R323): its virtual function when it has one, else the PF. -/
def ownerFn (s : State) (p : Nat) : Nat := if vfPart s (p + 1) = some p then p + 1 else 0

/-- The partition epoch of p (R295). -/
def partEpoch (s : State) (p : Nat) : Nat := fg s F.PORT_DEVID_EPOCH p

/-- The device ID of p, if it has one (R294). -/
def devId (s : State) (p : Nat) : Option Nat :=
  if fb s F.PORT_DEVID_VALID p then some (fg s F.PORT_DEVID_ID p) else none

/-- Whether partition p is confidential or on its way there (R398): STATE is not NONE. -/
def confidential (s : State) (p : Nat) : Bool := decide (fg s F.SEC_PART_CTL_STATE p ≠ 0)

/-! ### Time (R29, R30, Table 18.3) -/

/-- The Meridian time in ns: 10 ns are 17 core cycles. -/
def mer (s : State) : Nat := s.clk.merBase + (s.clk.cyc - s.clk.cycBase) * 10 / 17

/-- Move time on to core cycle c; time never goes back. -/
def advanceTo (s : State) (c : Nat) : State := { s with clk := { s.clk with cyc := max s.clk.cyc c } }

/-- With no command waiting, one core cycle passes (DESIGN CHOICE). -/
def idleStep (s : State) : State := advanceTo s (s.clk.cyc + 1)

/-- The first core cycle at or after Meridian time t. -/
def cycleAt (s : State) (t : Nat) : Nat := s.clk.cycBase + ceilDiv ((t - s.clk.merBase) * 17) 10

/-- Move time on to Meridian time t. -/
def advanceToNs (s : State) (t : Nat) : State := advanceTo s (cycleAt s t)

/-- Set the Meridian time to t without moving the core-cycle count. -/
def setMer (s : State) (t : Nat) : State := { s with clk := { s.clk with merBase := t, cycBase := s.clk.cyc } }

/-- Tick period in force, in µs. -/
def period (s : State) : Nat := fg s F.TGE_TICK_CTL_PERIOD

/-- Core cycles since the Tick's opening boundary. -/
def tickCycle (s : State) : Nat := s.clk.cyc - s.clk.tickCyc

/-- The Meridian time of the boundary that closes the present Tick. -/
def closing (s : State) : Nat := s.clk.tickMer + period s * 1000

/-- Whether a Meridian time is a boundary of the schedule in force (R29). -/
def isBoundary (s : State) (t : Nat) : Bool := decide (((t : Int) - s.clk.origin) % ((period s * 1000 : Nat) : Int) = 0)

/-! ### Bytes of memory -/

/-- The byte at a key; a key that is not listed reads as 0. -/
def memByte : List Host.Cell → Nat → Byte
  | [], _ => 0
  | (k, v) :: m, a => if a = k then v else if a < k then 0 else memByte m a

/-- Memory with one byte replaced, in its canonical form: keys rise strictly and no listed byte is 0. -/
def memSet : List Host.Cell → Nat → Byte → List Host.Cell
  | [], a, b => if b = 0 then [] else [(a, b)]
  | (k, v) :: m, a, b =>
    if a < k then (if b = 0 then (k, v) :: m else (a, b) :: (k, v) :: m)
    else if a = k then (if b = 0 then m else (a, b) :: m)
    else (k, v) :: memSet m a b

/-- The canonical form: keys rise strictly and no listed byte is 0. -/
def Memory.wf : List Host.Cell → Bool
  | [] => true
  | [(_, v)] => decide (v ≠ 0)
  | (k, v) :: (k', v') :: m => decide (v ≠ 0) && decide (k < k') && Memory.wf ((k', v') :: m)

/-- n bytes from key a. -/
def memBytes (m : List Host.Cell) (a : Nat) : Nat → List Byte
  | 0 => []
  | n + 1 => memByte m a :: memBytes m (a + 1) n

/-- Memory with bytes written from key a. -/
def memPut (m : List Host.Cell) (a : Nat) : List Byte → List Host.Cell
  | [] => m
  | b :: bs => memPut (memSet m a b) (a + 1) bs

/-- Memory with the bytes of keys lo to lo+n-1 all zero. -/
def memZero (m : List Host.Cell) (lo n : Nat) : List Host.Cell := m.filter fun (k, _) => !(decide (lo ≤ k) && decide (k < lo + n))

/-- The scheduled write-backs that stay after a write of n bytes from key a in cycle c: not those of the words written, nor, in the cycle of their read, those of the
lines written (Tables 5.4 and 10.6). -/
def backAfter (c a n : Nat) (l : List (Nat × Nat × Word)) : List (Nat × Nat × Word) :=
  l.filter fun (w, t, _) =>
    !((decide (8 * w < a + n) && decide (a < 8 * w + 8)) ||
      (decide (c ≤ t) && decide (w / 8 * 64 < a + n) && decide (a < w / 8 * 64 + 64)))

/-- The state with bytes written to memory at a key; whole words written afresh lose their wrong stored bits (R266), and write-backs are cancelled. -/
def putBytes (s : State) (a : Nat) (bs : List Byte) : State :=
  { s with mem := memPut s.mem a bs,
           flips := if s.flips.isEmpty then [] else
             s.flips.filter fun (k, _) => !(decide (a ≤ 8 * k) && decide (8 * k + 8 ≤ a + bs.length)),
           memc := if s.flips.isEmpty then s.memc else { s.memc with wback := backAfter s.clk.cyc a bs.length s.memc.wback } }

/-- The state with n bytes of memory from a key zeroed, with valid check bits. -/
def zeroBytes (s : State) (a n : Nat) : State :=
  { s with mem := memZero s.mem a n,
           flips := s.flips.filter fun (k, _) => !(decide (a ≤ 8 * k) && decide (8 * k + 8 ≤ a + n)),
           memc := if s.flips.isEmpty then s.memc else { s.memc with wback := backAfter s.clk.cyc a n s.memc.wback } }

/-- The bytes of memory at a key. -/
def getBytes (s : State) (a n : Nat) : List Byte := memBytes s.mem a n

/-- The little-endian 64-bit words of a byte list. -/
def wordsOf : Nat → List Byte → List Word
  | 0, _ => []
  | n + 1, bs => BitVec.ofNat 64 (ofBytes (bs.take 8)) :: wordsOf n (bs.drop 8)

/-- The bytes of 64-bit words, little endian. -/
def bytesOfWords (ws : List Word) : List Byte := ws.flatMap fun w => bytesOf 8 w.toNat

/-! ### Address keys of the module's memories -/

/-- The key of offset o of Tier 1 stack k. -/
def keyT1 (k o : Nat) : Nat := k * 2 ^ 40 + o

/-- The key of offset o of Tier 2 position k. -/
def keyT2 (k o : Nat) : Nat := 2 ^ 45 + k * 2 ^ 40 + o

/-- The key of absolute offset a of physical tile n's store. -/
def keyTile (n a : Nat) : Nat := 2 ^ 50 + n * 2 ^ 21 + a

/-- The key of host I/O virtual address a. -/
def keyHost (a : Nat) : Nat := 2 ^ 62 + a

/-! ### Interrupts (R335, R336) -/

/-- Vectors in a function's MSI-X table. -/
def tableSize (fn : Nat) : Nat := if fn = 0 then 2048 else 256

/-- The key of a vector's moderation state. -/
def vecKey (fn v : Nat) : Nat := fn * 4096 + v

/-- The configuration space of a function. -/
def cfg (s : State) (fn : Nat) : FuncCfg := SMap.get FuncCfg.reset s.cfgs fn

/-- Change the configuration space of a function. -/
def updCfg (s : State) (fn : Nat) (f : FuncCfg → FuncCfg) : State := { s with cfgs := SMap.set s.cfgs fn (f (cfg s fn)) }

/-- Whether a function may send requests: it is in D0 (Table 13.1) and no Function Level Reset has silenced it (R324). -/
def mayMaster (s : State) (fn : Nat) : Bool := (cfg s fn).master && !s.d3hot.contains fn

/-- Send the message of a vector, or set its pending bit while the vector or its function is masked or the function may send none; the count of unsent events starts again. No
message leaves while the host link is down (R322). -/
def sendMsg (s : State) (fn v : Nat) : State :=
  let s := { s with vecs := SMap.erase s.vecs (vecKey fn v) }
  if fb s F.HOST_MSIX_DATA_MASK v 0 fn || (cfg s fn).mask || !(cfg s fn).msix || !mayMaster s fn then
    wr s .hostMsixPba (setBit (rd s .hostMsixPba (v / 64) 0 fn) (v % 64) true) (v / 64) 0 fn
  else if fb s F.HOST_LINK_STATUS_DL_UP then
    finc { s with outs := s.outs ++ [.msix fn v (rd s .hostMsixAddr v 0 fn) (BitVec.ofNat 64 (fg s F.HOST_MSIX_DATA_DATA v 0 fn))] }
      F.HOST_IRQ_STATUS_SENT 1 0 0 fn
  else s

/-- An event on a vector of a function. -/
def signal (s : State) (fn v : Nat) : State :=
  if tableSize fn ≤ v then finc s F.HOST_IRQ_STATUS_BAD_VECTOR 1 0 0 fn
  else
    let (n, t0) := (SMap.find s.vecs (vecKey fn v)).getD (0, mer s)
    if fg s F.HOST_MSIX_MOD_TIME_US v 0 fn = 0 ∨ max 1 (fg s F.HOST_MSIX_MOD_COUNT v 0 fn) ≤ n + 1 then sendMsg s fn v
    else { s with vecs := SMap.set s.vecs (vecKey fn v) (n + 1, t0) }

/-- A module event on a function through one pair of enable and vector fields of HOST_EVENT_VEC. -/
def signalEvent (s : State) (fn : Nat) (en vec : Fld) : State :=
  if fb s en 0 0 fn then signal s fn (fg s vec 0 0 fn) else s

/-- A capacity change (R171, R335): the PF and each VF whose partition holds a section of the die. -/
def signalCapacity (s : State) (die : Nat) : State :=
  let s := signalEvent s 0 F.HOST_EVENT_VEC_CAP_EN F.HOST_EVENT_VEC_CAP_VEC
  (List.range 8).foldl (fun s p =>
    if vfPart s (p + 1) = some p ∧ (sectionsOf s p).any (fun k => k / 2 == die) = true
    then signalEvent s (p + 1) F.HOST_EVENT_VEC_CAP_EN F.HOST_EVENT_VEC_CAP_VEC else s) s

/-- A link event (R291, R335): the PF only. -/
def signalLink (s : State) : State := signalEvent s 0 F.HOST_EVENT_VEC_LINK_EN F.HOST_EVENT_VEC_LINK_VEC

/-- A partition reset event (R335): the partition's VF and the PF. -/
def signalReset (s : State) (p : Nat) : State :=
  let s := signalEvent s 0 F.HOST_EVENT_VEC_RESET_EN F.HOST_EVENT_VEC_RESET_VEC
  if ownerFn s p ≠ 0 then signalEvent s (ownerFn s p) F.HOST_EVENT_VEC_RESET_EN F.HOST_EVENT_VEC_RESET_VEC else s

/-! ### Free values -/

/-- A free 64-bit value (a value that the spec does not state): an uninterpreted constant at the next index. -/
def drawFree (s : State) : Word × State := (Config.freeWord s.free, { s with free := s.free + 1 })

/-! ### Tiles, tasks and cores -/

/-- The tile record of physical tile n. -/
def tile (s : State) (n : Nat) : Tile := SMap.get Tile.fresh s.tiles n

/-- Replace the record of physical tile n. -/
def setTile (s : State) (n : Nat) (t : Tile) : State := { s with tiles := SMap.set s.tiles n t }

/-- Change the record of physical tile n. -/
def updTile (s : State) (n : Nat) (f : Tile → Tile) : State := setTile s n (f (tile s n))

/-- The key of a core: twice its tile, plus 1 for the mover. -/
def coreKey (c : CoreRef) : Nat := 2 * c.tile + c.mover.toNat

/-- The core record. -/
def coreAt (s : State) (c : CoreRef) : Core := SMap.get Core.idle s.cores (coreKey c)

/-- Replace a core record. -/
def setCore (s : State) (c : CoreRef) (x : Core) : State := { s with cores := SMap.set s.cores (coreKey c) x }

/-- Change a core record. -/
def updCore (s : State) (c : CoreRef) (f : Core → Core) : State := setCore s c (f (coreAt s c))

/-- The arithmetic state of a tile. -/
def arith (s : State) (n : Nat) : Arith := SMap.get Arith.fresh s.ariths n

/-- Replace the arithmetic state of a tile. -/
def setArith (s : State) (n : Nat) (a : Arith) : State := { s with ariths := SMap.set s.ariths n a }

/-- The task in a slot. -/
def task? (s : State) (slot : Nat) : Option Task := SMap.find s.tasks slot

/-- Replace the task of a slot. -/
def setTask (s : State) (slot : Nat) (t : Task) : State := { s with tasks := SMap.set s.tasks slot t }

/-- The slot record (R47); a slot never granted has epoch 0. -/
def slotOf (s : State) (k : Nat) : Slot := SMap.get { epoch := 0, holder := none } s.tge.slots k

/-- Die, row and physical column of a physical tile (Table 1.2). -/
def tileDie (n : Nat) : Nat := n / 288

/-- Row of a physical tile. -/
def tileRow (n : Nat) : Nat := n % 288 / 18

/-- Physical column of a physical tile. -/
def tileCol (n : Nat) : Nat := n % 18

/-- The physical tile of die d, row r, physical column c. -/
def tileAt (d r c : Nat) : Nat := d * 288 + r * 18 + c

/-- A die's placement record. -/
def diePlace (s : State) (d : Nat) : DiePlace := nth s.dies d DiePlace.reset

/-- Replace a die's placement record. -/
def setDie (s : State) (d : Nat) (x : DiePlace) : State := { s with dies := s.dies.set d x }

/-- The logical column that a physical column of a die serves, if any (R158). -/
def logicalCol (s : State) (d c : Nat) : Option Nat := (diePlace s d).map.findIdx? (· == c)

/-- The logical tile that a physical tile serves, if any. -/
def logicalOf (s : State) (n : Nat) : Option Nat :=
  (logicalCol s (tileDie n) (tileCol n)).map fun l => tileDie n * 256 + tileRow n * 16 + l

/-- The physical tile that serves a logical tile, if any. -/
def physOf (s : State) (lt : Nat) : Option Nat :=
  ((diePlace s (lt / 256)).map[lt % 16]?).map fun c => tileAt (lt / 256) (lt % 256 / 16) c

/-- The partition of the logical tile that a physical tile serves, if it serves one of an assigned section. -/
def tilePart (s : State) (n : Nat) : Option Nat :=
  match logicalCol s (tileDie n) (tileCol n) with
  | some l =>
    let p := sectionPart s (2 * tileDie n + l / 8)
    if p < 8 then some p else none
  | none => none

/-! ### Error records -/

/-- A record with no context, unit or tile (R363). -/
def blankRec (s : State) (cls cause action : Nat) : Rec :=
  { cls := cls, cause := cause, part := none, epoch := 0, action := action, stream := none, task := none, graph := none, tile := none,
    time := mer s, pc := 0, unit := 0, unitIx := 0, aux := 0, aux2 := 0 }

/-- The section that a unit of Table 15.3 belongs to: a tile by the logical column it serves, a stack or a position by its number (R16, R17). -/
def unitSection (s : State) (kind ix : Nat) : Option Nat :=
  if kind = 1 then (logicalCol s (tileDie ix) (tileCol ix)).map fun l => 2 * tileDie ix + l / 8
  else if kind = 5 then some ix
  else if kind = 6 then some (ix / 2)
  else none

/-- An event enters the record queue, from which ERROR_RECORD_WRITE gives it to the logs (R366). A fenced tile and the classes of R382 end the validity of the
self-test result of the section that they name. -/
def emit (s : State) (r : Rec) : State :=
  let sec := if [4, 6, 9, 0xA].contains r.cls then unitSection s r.unit r.unitIx else none
  let tested := match sec with
    | some k => SMap.erase s.om.tested k
    | none => s.om.tested
  { s with recs := s.recs ++ [r], om := { s.om with tested := tested } }

/-- The record of a partition: PARTITION and its epoch at the event. -/
def Rec.ofPart (r : Rec) (s : State) (p : Nat) : Rec := { r with part := some p, epoch := partEpoch s p }

/-! ### The persistent store and the key engine -/

/-- A write of a record type is queued (R422). -/
def queueStore (s : State) (t : Nat) : State := if s.om.pend.contains t then s else { s with om := { s.om with pend := s.om.pend ++ [t] } }

/-- A new epoch of partition p, which the store is to record (R295, Table 15.6). -/
def bumpPartEpoch (s : State) (p : Nat) : State := queueStore (fwrap s F.PORT_DEVID_EPOCH 1 p) 5

/-- Word k of a descriptor or header. -/
def dw (ws : List Word) (k : Nat) : Word := nth ws k 0

/-- Bits hi..lo of word k. -/
def db (ws : List Word) (k hi lo : Nat) : Nat := getBits (dw ws k) hi lo

/-- Bytes padded with zeros to a length. -/
def padTo (n : Nat) (bs : List Byte) : List Byte := bs ++ List.replicate (n - bs.length) 0

/-- Bytes cut or extended with zeros to a length. -/
def fit (n : Nat) (bs : List Byte) : List Byte := (bs ++ List.replicate n 0).take n

/-- Bytes from the DRBG (R389). -/
def drawBytes (s : State) (n : Nat) : List Byte × State :=
  (fit n (Config.drbg s.ke.draws n), { s with ke := { s.ke with draws := s.ke.draws + 1 } })

/-- A partition that is created takes a PAK (R390). -/
def makePak (s : State) (p : Nat) : State :=
  let (seed, s) := drawBytes s 32
  { s with ke := { s.ke with paks := SMap.set s.ke.paks p (seed, partEpoch s p) } }

/-- A slice of bytes. -/
def slice (bs : List Byte) (lo n : Nat) : List Byte := (bs.drop lo).take n

/-- The least element of a list by a strict order. -/
def leastBy {α : Type} (lt : α → α → Bool) : List α → Option α
  | [] => none
  | x :: xs => some (xs.foldl (fun m y => if lt y m then y else m) x)

end Sys2Proof.Machine
end

