-- ==== Sys2Proof/Machine/HaulNet.lean ====
section
/-! DEFINITION. The geometry of the haulage network (R232, R233, R253), routes (R237), and the side-band of a flit (R234). -/

namespace Sys2Proof.Machine

/-! ### Rings and stops (R232, R253) -/

/-- Whether ring i belongs to a column. -/
def ringColumn (i : Nat) : Bool := decide (32 ≤ i % 68)

/-- The row or physical column of ring i. -/
def ringIndex (i : Nat) : Nat := if ringColumn i then (i % 68 - 32) / 2 else i % 68 / 2

/-- The number of a ring: die, whether it is a column's, row or column, and which of the pair. -/
def ringNo (d : Nat) (column : Bool) (ix k : Nat) : Nat := d * 68 + (if column then 32 else 0) + 2 * ix + k

/-- The stops that a ring visits: 20 of a row, 18 of a column. -/
def ringStops (column : Bool) : Nat := if column then 18 else 20

/-- The position after p in the direction of ring k of a pair of n stops. -/
def nextPos (n k p : Nat) : Nat := if k = 0 then (p + 1) % n else (p + n - 1) % n

/-- The hops from position p to q on ring k of a pair of n stops. -/
def hopsOn (n k p q : Nat) : Nat := if k = 0 then (q + n - p) % n else (p + n - q) % n

/-- The ring of a pair that takes fewer hops, ring 0 where they are equal (R237, rule 4). -/
def pickRing (n p q : Nat) : Nat := if hopsOn n 1 p q < hopsOn n 0 p q then 1 else 0

/-- The stop at position p of a row's or column's rings (Table 9.1). -/
def stopAt (d : Nat) (column : Bool) (ix p : Nat) : Stop :=
  if column then ⟨BitVec.ofNat 2 d, BitVec.ofNat 5 (ix + 1), BitVec.ofNat 5 p⟩ else ⟨BitVec.ofNat 2 d, BitVec.ofNat 5 p, BitVec.ofNat 5 (ix + 1)⟩

/-- The stop of a physical tile's passage. -/
def passageStop (n : Nat) : Stop := ⟨BitVec.ofNat 2 (tileDie n), BitVec.ofNat 5 (tileCol n + 1), BitVec.ofNat 5 (tileRow n + 1)⟩

/-- The physical tile whose passage a stop is, if it is one. -/
def tileOfStop (a : Stop) : Option Nat :=
  if 1 ≤ a.x.toNat ∧ a.x.toNat ≤ 18 ∧ 1 ≤ a.y.toNat ∧ a.y.toNat ≤ 16 then some (tileAt a.die.toNat (a.y.toNat - 1) (a.x.toNat - 1)) else none

/-- Whether a stop is the north or south end of a column. -/
def isEnd (a : Stop) : Bool := decide (a.y = 0) || decide (a.y = 17)

/-- Whether a stop is shunted: the passage there has failed (R247). -/
def shunted (s : State) (a : Stop) : Bool := (tileOfStop a).any fun n => (tile s n).passFail

/-- The first live tile stop beyond position p in the direction of ring k (R237, rule 5). -/
def beyond (s : State) (d : Nat) (column : Bool) (ix k : Nat) : Nat → Nat → Option Nat
  | 0, _ => none
  | fuel + 1, p =>
    let q := nextPos (ringStops column) k p
    let a := stopAt d column ix q
    if (tileOfStop a).isSome && !shunted s a then some q else beyond s d column ix k fuel q

/-! ### Routes (R237) -/

/-- The row, as a position Y, on which a flit from a column end turns off its column, or along which any other flit leaves its source (rules 1 to 3). -/
def turnRow (src dst : Stop) : Nat :=
  if isEnd src then (if isEnd dst then (src.x.toNat + dst.x.toNat) % 16 + 1 else dst.y.toNat) else src.y.toNat

/-- Where a flit on the rings of a row or column of die d leaves them: the position it makes for on the unshunted ring, whether its destination is there, and whether it may turn
beyond a shunted stop there. -/
def legGoal (d : Nat) (column : Bool) (ix : Nat) (src dst : Stop) : Nat × Bool × Bool :=
  if column then
    let first := decide (src.die.toNat = d) && decide (src.x.toNat = ix + 1) && isEnd src
    if dst.die.toNat = d ∧ dst.x.toNat = ix + 1 then (dst.y.toNat, true, false)
    else (if first then turnRow src dst else dst.y.toNat, false, first)
  else if dst.die.toNat ≠ d then (19, false, false)
  else if dst.y.toNat = ix + 1 then (dst.x.toNat, true, false)
  else (dst.x.toNat, false, decide (ix + 1 = turnRow src dst) && !isEnd dst && !isEnd src)

/-- A stretch of a route on one ring: the ring, and the positions where it starts and ends. -/
structure Leg where
  ring : Nat
  from_ : Nat
  goal : Nat
deriving DecidableEq, Repr

/-- Why the network refuses a packet (R237, rules 5 and 6). -/
inductive NetRefusal where
  | fenced
  | unreachable
deriving DecidableEq, Repr

/-- The stretch that a flit at position p of a row or column takes, and whether it ends at the destination. -/
def legOf (s : State) (d : Nat) (column : Bool) (ix p : Nat) (src dst : Stop) : Except NetRefusal (Leg × Bool) :=
  let (t, final, dev) := legGoal d column ix src dst
  let k := pickRing (ringStops column) p t
  let i := ringNo d column ix k
  if !shunted s (stopAt d column ix t) then .ok (⟨i, p, t⟩, final)
  else if final then .error .fenced
  else if dev then
    match beyond s d column ix k 20 t with
    | some q => .ok (⟨i, p, q⟩, false)
    | none => .error .unreachable
  else .error .unreachable

/-- Where a flit goes on from the end of a stretch: over the bridge to the same row of the destination's die, or onto the crossing ring. -/
def legNext (d : Nat) (column : Bool) (ix p : Nat) (dst : Stop) : Nat × Bool × Nat × Nat :=
  if !column && decide (p = 19) && decide (dst.die.toNat ≠ d) then (dst.die.toNat, false, ix, 19)
  else if column then (d, false, p - 1, ix + 1)
  else (d, true, p - 1, ix + 1)

/-- The route of a flit at position p of a row or column: its stretches, without those of no hop. -/
def routeFrom (s : State) (src dst : Stop) : Nat → Nat → Bool → Nat → Nat → Except NetRefusal (List Leg)
  | 0, _, _, _, _ => .error .unreachable
  | fuel + 1, d, column, ix, p =>
    match legOf s d column ix p src dst with
    | .error e => .error e
    | .ok (l, final) =>
      let here := if l.from_ = l.goal then [] else [l]
      if final then .ok here
      else
        let (d', c', ix', p') := legNext d column ix l.goal dst
        match routeFrom s src dst fuel d' c' ix' p' with
        | .ok ls => .ok (here ++ ls)
        | .error e => .error e

/-- The route of a unicast flit from its source stop (R237). -/
def route (s : State) (src dst : Stop) : Except NetRefusal (List Leg) :=
  if isEnd src then routeFrom s src dst 8 src.die.toNat true (src.x.toNat - 1) src.y.toNat
  else routeFrom s src dst 8 src.die.toNat false (src.y.toNat - 1) src.x.toNat

/-- The unit-strip stop from which an engine of a die sends to a stop (R237, rule 1). -/
def stripStop (d : Nat) (dst : Stop) : Stop :=
  ⟨BitVec.ofNat 2 d, 0, if isEnd dst then BitVec.ofNat 5 ((dst.x.toNat + 15) % 16 + 1) else dst.y⟩

/-- The hops of a stretch over live stops: a hop through a shunt counts as one (R233, R247). -/
def liveHops (s : State) (l : Leg) : Nat :=
  let column := ringColumn l.ring
  let n := ringStops column
  let k := l.ring % 2
  countIf (fun j => !shunted s (stopAt (l.ring / 68) column (ringIndex l.ring) (if k = 0 then (l.from_ + j + 1) % n else (l.from_ + n - (j + 1) % n) % n)))
    (List.range (hopsOn n k l.from_ l.goal))

/-- What comes between two stretches: 20 cycles over a bridge, 2 for a turn (Table 9.2). -/
def joinCost (a b : Leg) : Nat := if a.ring / 68 = b.ring / 68 then 2 else 20

/-- The unloaded latency of a route in haul cycles (Table 9.2): entry, hops, turns and bridges, ejection. -/
def routeLatency (s : State) (ls : List Leg) : Nat :=
  4 + (ls.map (liveHops s)).foldl (· + ·) 0 + ((ls.zip (ls.drop 1)).map fun x => joinCost x.1 x.2).foldl (· + ·) 0

/-! ### The side-band (R234) -/

/-- The code of a CLASS. -/
def classCode : FlitClass → BitVec 2
  | .request => 0
  | .response => 1
  | .message => 2
  | .control => 3

/-- The CLASS of a code. -/
def flitClass (c : BitVec 2) : FlitClass := if c = 0 then .request else if c = 1 then .response else if c = 2 then .message else .control

/-- Bits 97 to 9 of a side-band. -/
def routeBits : FlitRoute → BitVec 89
  | .uni dst src tag part status => dst.die ++ dst.x ++ dst.y ++ src.die ++ src.x ++ src.y ++ tag ++ part ++ status ++ 0#38
  | .multi die column index mask miss relay srcX srcY tag => die ++ BitVec.ofBool column ++ index ++ mask ++ miss ++ relay ++ srcX ++ srcY ++ tag ++ 0#3

/-- Whether a flit is a multicast. -/
def isMulti : FlitRoute → Bool
  | .uni _ _ _ _ _ => false
  | .multi _ _ _ _ _ _ _ _ _ => true

/-- The side-band of a flit (Table 9.3); the spec does not define its code, a constant of Config. -/
def sideband (fl : Flit) : BitVec 144 :=
  let w : BitVec 135 := 1#1 ++ classCode fl.cls ++ BitVec.ofBool (isMulti fl.route) ++ fl.seq ++ fl.more ++ fl.age ++ routeBits fl.route
  w ++ Config.sideCheck w

/-- Bits 97 to 9 as they read with MCAST. -/
def routeOf (multi : Bool) (w : BitVec 89) : FlitRoute :=
  if multi then
    .multi (w.extractLsb' 87 2) (w.getLsbD 86) (w.extractLsb' 81 5) (w.extractLsb' 63 18) (w.extractLsb' 45 18) (w.extractLsb' 29 16) (w.extractLsb' 24 5) (w.extractLsb' 19 5) (w.extractLsb' 3 16)
  else
    .uni ⟨w.extractLsb' 87 2, w.extractLsb' 82 5, w.extractLsb' 77 5⟩ ⟨w.extractLsb' 75 2, w.extractLsb' 70 5, w.extractLsb' 65 5⟩ (w.extractLsb' 49 16) (w.extractLsb' 46 3) (w.extractLsb' 38 8)

/-- The flit that a side-band describes, if its slot holds one. -/
def flitOf (w : BitVec 144) : Option Flit :=
  if w.getLsbD 143 then
    some { cls := flitClass (w.extractLsb' 141 2), seq := w.extractLsb' 135 5, more := w.extractLsb' 130 5, age := w.extractLsb' 98 32,
           route := routeOf (w.getLsbD 140) (w.extractLsb' 9 89) }
  else none

/-! ### Ages (R234) -/

/-- Whether age a is older than age b: the sign of their difference modulo 2^32. -/
def older (a b : BitVec 32) : Bool := (a - b).msb

/-- The later of two ages. -/
def laterAge (a b : BitVec 32) : BitVec 32 := if older a b then b else a

end Sys2Proof.Machine
end

