-- ==== Sys2Proof/Machine/Addr.lean ====
section
/-! DEFINITION. Addresses: the populated tiers of the fused grade, a partition's view of the local map (R4, R5, R24 to R27), interleaving (R259,
R260), engine-owned memory and leases (R174 to R178), and the decoding of a global address (R22, R23). -/

namespace Sys2Proof.Machine

/-- The fused grade (Table 0.5). -/
def grade (s : State) : Nat := fg s F.GLB_PART_GRADE

/-- Enabled logical columns of a die (R2). -/
def enabledCols (s : State) : Nat := if grade s = 3 then 16 else if grade s = 2 then 14 else 10

/-- The power limit of the grade in mW, which CLK_PWR_CTL.LIMIT_MW resets to (Table 0.1, R445). -/
def gradeLimitMw (s : State) : Nat := if grade s = 3 then 2400000 else if grade s = 2 then 2100000 else 1600000

/-- Whether the module is Dormant (R442). -/
def dormant (s : State) : Bool := decide (fg s F.CLK_DORMANT_STATUS_STATE = 2)

/-- Bytes of one HBM3E stack (Table 0.1). -/
def stackBytes (s : State) : Nat := fg s F.GLB_PART_T1_STACK_GIB * 2 ^ 30

/-- Bytes of one LPDDR5X position (Table 0.1). -/
def positionBytes : Nat := 128 * 2 ^ 30

/-- Whether LPDDR5X position k is populated (R3): k = 0 of each section always, k = 1 in both sections of the full grade and in section 0 of the middle one. -/
def t2Populated (s : State) (k : Nat) : Bool :=
  decide (k % 2 = 0) || decide (grade s = 3) || (decide (grade s = 2) && decide (k / 2 % 2 = 0))

/-- Whether fabric port n is enabled (R3). -/
def portEnabled (s : State) (n : Nat) : Bool :=
  decide (n % 4 < (if grade s = 3 then 4 else if grade s = 2 then 3 else 2))

/-- The stacks of partition p in increasing section number (R259). -/
def stacksOf (s : State) (p : Nat) : List Nat := sectionsOf s p

/-- The populated positions of partition p in increasing number (R260). -/
def positionsOf (s : State) (p : Nat) : List Nat :=
  (sectionsOf s p).flatMap fun k => [2 * k, 2 * k + 1].filter (t2Populated s)

/-- Size of partition p's Tier 1 range (R25). -/
def t1Size (s : State) (p : Nat) : Nat := (stacksOf s p).length * stackBytes s

/-- Size of partition p's Tier 2 range (R25). -/
def t2Size (s : State) (p : Nat) : Nat := (positionsOf s p).length * positionBytes

/-- The local address at which Tier 2 starts (Table 1.8). -/
def t2Base : Nat := 2 ^ 40

/-- The local address at which tile stores start (Table 1.8). -/
def tileBase : Nat := 0x30000000000

/-- The local address of the MMIO alias (Table 1.8). -/
def mmioBase : Nat := 0xFFF00000000

/-- Status codes of Table 12.3 and the local ones of R304, used for every refused access. -/
def stOK : Nat := 0x00
/-- ADDR_UNPOPULATED. -/
def stUnpopulated : Nat := 0x01
/-- ADDR_SPACE_INVALID. -/
def stSpaceInvalid : Nat := 0x02
/-- ADDR_PRIVILEGED. -/
def stPrivileged : Nat := 0x03
/-- WINDOW_REFUSED. -/
def stWindow : Nat := 0x04
/-- MEM_UNCORRECTABLE. -/
def stUncorrectable : Nat := 0x05
/-- PEER_RESET. -/
def stPeerReset : Nat := 0x06
/-- TILE_FENCED. -/
def stTileFenced : Nat := 0x07
/-- HAUL_UNREACHABLE. -/
def stUnreachable : Nat := 0x08
/-- BUSY. -/
def stBusy : Nat := 0x09
/-- AUTH_FAIL. -/
def stAuthFail : Nat := 0x0A
/-- PEER_TIMEOUT. -/
def stPeerTimeout : Nat := 0x20
/-- NO_DEVID. -/
def stNoDevid : Nat := 0x21
/-- NO_PLANE. -/
def stNoPlane : Nat := 0x22
/-- HAUL_TIMEOUT: a haulage request without a response (R241). -/
def stHaulTimeout : Nat := 0x30
/-- HOST_ABORT (Table 13.8). -/
def stHostAbort : Nat := 0x31

/-- Where an access goes: a line of a memory device (0 to 7 stacks, 8 to 23 positions), a tile store, host memory, a peer's device ID, or nowhere, with the
status of its refusal. -/
inductive Target where
  | mem (dev off : Nat)
  | store (tile off : Nat)
  | host (iova : Nat)
  | remote (id la : Nat)
  | mmio (off : Nat)
  | refused (st : Nat)
deriving DecidableEq, Repr

/-- Interleaving (R259): the member and the offset within it of range offset a over the members ts. -/
def interleave (ts : List Nat) (a : Nat) : Nat × Nat :=
  let n := ts.length
  let chunk := a / 4096
  (nth ts (chunk % n) 0, chunk / n * 4096 + a % 4096)

/-- The pseudo-channel of a stack that holds the line at offset o (R259). -/
def pseudoChannel (o : Nat) : Nat := Nat.xor (o / 256) (o / 131072) % 32

/-- The device row that holds an offset: in a stack a row of the offset's pseudo-channel (R259); where in it the controller chooses. -/
def deviceRow (dev off : Nat) : Nat :=
  if dev < 8 then Config.rowOf dev off * 32 + pseudoChannel off else Config.rowOf dev off

/-- The device and offset of a local address in the tiers of partition p. -/
def tierTarget (s : State) (p la : Nat) : Target :=
  if la < t2Base then
    if la < t1Size s p then
      let (k, o) := interleave (stacksOf s p) la
      .mem k o
    else .refused stUnpopulated
  else if la < tileBase then
    if la - t2Base < t2Size s p then
      let (k, o) := interleave (positionsOf s p) (la - t2Base)
      .mem (8 + k) o
    else .refused stUnpopulated
  else .refused stUnpopulated

/-- The key of an offset of a memory device. -/
def keyMem (dev off : Nat) : Nat := if dev < 8 then keyT1 dev off else keyT2 (dev - 8) off

/-- Base of partition p's Ledger: the top n x 16 MiB of its Tier 1 range (R174). -/
def ledgerBase (s : State) (p : Nat) : Nat := t1Size s p - (sectionsOf s p).length * 2 ^ 24

/-- A half-open range of local addresses holds an address. -/
def inRange (la lo n : Nat) : Bool := decide (lo ≤ la) && decide (la < lo + n)

/-- The pools of partition p as base and size in local addresses (Table 7.1): T1, T2, MAP, SKETCH. -/
def poolRanges (s : State) (p : Nat) : List (Nat × Nat) :=
  [ (fg s F.SEAM_POOL_T1_BASE p * 2 ^ 16, fg s F.SEAM_POOL_T1_FRAMES p * 2 ^ 16),
    (fg s F.SEAM_POOL_T2_BASE p * 2 ^ 16, fg s F.SEAM_POOL_T2_FRAMES p * 2 ^ 16),
    (fg s F.SEAM_POOL_MAP_BASE p * 2 ^ 12, fg s F.SEAM_POOL_MAP_BLOCKS p * 2 ^ 12),
    (fg s F.SEAM_POOL_SKETCH_BASE p * 2 ^ 9, fg s F.SEAM_POOL_SKETCH_SLOTS p * (512 * 2 ^ fg s F.SEAM_POOL_SKETCH_SLOT p)) ]

/-- Whether a local address of partition p is engine-owned (R177). -/
def engineOwned (s : State) (p la : Nat) : Bool :=
  fb s F.SEAM_CTL_EN p &&
    (inRange la (ledgerBase s p) ((sectionsOf s p).length * 2 ^ 24) || (poolRanges s p).any fun (b, n) => inRange la b n)

/-- The leases that partition p grants (R178) which hold a local address: the entries' numbers. -/
def leasesAt (s : State) (p la : Nat) : List Nat :=
  (List.range 4).filter fun i =>
    fb s F.SEAM_LEASE_CFG_EN p i && inRange la (fg s F.SEAM_LEASE_BASE_BASE p i * 2 ^ 16) (fg s F.SEAM_LEASE_CFG_FRAMES p i * 2 ^ 16)

/-- Whether a change of CONF refuses every access to partition p's tiers (R398): STATE is ENABLING or DISABLING. -/
def confChanging (s : State) (p : Nat) : Bool := decide (fg s F.SEC_PART_CTL_STATE p % 2 = 1)

/-- Whether a requester may reach a local address of partition p's tiers under R177, R178 and R398. -/
def tierAllowed (s : State) (who : Requester) (p la : Nat) : Bool :=
  !confChanging s p &&
  match who with
  | .seam id =>
    (devId s p == some id || !engineOwned s p la) &&
    (leasesAt s p la).all fun i => fg s F.SEAM_LEASE_CFG_HOLDER p i == id
  | _ => !engineOwned s p la && (leasesAt s p la).isEmpty

/-- STORE_BASE of a tile: that of its task, else what a launch would give it (R131). -/
def storeBase (s : State) (n : Nat) : Nat :=
  if (tile s n).slot.isSome then (tile s n).base else fg s F.TS_CTL_RESERVE n * 2 ^ 15

/-- The device ID an access comes from, if it has one. -/
def sourceId (s : State) : Requester → Option Nat
  | .task slot _ => (task? s slot).bind fun t => devId s t.part
  | .engine p => devId s p
  | .pf p => devId s p
  | .seam id => some id
  | .host _ => none
  | .peer id _ _ => some id
  | .firmware => none

/-- Whether a requester may read the store of tile n, which serves partition p (R149). -/
def storeReadable (s : State) (who : Requester) (p n off : Nat) : Bool :=
  decide (storeBase s n ≤ off) &&
  match who with
  | .task slot _ => (task? s slot).any fun t => t.part == p
  | .engine q => q == p
  | .pf q => q == p
  | .seam id => devId s p == some id
  | .peer id _ _ => devId s p == some id
  | .host f => fnOf f == ownerFn s p
  | .firmware => false

/-- The stop that serves a memory device (Table 9.1): a north end for a stack, a south end for a position, at the column of its half that its controller chooses for the line. -/
def deviceStop (dev off : Nat) : Stop :=
  let k := if dev < 8 then dev else (dev - 8) / 2
  ⟨BitVec.ofNat 2 (k / 2), BitVec.ofNat 5 (9 * (k % 2) + Config.endColumn dev (off / 64) % 9 + 1), if dev < 8 then 0 else 17⟩

/-- Whether a packet from a stop to a device or a tile store finds no route past the shunts (R237, rule 5). -/
def noRoute (s : State) (src : Stop) (t : Target) : Bool :=
  let dst := match t with
    | .mem d o => some (deviceStop d o)
    | .store n _ => some (passageStop n)
    | _ => none
  dst.any fun a => match route s src a with
    | .error .unreachable => true
    | _ => false

/-- The target of an access as the haulage network serves it: a core's packets leave from its passage (R237). Where no passage has failed every stop can be reached. -/
def overNet (s : State) (who : Requester) (t : Target) : Target :=
  match who with
  | .task _ n => if (s.tiles.any fun x => x.2.passFail) && noRoute s (passageStop n) t then .refused stUnreachable else t
  | _ => t

/-- The target of a local address of partition p (R24 to R27, Table 12.3 rows 4 to 6), for a read or a write. -/
def resolveLocal (s : State) (who : Requester) (p la : Nat) (write : Bool) : Target :=
  if la < tileBase then
    match tierTarget s p la with
    | .mem d o => if tierAllowed s who p la then .mem d o else .refused stPrivileged
    | t => t
  else if la < tileBase + 0x90000000 then
    let n := (la - tileBase) / 2 ^ 21
    let off := (la - tileBase) % 2 ^ 21
    if off < 0x180000 ∧ tilePart s n = some p then
      if !write && !storeReadable s who p n off then .refused stUnpopulated
      else if (tile s n).fenced then .refused stTileFenced
      else .store n off
    else .refused stUnpopulated
  else if mmioBase ≤ la ∧ la < mmioBase + 2 ^ 26 then
    match who with
    | .firmware => .mmio (la - mmioBase)
    | _ => .refused stPrivileged
  else .refused stUnpopulated

/-- The partition of this module that holds a device ID. -/
def partOfId (s : State) (id : Nat) : Option Nat := (List.range 8).find? fun p => devId s p == some id

/-! ### Sessions (R403) -/

/-- Change the key engine. -/
def updKe (s : State) (f : KeyEngine → KeyEngine) : State := { s with ke := f s.ke }

/-- The session record of slot k of partition p. -/
def session (s : State) (p k : Nat) : Session := SMap.get Session.fresh s.ke.sess (p * 64 + k)

/-- Replace the session record of slot k of partition p. -/
def setSession (s : State) (p k : Nat) (x : Session) : State := updKe s fun e => { e with sess := SMap.set e.sess (p * 64 + k) x }

/-- Whether CONF of partition p is 1. -/
def confOn (s : State) (p : Nat) : Bool := fb s F.SEC_PART_CTL_CONF p

/-- The slots of partition p that are in one of some states with a module peer of an ID. -/
def slotsWith (s : State) (p id : Nat) (states : List Nat) : List Nat :=
  (List.range 64).filter fun k =>
    states.contains (fg s F.SEC_SLOT_STATE p k) && !fb s F.SEC_SLOT_TENANT p k && fg s F.SEC_SLOT_PEER_ID p k == id

/-- The newest ACTIVE session of partition p with a device ID. -/
def sessionTo (s : State) (p id : Nat) : Option Nat :=
  leastBy (fun a b => decide ((session s p b).since < (session s p a).since)) (slotsWith s p id [2])

/-- Why an access of partition p, device ID id, to partition q of this module is refused before its address is looked at (R296): AUTH_FAIL of a confidential sender
without a session, then rows 1 and 2 of Table 12.3. What never leaves the module carries no counter, so the receive windows of the two sessions stand still (DESIGN CHOICE, log entry 81). -/
def crossRefusal (s : State) (p q id mid : Nat) : Option Nat :=
  let k := if confOn s p then sessionTo s p mid else none
  let received := k.any fun k => (slotsWith s q id [2, 3]).any fun j => fg s F.SEC_SLOT_SESSION_ID q j == (session s p k).peer
  if confOn s p && k.isNone then some stAuthFail
  else if partFenced s q then some stPeerReset
  else if (if confOn s p then !received else confOn s q) then some stAuthFail
  else none

/-- The function whose requester ID an access to host memory carries (R323, R330). -/
def hostFn (s : State) (who : Requester) (p : Nat) : Nat :=
  match who with
  | .pf _ => 0
  | _ => ownerFn s p

/-- The target of global address ga for an access made with the rights of partition p (R22, R23). Another partition of this module is reached with the same checks as
a remote access (R296), and host memory only through a function that may send requests (R324; log entry 83). -/
def resolve (s : State) (who : Requester) (p : Nat) (ga : Word) (write : Bool) : Target :=
  let tag := getBits ga 63 62
  let mid := getBits ga 61 44
  let la := getBits ga 43 0
  if tag = 0 then (if mid = 0 then overNet s who (resolveLocal s who p la write) else .refused stSpaceInvalid)
  else if tag = 1 then
    match devId s p with
    | none => .refused stNoDevid
    | some id =>
      match partOfId s mid with
      | none => .remote mid la
      | some q =>
        match crossRefusal s p q id mid with
        | some st => .refused st
        | none =>
          let w' := match who with
            | .seam _ => who
            | .task _ n => .peer id 0 ((logicalOf s n).getD 0)
            | _ => .peer id 1 0
          overNet s who (resolveLocal s w' q la write)
  else if tag = 2 then (if mayMaster s (hostFn s who p) then .host (getBits ga 61 0) else .refused stHostAbort)
  else .refused stSpaceInvalid

/-- Whether a target is refused with a status. -/
def Target.isRefused (t : Target) (st : Nat) : Bool :=
  match t with
  | .refused x => x == st
  | _ => false

/-- The statuses that refuse a whole operation, in the order in which they are judged (R296, Table 12.3 rows 1 to 6 and 9): one that the
network cannot deliver reaches no line of rows 7 and 8 (DEDUCED, log entry 85). -/
def wholeOrder : List Nat := [stNoDevid, stAuthFail, stPeerReset, stSpaceInvalid, stUnpopulated, stPrivileged, stTileFenced, stUnreachable]

/-- The status that refuses an operation of some lines: the first in that order which a line meets. -/
def opRefusal (ts : List Target) : Option Nat := wholeOrder.find? fun st => ts.any (·.isRefused st)

end Sys2Proof.Machine
end

