-- ==== Sys2Proof/Machine/Store.lean ====
section
/-! DEFINITION. Reading and writing the module's memories: findings of the check code with their counters and records (R150, R151, R264 to
R270), the windows of a tile store (R144 to R148), and accesses to a global address (R22). -/

namespace Sys2Proof.Machine

/-! ### Findings of the check code -/

/-- Why a word was read: by a requester (a task of the tile, or for a memory device a requester of a partition), by scrub, as the read half of a partial write,
by a repair copy, or in a tile store by a remote or host reader (Tables 5.8 and 10.10). -/
inductive Why where
  | requester (p : Nat)
  | scrub
  | rmw
  | repair
  | remote
deriving DecidableEq, Repr

/-- SOURCE in MEM_DEV_ECC_LAST (Table 10.10). -/
def Why.memCode : Why → Nat
  | .requester _ => 0
  | .remote => 0
  | .scrub => 1
  | .rmw => 2
  | .repair => 3

/-- SOURCE in TS_ECC_LAST (Table 5.8). -/
def Why.storeCode : Why → Nat
  | .requester _ => 0
  | .scrub => 1
  | .rmw => 2
  | .repair => 3
  | .remote => 3

/-- PARTITION in MEM_DEV_ECC_LAST: that of the reader, 0 when SOURCE is not 0. -/
def Why.part : Why → Nat
  | .requester p => p
  | _ => 0

/-- The indices of a memory device's registers: tier, and number within it. -/
def devIx (dev : Nat) : Nat × Nat := if dev < 8 then (0, dev) else (1, dev - 8)

/-- The latest-error registers of a memory device (R273): a corrected error does not replace a valid one, an uncorrectable one does. -/
def devLast (s : State) (dev : Nat) (why : Why) (off kind : Nat) (ue : Bool) (a b : Nat) : State :=
  let (i, j) := devIx dev
  if fb s F.MEM_DEV_ECC_LAST_VALID i j && !ue then s
  else
    let s := fs s F.MEM_DEV_ECC_LAST_VALID 1 i j
    let s := fs s F.MEM_DEV_ECC_LAST_UE ue.toNat i j
    let s := fs s F.MEM_DEV_ECC_LAST_SOURCE why.memCode i j
    let s := fs s F.MEM_DEV_ECC_LAST_KIND kind i j
    let s := fs s F.MEM_DEV_ECC_LAST_PARTITION why.part i j
    let s := fs s F.MEM_DEV_ECC_LAST_BIT_A a i j
    let s := fs s F.MEM_DEV_ECC_LAST_BIT_B b i j
    fs s F.MEM_DEV_ECC_ADDR_OFFSET off i j

/-- The latest-error register of a tile store (Table 5.8). -/
def storeLast (s : State) (n : Nat) (why : Why) (off : Nat) (ue : Bool) (a b : Nat) : State :=
  let s := fs s F.TS_ECC_LAST_VALID 1 n
  let s := fs s F.TS_ECC_LAST_UE ue.toNat n
  let s := fs s F.TS_ECC_LAST_SOURCE why.storeCode n
  let s := fs s F.TS_ECC_LAST_BIT_A a n
  let s := fs s F.TS_ECC_LAST_BIT_B b n
  fs s F.TS_ECC_LAST_OFFSET off n

/-- Which memory a word key lies in: a device with its offset, or a tile store. -/
inductive WordHome where
  | dev (d off : Nat)
  | tile (n off : Nat)
  | other
deriving DecidableEq, Repr

/-- The home of a byte key. -/
def homeOf (k : Nat) : WordHome :=
  if k < 2 ^ 43 then .dev (k / 2 ^ 40) (k % 2 ^ 40)
  else if 2 ^ 45 ≤ k ∧ k < 2 ^ 50 then .dev (8 + (k - 2 ^ 45) / 2 ^ 40) ((k - 2 ^ 45) % 2 ^ 40)
  else if 2 ^ 50 ≤ k ∧ k < 2 ^ 50 + 1152 * 2 ^ 21 then .tile ((k - 2 ^ 50) / 2 ^ 21) ((k - 2 ^ 50) % 2 ^ 21)
  else .other

/-- The record of a finding (Table 15.2, 0x08 and 0x09), `ctx` adding the reader's context. The fault of a reading task is taken at context level (R270, R364). -/
def findingRec (s : State) (cls kind unit ix off a b : Nat) (ctx : Rec → Rec) : Rec :=
  let r := ctx { blankRec s cls kind 0 with unit := unit, unitIx := ix, aux := BitVec.ofNat 64 off, aux2 := if cls = 9 then 0 else BitVec.ofNat 64 (a * 256 + b) }
  { r with action := if r.task.isSome then 1 else 0 }

/-- The key of a device row. -/
def rowKey (dev row : Nat) : Nat := row * 32 + dev

/-- Start the soft repair of a device row (R268), or count it as left unrepaired when its bank has no spare (R269). -/
def startRepair (s : State) (dev row : Nat) : State :=
  if s.memc.repairs.any fun (d, r, _) => d == dev && r == row then s
  else
    let bank := rowKey dev (Config.bankOf dev row)
    let u := SMap.get 0 s.memc.used bank
    let (i, j) := devIx dev
    if Config.bankSpares dev (Config.bankOf dev row) ≤ u then
      let s := finc s F.MEM_DEV_REPAIR_EXHAUSTED 1 i j
      emit s { blankRec s 0x0A 0 0 with
        unit := (if dev < 8 then 0x5 else 0x6), unitIx := j, aux := BitVec.ofNat 64 (Config.rowFirst dev row) }
    else { s with memc := { s.memc with repairs := s.memc.repairs ++ [(dev, row, mer s)] } }

/-- Whether a soft repair holds the row of an offset (R268). -/
def rowHeld (s : State) (dev off : Nat) : Bool := s.memc.repairs.any fun x => x.1 == dev && x.2.1 == deviceRow dev off

/-- Count a correctable read of a row, at most one per scrub pass, and start its repair at ROW_CE_LIMIT (R268). -/
def countRow (s : State) (dev off : Nat) : State :=
  let row := deviceRow dev off
  let (i, j) := devIx dev
  let pass := fg s F.MEM_DEV_SCRUB_PASSES i j
  match SMap.find s.memc.rowCe (rowKey dev row) with
  | some (n, p0) =>
    if p0 = pass then s
    else
      let s := { s with memc := { s.memc with rowCe := SMap.set s.memc.rowCe (rowKey dev row) (n + 1, pass) } }
      if max 1 (fg s F.MEM_CTL_ROW_CE_LIMIT) ≤ n + 1 then startRepair s dev row else s
  | none =>
    let s := { s with memc := { s.memc with rowCe := SMap.set s.memc.rowCe (rowKey dev row) (1, pass) } }
    if max 1 (fg s F.MEM_CTL_ROW_CE_LIMIT) ≤ 1 then startRepair s dev row else s

/-- The record of a corrected word names the reader's partition, as MEM_DEV_ECC_LAST does (Table 10.10), and no other context. -/
def readerPart (s : State) (why : Why) (ctx : Rec → Rec) (r : Rec) : Rec :=
  match (ctx r).part, why with
  | some p, _ => r.ofPart s p
  | none, .requester p => r.ofPart s p
  | none, _ => r

/-- One finding (R151, R267, R270): counters, latest-error registers, a record, and the correctable reads of the device row that R268 counts. -/
def finding (s : State) (k : Nat) (why : Why) (kind : Nat) (ue : Bool) (bits : List Nat) (ctx : Rec → Rec) : State :=
  let a := nth bits 0 0xFF
  let b := nth bits 1 0xFF
  let ctx' := if ue then ctx else readerPart s why ctx
  match homeOf k with
  | .dev d off =>
    let (i, j) := devIx d
    let s := if ue then finc s F.MEM_DEV_ECC_COUNT_UE_COUNT 1 i j else finc s F.MEM_DEV_ECC_COUNT_CE_COUNT 1 i j
    let s := devLast s d why off kind ue a b
    let s := emit s (findingRec s (if ue then 0x09 else 0x08) kind (if d < 8 then 0x5 else 0x6) j off a b ctx')
    if ue then startRepair s d (deviceRow d off) else countRow s d off
  | .tile n off =>
    let s := if ue then finc s F.TS_ECC_COUNT_UE_COUNT 1 n else finc s F.TS_ECC_COUNT_CE_COUNT 1 n
    let s := storeLast s n why off ue a b
    emit s (findingRec s (if ue then 0x09 else 0x08) kind 0x1 n off a b ctx')
  | .other => s

/-! ### Reads and writes of words -/

/-- V of the word at a byte key (Table 10.3). -/
def wordFold (k : Nat) : BitVec 48 :=
  match homeOf k with
  | .dev d off => if d < 8 then foldT1 d off else foldT2 (d - 8) off
  | .tile n off => foldTile n off
  | .other => 0

/-- The data of word w as it was written. -/
def wordData (s : State) (w : Nat) : Word := BitVec.ofNat 64 (ofBytes (memBytes s.mem (8 * w) 8))

/-- The stored bits of word w that differ from its encoding. -/
def wordFlips (s : State) (w : Nat) : BitVec 80 := SMap.get 0 s.flips w

/-- The memory key under which a word's line is encrypted: that of the partition which MEM_DEV_CRYPT shows (R271). -/
def lineKey (s : State) (w : Nat) : Option (List Byte) :=
  match homeOf (8 * w) with
  | .dev d _ =>
    let (i, j) := devIx d
    if fb s F.MEM_DEV_CRYPT_EN i j then SMap.find s.ke.memKeys (fg s F.MEM_DEV_CRYPT_PARTITION i j) else none
  | _ => none

/-- The tweak of word w's line: V of its first word (R271). -/
def lineTweak (w : Nat) : BitVec 128 := (wordFold (64 * (w / 8))).setWidth 128

/-- The line of word w as it is stored: ciphertext in the tiers of a confidential partition (R271). -/
def storedLine (s : State) (w : Nat) : List Byte :=
  let plain := memBytes s.mem (64 * (w / 8)) 64
  match lineKey s w with
  | some k => Config.xtsEnc k (lineTweak w) plain
  | none => plain

/-- The 64 data bits of word w as they are stored. -/
def storedData (s : State) (w : Nat) : Word := BitVec.ofNat 64 (ofBytes (slice (storedLine s w) (w % 8 * 8) 8))

/-- The 80 stored bits of word w (R263, R271): its stored data encoded under its own V, with the bits that have flipped since. -/
def storedWord (s : State) (w : Nat) : BitVec 80 := eccEncode (storedData s w) (wordFold (8 * w)) ^^^ wordFlips s w

/-- The bits of V in which the address of an access differs from word w's own. -/
def addrDiff (vs : List (Nat × BitVec 48)) (w : Nat) : BitVec 48 := vs.foldl (fun d x => if x.1 = w then d ^^^ x.2 else d) 0

/-- The decoding of word w under the V of an address that differs from its own in `dv`: that of `storedWord` under `wordFold ^^^ dv`, of which the code's linearity leaves
the difference (R264, R265). -/
def readWord (s : State) (dv : BitVec 48) (w : Nat) : EccResult := eccDecode (wordFlips s w) dv

/-- The data bits that the decoding of word w leaves wrong: those of an undetected or miscorrected pattern (R265). -/
def wordError (s : State) (dv : BitVec 48) (w : Nat) : Word :=
  match readWord s dv w with
  | .clean => (wordFlips s w).setWidth 64
  | .corrected _ bits => eccResidue (wordFlips s w) bits
  | .bad _ => 0

/-- The data that a read of word w delivers. What is wrong in an encrypted line's ciphertext garbles what is decrypted from it (R271). -/
def seenWord (s : State) (dv : BitVec 48) (w : Nat) : Word :=
  match lineKey s w with
  | none => wordData s w ^^^ wordError s dv w
  | some k =>
    let first := w / 8 * 8
    let errs := (List.range 8).map fun i => wordError s (if first + i = w then dv else 0) (first + i)
    if errs.all (· == 0) then wordData s w
    else
      let cipher := ((List.range 8).zip errs).flatMap fun (i, e) => bytesOf 8 (storedData s (first + i) ^^^ e).toNat
      BitVec.ofNat 64 (ofBytes (slice (Config.xtsDec k (lineTweak w) cipher) (w % 8 * 8) 8))

/-- The write-backs scheduled in earlier cycles are done (R150, R267): each word takes the corrected value, with right stored bits. -/
def ripenBack (s : State) : State :=
  if s.flips.isEmpty || s.memc.wback.isEmpty then s
  else
    (s.memc.wback.filter fun x => decide (x.2.1 < s.clk.cyc)).foldl (fun s (w, _, v) =>
      { s with mem := memPut s.mem (8 * w) (bytesOf 8 v.toNat), flips := SMap.erase s.flips w })
      { s with memc := { s.memc with wback := s.memc.wback.filter fun x => decide (s.clk.cyc ≤ x.2.1) } }

/-- Schedule the write-back of a corrected word (R267). -/
def schedBack (s : State) (w : Nat) (v : Word) : State :=
  { s with memc := { s.memc with wback := (s.memc.wback.filter fun x => x.1 != w) ++ [(w, s.clk.cyc, v)] } }

/-- The words, with wrong stored bits or with a wrong V in this access, among those that n bytes from key a touch. -/
def flipsIn (s : State) (vs : List (Nat × BitVec 48)) (a n : Nat) : List Nat :=
  let ws := (s.flips.map (·.1)) ++ (vs.map (·.1)).filter fun w => (SMap.find s.flips w).isNone
  ws.filter fun w => decide (a / 8 ≤ w) && decide (8 * w < a + n)

/-- Whether an uncorrectable word found by a scrubber or by the read half of a partial write has been logged by the other of the two in this cycle (Tables 5.4 and 10.6). -/
def alreadyMet (s : State) (why : Why) (w : Nat) : Bool :=
  (why == .scrub || why == .rmw) && s.memc.met.any fun x => x.1 == s.clk.cyc && x.2.1 == w && x.2.2 == (why == .rmw)

/-- Note such a finding. -/
def noteMet (s : State) (why : Why) (w : Nat) : State :=
  if why == .scrub || why == .rmw then
    { s with memc := { s.memc with met := (s.memc.met.filter fun x => x.1 == s.clk.cyc) ++ [(s.clk.cyc, w, why == .scrub)] } }
  else s

/-- Decode one word that a read touches: log the finding, schedule the write-back of a corrected word, and list an uncorrectable one as a byte key. -/
def scanWord (why : Why) (vs : List (Nat × BitVec 48)) (ctx : Rec → Rec) (acc : List Nat × State) (w : Nat) : List Nat × State :=
  let (bad, s) := acc
  match readWord s (addrDiff vs w) w with
  | .clean => (bad, s)
  | .corrected k bits => (bad, schedBack (finding s (8 * w) why k.code false bits ctx) w (seenWord s (addrDiff vs w) w))
  | .bad k => (bad ++ [8 * w], if alreadyMet s why w then s else noteMet (finding s (8 * w) why k.code true [] ctx) why w)

/-- Decode the words that a read of n bytes from key a touches; `vs` are the words that the access reads under a wrong V. -/
def scan (s : State) (why : Why) (a n : Nat) (ctx : Rec → Rec) (vs : List (Nat × BitVec 48) := []) : List Nat × State :=
  let s := ripenBack s
  (flipsIn s vs a n).foldl (scanWord why vs ctx) ([], s)

/-- The byte at a key as a read delivers it. -/
def seenByte (s : State) (vs : List (Nat × BitVec 48)) (k : Nat) : Byte :=
  if (SMap.find s.flips (k / 8)).isNone && !vs.any (fun x => x.1 == k / 8) && (lineKey s (k / 8)).isNone then memByte s.mem k
  else BitVec.ofNat 8 ((seenWord s (addrDiff vs (k / 8)) (k / 8)).toNat / 2 ^ (8 * (k % 8)) % 256)

/-- n bytes as a read delivers them. -/
def seenBytes (s : State) (a n : Nat) (vs : List (Nat × BitVec 48) := []) : List Byte :=
  if s.flips.isEmpty && vs.isEmpty then memBytes s.mem a n else (rangeFrom a n).map (seenByte s vs)

/-- Read n bytes at a key: the bytes, the uncorrectable words met, and the state with the findings. -/
def readKey (s : State) (why : Why) (a n : Nat) (ctx : Rec → Rec) (vs : List (Nat × BitVec 48) := []) : List Byte × List Nat × State :=
  if s.flips.isEmpty && vs.isEmpty then (memBytes s.mem a n, [], s)
  else
    let (bad, s') := scan s why a n ctx vs
    (seenBytes s' a n vs, bad, s')

/-- The runs of valid cells of a line: offset within it and bytes. -/
def gatherRuns : Nat → List (Byte × Bool) → List (Nat × List Byte)
  | _, [] => []
  | k, (b, v) :: rest =>
    let rs := gatherRuns (k + 1) rest
    if v then
      match rs with
      | (o, bs) :: rs' => if o = k + 1 then (k, b :: bs) :: rs' else (k, [b]) :: rs
      | [] => [(k, [b])]
    else rs

/-- The words of a line whose first key is k of which a write covers a part: some of their bytes and not all. -/
def partialWords (k : Nat) (cells : List (Byte × Bool)) : List Nat :=
  (List.range 8).filterMap fun j =>
    let m := ((cells.drop (8 * j)).take 8).map (·.2)
    if m.any id && !m.all id then some (k / 8 + j) else none

/-- The read of the read-modify-write of some words (R142, R266): in a tile store that of their whole beat, in a device that of each word. -/
def rmwRead (s : State) (k : Nat) (ws : List Nat) : List Nat × State :=
  match ws, homeOf k with
  | [], _ => ([], s)
  | _, .tile _ _ => scan s .rmw k 64 id
  | _, _ => ws.foldl (fun (acc : List Nat × State) w =>
      let (b, s) := scan acc.2 .rmw (8 * w) 8 id
      (acc.1 ++ b, s)) ([], s)

/-- Write the valid cells of the line whose first key is k (R142, R266): whole words are encoded afresh; a word covered in part is read first, and is merged and encoded afresh, or
keeps its stored bits when that read finds it uncorrectable. Answers whether every byte was written. -/
def writeLine (s : State) (k : Nat) (cells : List (Byte × Bool)) : Bool × State :=
  let put := fun (s : State) cells => (gatherRuns 0 cells).foldl (fun s (o, bs) => putBytes s (k + o) bs) s
  if s.flips.isEmpty then (true, put s cells)
  else
    let ws := partialWords k cells
    let (bad, s) := rmwRead s k ws
    let s := (ws.filter fun w => !bad.contains (8 * w)).foldl (fun s w =>
      if (SMap.find s.flips w).isSome then putBytes s (8 * w) (bytesOf 8 (seenWord s 0 w).toNat) else s) s
    let lost := ws.any fun w => bad.contains (8 * w)
    (!lost, put s (cells.zipIdx.map fun ((b, v), i) => (b, v && !(ws.contains ((k + i) / 8) && bad.contains ((k + i) / 8 * 8)))))

/-- The lengths of the pieces of n bytes from address a that lie in one 64-byte line each. -/
def linePieces : Nat → Nat → Nat → List Nat
  | 0, _, _ => []
  | fuel + 1, a, n => if n = 0 then [] else
      let k := min n (64 - a % 64)
      k :: linePieces fuel (a + k) (n - k)

/-- The pieces of n bytes from a. -/
def pieces (a n : Nat) : List Nat := linePieces (n / 64 + 2) a n

/-- A piece of a line as cells of the whole line. -/
def lineCells (o : Nat) (bs : List Byte) : List (Byte × Bool) :=
  (List.range 64).map fun i => if o ≤ i ∧ i < o + bs.length then (nth bs (i - o) 0, true) else (0, false)

/-- Write pieces of lines one after the other. -/
def writePieces (s : State) (a : Nat) (bs : List Byte) : List Nat → Bool × State
  | [] => (true, s)
  | n :: ns =>
    let (ok, s) := writeLine s (a / 64 * 64) (lineCells (a % 64) (bs.take n))
    let (ok', s) := writePieces s (a + n) (bs.drop n) ns
    (ok && ok', s)

/-- Write bytes at a key (R142, R266). Answers whether every byte was written. -/
def writeKey (s : State) (a : Nat) (bs : List Byte) : Bool × State :=
  if s.flips.isEmpty then (true, putBytes s a bs) else writePieces s a bs (pieces a bs.length)

/-! ### The windows of a tile store -/

/-- The relative offset of the window table for a STORE_BASE (R145). -/
def windowTable (base : Nat) : Nat := 0x180000 - base - 128

/-- Whether an entry with OPEN = 1 is rejected (R146). -/
def windowBad (t : Nat) (w0 w1 : Word) : Bool :=
  decide (getBits w0 62 61 ≠ 0) || decide (getBits w0 29 21 ≠ 0) || decide (getBits w1 63 21 ≠ 0) ||
  decide (5 ≤ getBits w0 60 58) || decide (getBits w0 5 0 ≠ 0) || decide (getBits w1 5 0 ≠ 0) ||
  decide (getBits w1 20 0 < 64) || decide (t < getBits w0 20 0 + getBits w1 20 0)

/-- Load window entry w of tile n into the comparators from the table as it stands (R145, R146): a rejected entry stays closed, its word 0 is rewritten with OPEN = 0
and its bit of WIN_REJECT is set. -/
def loadWindow (s : State) (n base w : Nat) : State :=
  let k := keyTile n (base + windowTable base + 16 * w)
  let w0 := BitVec.ofNat 64 (ofBytes (memBytes s.mem k 8))
  let w1 := BitVec.ofNat 64 (ofBytes (memBytes s.mem (k + 8) 8))
  let t := tile s n
  let others := t.windows.filter fun e => e.1 != w
  if !bitOf w0 63 then setTile s n { t with windows := others }
  else if windowBad (windowTable base) w0 w1 then
    let s := setTile s n { t with windows := others }
    let s := putBytes s k (bytesOf 8 (setBit w0 63 false).toNat)
    fs s F.TS_STATUS_WIN_REJECT (Nat.lor (fg s F.TS_STATUS_WIN_REJECT n) (2 ^ w)) n
  else setTile s n { t with windows := others ++ [(w, w0, w1)] }

/-- Load the entries of the window table that a write of n bytes at absolute offset a touches. -/
def loadWindows (s : State) (t base a n : Nat) : State :=
  let lo := base + windowTable base
  (List.range 8).foldl (fun s w => if a < lo + 16 * w + 16 ∧ lo + 16 * w < a + n then loadWindow s t base w else s) s

/-- A write by the tile's own task, at absolute offsets: bank write, partial words by read-modify-write, window entries reloaded. -/
def bankWrite (s : State) (n a : Nat) (bs : List Byte) : State :=
  let s' := (writeKey s (keyTile n a) bs).2
  loadWindows s' n (storeBase s n) a bs.length

/-- Whether a tile runs a task, so that scheduled reads or loads may fall into the present cycle. -/
def busyTile (s : State) (n : Nat) : Bool := (tile s n).slot.isSome

/-- Keep the bytes that a dynamic write of the present cycle replaces, for the reads of the cycle (R135). -/
def noteLaid (s : State) (n a len : Nat) (land : Bool) : State :=
  if !busyTile s n then s
  else
    let l : Laid := { cyc := s.clk.cyc, off := a, old := memBytes s.mem (keyTile n a) len, land := land }
    updTile s n fun t => { t with laid := (t.laid.filter fun x => decide (s.clk.settled ≤ x.cyc)) ++ [l] }

/-- A dynamic write by the tile's own task in the present cycle (R135): the scheduled reads of the cycle return the bytes before it. `land` marks landing data, which loads
of the cycle do not see either (Table 4.16). -/
def ownWrite (s : State) (n a : Nat) (bs : List Byte) (land : Bool := false) : State := bankWrite (noteLaid s n a bs.length land) n a bs

/-- Bytes `new` from offset `o` laid over bytes from offset `a`. -/
def overlay (a : Nat) (bs : List Byte) (o : Nat) (new : List Byte) : List Byte :=
  bs.zipIdx.map fun (b, i) => if o ≤ a + i ∧ a + i < o + new.length then nth new (a + i - o) b else b

/-- What a read of cycle y returns where dynamic writes of that cycle have changed the bytes: those before the writes, the first of which counts. -/
def beforeLaid (t : Tile) (y a : Nat) (bs : List Byte) (loads : Bool) : List Byte :=
  t.laid.foldr (fun x bs => if x.cyc = y ∧ (loads → x.land) then overlay a bs x.off x.old else bs) bs

/-- The windows that are open on tile n admit a requester's line at absolute offset a (R147). -/
def windowAdmits (s : State) (n : Nat) (who : Requester) (a len : Nat) : Bool :=
  let t := tile s n
  (tile s n).windows.any fun (_, w0, w1) =>
    let lo := storeBase s n + getBits w0 20 0
    decide (lo ≤ a) && decide (a + len ≤ lo + getBits w1 20 0) &&
    match getBits w0 60 58 with
    | 0 => match who with
      | .task slot _ => t.slot == some slot
      | _ => false
    | 1 => match who with
      | .task slot _ => (task? s slot).any fun x => (t.slot.bind (task? s)).any fun y => x.part == y.part
      | _ => false
    | 2 => sourceId s who == some (getBits w0 57 40)
    | 3 => match who with
      | .peer id unit lt => id == getBits w0 57 40 && unit == 0 && lt == getBits w0 39 30
      | .task _ m => sourceId s who == some (getBits w0 57 40) && logicalOf s m == some (getBits w0 39 30)
      | _ => false
    | 4 => match who with
      | .host f => (t.slot.bind (task? s)).any fun y => fnOf f == ownerFn s y.part
      | _ => false
    | _ => false

/-- A remote line reaches the store of tile n (R147): the bytes of `bs` at absolute offset a, judged by the line that holds them. Answers the status. -/
def remoteWrite (s : State) (n : Nat) (who : Requester) (a : Nat) (bs : List Byte) : Nat × State :=
  if (tile s n).fenced then (stTileFenced, s)
  else if windowAdmits s n who (a / 64 * 64) 64 then
    let (ok, s) := writeKey (noteLaid s n a bs.length true) (keyTile n a) bs
    (if ok then stOK else stUncorrectable, s)
  else (stWindow, s)

/-! ### Accesses to a global address -/

/-- What a read of a global address gives: the bytes with the uncorrectable words met, a refusal with its status and the global
address of the line refused, or that a peer must be asked. -/
inductive ReadResult where
  | data (bytes : List Byte) (bad : List Nat)
  | refused (st ga : Nat)
  | peer (id la : Nat)
deriving DecidableEq, Repr

/-- Whether host memory can be reached: the link is up (R322). -/
def hostUp (s : State) : Bool := fb s F.HOST_LINK_STATUS_DL_UP

/-- Read n bytes at one target. The bytes must not cross a 4-KiB chunk of a tier. -/
def readTarget (s : State) (why : Why) (t : Target) (ga n : Nat) (ctx : Rec → Rec) : ReadResult × State :=
  match t with
  | .mem d o =>
    let (bs, bad, s') := readKey s why (keyMem d o) n ctx
    (.data bs bad, s')
  | .store k o =>
    let (bs, bad, s') := readKey s .remote (keyTile k o) n ctx
    (.data bs bad, s')
  | .host a => if hostUp s then (.data (memBytes s.mem (keyHost a) n) [], s) else (.refused stHostAbort ga, s)
  | .remote id la => (.peer id la, s)
  | .mmio _ => (.refused stPrivileged ga, s)
  | .refused st => (.refused st ga, s)

/-- The pieces of n bytes from la that lie within one 1,024-byte-aligned block each (R303): address and length. -/
def opPieces : Nat → Nat → Nat → List (Nat × Nat)
  | 0, _, _ => []
  | fuel + 1, la, n => if n = 0 then [] else
      let k := min n (1024 - la % 1024)
      (la, k) :: opPieces fuel (la + k) (n - k)

/-- The pieces in which an access of n bytes at ga is judged: those of the operations of R303 with space tag 0b01 (R296), else lines. -/
def judgedPieces (ga n : Nat) : List Nat :=
  if ga / 2 ^ 62 = 1 then (opPieces (n / 1024 + 2) ga n).map (·.2) else pieces ga n

/-- The status that refuses a piece of an access. -/
def pieceRefusal (s : State) (who : Requester) (p ga n : Nat) (write : Bool) : Option Nat :=
  let starts := (List.range (ceilDiv (ga % 64 + n) 64)).map fun i => if i = 0 then ga else ga / 64 * 64 + 64 * i
  opRefusal (starts.map fun a => resolve s who p (BitVec.ofNat 64 a) write)

/-- Read `n` bytes at global address ga, a line at a time, with the rights of partition p. The first refusal ends the read. -/
def readLines (s : State) (who : Requester) (why : Why) (p : Nat) (ga : Nat) (ctx : Rec → Rec) : List Nat → ReadResult × State
  | [] => (.data [] [], s)
  | n :: ns =>
    match readTarget s why (resolve s who p (BitVec.ofNat 64 ga) false) ga n ctx with
    | (.data bs bad, s1) =>
      match readLines s1 who why p (ga + n) ctx ns with
      | (.data bs' bad', s2) => (.data (bs ++ bs') (bad ++ bad'), s2)
      | r => r
    | r => r

/-- Read the pieces of an access one after the other; the first refusal ends the read. -/
def readPieces (s : State) (who : Requester) (p : Nat) (ga : Nat) (ctx : Rec → Rec) : List Nat → ReadResult × State
  | [] => (.data [] [], s)
  | n :: ns =>
    match pieceRefusal s who p ga n false with
    | some st => (.refused st ga, s)
    | none =>
      match readLines s who (.requester p) p ga ctx (pieces ga n) with
      | (.data bs bad, s1) =>
        match readPieces s1 who p (ga + n) ctx ns with
        | (.data bs' bad', s2) => (.data (bs ++ bs') (bad ++ bad'), s2)
        | r => r
      | r => r

/-- Read n bytes at global address ga with the rights of partition p. -/
def readGlobal (s : State) (who : Requester) (p : Nat) (ga : Word) (n : Nat) (ctx : Rec → Rec := id) : ReadResult × State :=
  readPieces s who p ga.toNat ctx (judgedPieces ga.toNat n)

/-- Write bytes at one target. Answers the status; a peer target answers OK with the line left to the transport. A core's write into the store of its own tile is no
remote one (R144). -/
def writeTarget (s : State) (who : Requester) (t : Target) (bs : List Byte) : Nat × State :=
  match t with
  | .mem d o =>
    let (ok, s) := writeKey s (keyMem d o) bs
    (if ok then stOK else stUncorrectable, s)
  | .store k o =>
    match who with
    | .task slot n => if n = k ∧ (tile s k).slot = some slot then (stOK, ownWrite s k o bs) else remoteWrite s k who o bs
    | _ => remoteWrite s k who o bs
  | .host a => if hostUp s then (stOK, { s with mem := memPut s.mem (keyHost a) bs }) else (stHostAbort, s)
  | .remote _ _ => (stOK, s)
  | .mmio _ => (stPrivileged, s)
  | .refused st => (st, s)

/-- Write bytes at global address ga, line by line: every line that is not refused is written, and the first
refusal met is answered with its address. -/
def writeLines (s : State) (who : Requester) (p : Nat) (ga : Nat) (bs : List Byte) : List Nat → (Nat × Nat) × State
  | [] => ((stOK, 0), s)
  | n :: ns =>
    let (st, s1) := writeTarget s who (resolve s who p (BitVec.ofNat 64 ga) true) (bs.take n)
    let (r, s2) := writeLines s1 who p (ga + n) (bs.drop n) ns
    (if st = stOK then r else (st, ga), s2)

/-- Whether an access meets a row that a soft repair holds (R268): its controller has it wait, so a command that makes it does nothing and is sent again once the row is
released (DESIGN CHOICE, log entry 82). -/
def meetsHeld (s : State) (who : Requester) (p : Nat) (ga : Word) (n : Nat) (write : Bool) : Bool :=
  !s.memc.repairs.isEmpty && (List.range (ceilDiv (ga.toNat % 64 + n) 64)).any fun i =>
    match resolve s who p (BitVec.ofNat 64 (ga.toNat / 64 * 64 + 64 * i)) write with
    | .mem d o => rowHeld s d o
    | _ => false

/-- Whether an address names a peer module. -/
def isRemote (s : State) (who : Requester) (p : Nat) (ga : Word) : Bool :=
  match resolve s who p ga true with
  | .remote _ _ => true
  | _ => false

/-- Write the pieces of an access one after the other: a piece that is refused as a whole writes nothing. -/
def writeOps (s : State) (who : Requester) (p : Nat) (ga : Nat) (bs : List Byte) : List Nat → (Nat × Nat) × State
  | [] => ((stOK, 0), s)
  | n :: ns =>
    let (f, s1) :=
      match pieceRefusal s who p ga n true with
      | some st => ((st, ga), s)
      | none => writeLines s who p ga (bs.take n) (pieces ga n)
    let (r, s2) := writeOps s1 who p (ga + n) (bs.drop n) ns
    (if f.1 = stOK then r else f, s2)

/-- Write bytes at global address ga with the rights of partition p. -/
def writeGlobal (s : State) (who : Requester) (p : Nat) (ga : Word) (bs : List Byte) : (Nat × Nat) × State :=
  writeOps s who p ga.toNat bs (judgedPieces ga.toNat bs.length)

end Sys2Proof.Machine
end

