-- ==== Sys2Proof/Machine/TaskOps.lean ====
section
/-! DEFINITION. Tasks and graphs: descriptor fields (Table 2.5), task states (Table 2.14), dependences and gates (R46, R54), the ways a task ends
(R51, R56, R57, R127) and when a graph is finished (R45). -/

namespace Sys2Proof.Machine

/-! ### Descriptor fields (Tables 2.4 and 2.5) -/

/-- WCD of a task descriptor. -/
def Node.wcd (n : Node) : Nat := db n.words 4 55 32
/-- ENERGY in µJ, twice that of the descriptor for a shadow run (R348). -/
def Node.energy (n : Node) : Nat := (if n.twice then 2 else 1) * db n.words 4 31 8
/-- COLS, twice that of the descriptor for a shadow run (R348). -/
def Node.cols (n : Node) : Nat := (if n.twice then 2 else 1) * db n.words 5 52 48
/-- ROWS. -/
def Node.rows (n : Node) : Nat := db n.words 5 44 40
/-- IMAGE_BYTES. -/
def Node.imageBytes (n : Node) : Nat := db n.words 5 31 0
/-- STREAM, when STREAM_VALID is 1. -/
def Node.stream (n : Node) : Option Nat := if db n.words 11 20 20 = 1 then some (db n.words 11 19 0) else none
/-- The launch cost in core cycles (R49). -/
def Node.launch (n : Node) : Nat := 850 + ceilDiv n.imageBytes 128
/-- Successor range: first edge entry and count. -/
def Node.succs (n : Node) : Nat × Nat := (db n.words 1 63 32, db n.words 0 15 0)

/-- A new task's node. -/
def Node.fresh (ws : List Word) : Node :=
  { words := ws, state := .waiting, deps := db ws 0 31 16, age := 0, restarted := false, nOverrun := 0, nFence := 0, slot := none,
    why := 0, passed := 0, passedNow := false, reserved := false, resetTick := 0, overrun := false, region := none, twice := false }

/-- The partition of a graph: that of its queue (R40). -/
def Graph.part (g : Graph) : Nat := g.queue / 16

/-- GRAPH_TAG. -/
def Graph.tag (g : Graph) : Word := dw g.hdr 4

/-- The successors' indices of node k of a graph (R35). -/
def Graph.succsOf (g : Graph) (k : Nat) : List Nat :=
  match g.nodes[k]? with
  | some n => (g.edges.drop n.succs.1).take n.succs.2 |>.map (· % 65536)
  | none => []

/-- Whether a state is terminal. -/
def TaskState.terminal : TaskState → Bool
  | .done => true
  | .faulted => true
  | .cancelled => true
  | _ => false

/-- Whether a task has been admitted and not ended. -/
def TaskState.admitted : TaskState → Bool
  | .launching => true
  | .running => true
  | .resetting => true
  | _ => false

/-! ### Graphs in flight -/

/-- The graph with a fetch sequence number. -/
def graph? (s : State) (seq : Nat) : Option Graph := s.tge.graphs.find? fun g => g.seq == seq

/-- Change the graph with a sequence number. -/
def updGraph (s : State) (seq : Nat) (f : Graph → Graph) : State :=
  { s with tge := { s.tge with graphs := s.tge.graphs.map fun g => if g.seq = seq then f g else g } }

/-- A graph with node k changed. -/
def Graph.updNode (g : Graph) (k : Nat) (f : Node → Node) : Graph :=
  { g with nodes := g.nodes.modify k f }

/-- Change node k of a graph. -/
def updNode (s : State) (seq k : Nat) (f : Node → Node) : State := updGraph s seq fun g => g.updNode k f

/-- Node k of a graph. -/
def node? (s : State) (seq k : Nat) : Option Node := (graph? s seq).bind fun g => g.nodes[k]?

/-- Whether a graph is done with: validated (or refused), every task terminal and every synchronous append reported (R45). -/
def Graph.complete (g : Graph) : Bool :=
  g.validated && decide (g.appends = 0) && (g.status.isSome || g.nodes.all fun n => n.state.terminal)

/-- Mark graphs that have become finished with the present cycle (R45). -/
def settleGraphs (s : State) : State :=
  { s with tge := { s.tge with graphs := s.tge.graphs.map fun g =>
      if g.finished.isNone && g.complete then { g with finished := some s.clk.cyc } else g } }

/-! ### Gates (R54) -/

/-- A gate's VALUE. -/
def gate (s : State) (p g : Nat) : Nat := fg s F.TGE_GATE_VALUE p g

/-- Whether a waiting node may become ELIGIBLE: its counter is at zero and its gate condition holds. -/
def Node.runnable (s : State) (p : Nat) (n : Node) : Bool :=
  decide (n.deps = 0) && (decide (db n.words 1 31 31 = 0) || decide (db n.words 2 63 32 ≤ gate s p (db n.words 1 25 16)))

/-- WAITING tasks that have become runnable become ELIGIBLE, with the present Meridian time as their age (R46, R47). -/
def evalWaiting (s : State) : State :=
  { s with tge := { s.tge with graphs := s.tge.graphs.map fun g =>
      if g.validated && g.status.isNone then
        { g with nodes := g.nodes.map fun n =>
            if n.state = .waiting ∧ n.runnable s g.part = true then { n with state := .eligible, age := mer s } else n }
      else g } }

/-- Set a gate and evaluate the WAIT_EN conditions again. -/
def gateSet (s : State) (p g v : Nat) : State := evalWaiting (fs s F.TGE_GATE_VALUE v p g)

/-- Add to a gate modulo 2^32 and evaluate the WAIT_EN conditions again (R54). -/
def gateAdd (s : State) (p g v : Nat) : State := gateSet s p g ((gate s p g + v) % 2 ^ 32)

/-! ### Ends of tasks -/

/-- Free a slot; its epoch stays (R47). -/
def freeSlot (s : State) (k : Nat) : State :=
  { s with tge := { s.tge with slots := SMap.set s.tge.slots k { (slotOf s k) with holder := none } },
           tasks := SMap.erase s.tasks k }

/-- The tiles of a region in row-major order of the logical grid, by the mapping in force (R158). -/
def regionTiles (s : State) (r : Region) : List Nat :=
  (rangeFrom r.row r.rows).flatMap fun y =>
    (rangeFrom r.col r.cols).filterMap fun l => (diePlace s r.die).map[l]?.map fun c => tileAt r.die y c

/-- Close the channels of a tile (R248) and its windows (R148). -/
def closeTile (t : Tile) : Tile := { t with windows := [], chanOpen := false }

/-- A tile whose region has ended: gather entries, store-engine operations and drift beats are gone, and it is free at cycle e. -/
def Tile.released (t : Tile) (e : Nat) : Tile :=
  { closeTile t with slot := none, freeAt := e, gatherI := [], gatherM := [], recent := [], laid := [], stops := [], beats := [], cons := [], douts := [], wbeats := [], outHold := [],
                     inHold := [], linkSeq := [] }

/-- Whether an operation carries a haul request of a core of one of some tiles. -/
def RemOp.ofTiles (ts : List Nat) (o : RemOp) : Bool :=
  match o.why with
  | .haul c _ => ts.contains (c / 2)
  | _ => false

/-- Reset the cores and arithmetic state of tiles; responses to their haul requests are discarded (R368). -/
def idleCores (s : State) (ts : List Nat) : State :=
  { s with cores := s.cores.filter fun (k, _) => !ts.contains (k / 2),
           ariths := s.ariths.filter fun (k, _) => !ts.contains k,
           xp := { s.xp with ops := s.xp.ops.filter fun o => !o.ofTiles ts } }

/-- The bytes that a store-engine operation has written at cycle c: its beats at the rate of R143, the last of them as its bound ends. When each beat is written is not stated
(DESIGN CHOICE, log entry 82). -/
def StopOp.written (o : StopOp) (c : Nat) : Nat :=
  let (lead, rate) := if o.copy then (12, 4) else (8, 8)
  min o.len (64 * (rate * (c - (o.start + lead))))

/-- The store-engine operation in progress on a tile is abandoned: beats already written remain (Table 5.4). -/
def abandonStop (s : State) (n : Nat) : State :=
  match (tile s n).stops with
  | [] => s
  | o :: _ =>
    let k := o.written s.clk.cyc
    if k = 0 then s
    else if o.copy then
      let (bs, bad, s) := readKey s (.requester (((tile s n).slot.bind (task? s)).elim 0 fun t => t.part)) (keyTile n o.src) k id
      ownWrite s n o.dst (match bad with
        | [] => bs
        | w :: _ => bs.take ((w - keyTile n o.src) / 64 * 64))
    else ownWrite s n o.dst ((List.replicate (k / 8) (bytesOf 8 o.pat.toNat)).flatten)

/-- Stop the cores of a region: they execute nothing more, windows and channels close, and what is in flight in the tiles is abandoned (R83, R127, R148, R152, R165, R248). DESIGN
CHOICE: the outputs of an overrun task are undefined (R56); they stay as they were written up to the boundary, and nothing is written in the 16 cycles after it (log entry 82). -/
def stopRegion (s : State) (ts : List Nat) : State :=
  let s := idleCores (ts.foldl abandonStop s) ts
  ts.foldl (fun s n => updTile s n fun t => { t.released t.freeAt with slot := t.slot }) s

/-- Free the tiles of a region at cycle e. -/
def freeTiles (s : State) (ts : List Nat) (e : Nat) : State :=
  let s := ts.foldl (fun s n => updTile s n fun t => t.released e) (idleCores s ts)
  { s with tge := { s.tge with noFit := [] } }

/-- Context fields of a record for the task in a slot (R364); a command's record has its stream already. -/
def taskCtx (s : State) (slot : Nat) (r : Rec) : Rec :=
  match task? s slot with
  | none => r
  | some t =>
    { r with part := some t.part, epoch := partEpoch s t.part, stream := r.stream.orElse fun _ => t.stream,
             task := some (t.epoch, slot, t.node, ((graph? s t.gseq).map Graph.tag).getD 0), graph := some t.gseq }

/-- The tile field of a record: physical tile, logical tile and core. -/
def tileCtx (s : State) (n : Nat) (mover : Bool) (r : Rec) : Rec := { r with tile := some (n, (logicalOf s n).getD 0, mover) }

/-- The transitive successors of node k, k itself not among them. Every edge points to a higher index. -/
def Graph.descendants (g : Graph) (k : Nat) : List Nat :=
  (List.range g.nodes.length).foldl (fun acc i => if i = k ∨ i ∈ acc then acc ++ (g.succsOf i).filter (fun j => !acc.contains j) else acc) []

/-- Cancel a node that has not been admitted (R46); one that holds a slot frees it. -/
def cancelNode (s : State) (seq k : Nat) : State :=
  match node? s seq k with
  | some n =>
    if n.state.terminal || n.state.admitted then s
    else
      let s := updNode s seq k fun n => { n with state := .cancelled, slot := none }
      match n.slot with
      | some x => freeSlot s x
      | none => s
  | none => s

/-- Cancel what a FAULTED node k takes with it (R51): every unadmitted task of the graph under ABORT_ON_FAULT, else the transitive successors. -/
def cancelAfterFault (s : State) (seq k : Nat) : State :=
  match graph? s seq with
  | none => s
  | some g =>
    if db g.hdr 0 51 51 = 1 then
      let s := updGraph s seq fun g => { g with aborted := true }
      (List.range g.nodes.length).foldl (fun s j => cancelNode s seq j) s
    else (g.descendants k).foldl (fun s j => cancelNode s seq j) s

/-- A node becomes FAULTED with the reason that its graph's status takes (Table 2.13); its slot is freed and dependents are cancelled. -/
def faultNode (s : State) (seq k why : Nat) : State :=
  let sl := (node? s seq k).bind fun n => n.slot
  let s := updNode s seq k fun n => { n with state := .faulted, why := why, slot := none }
  let s := match sl with
    | some x => freeSlot s x
    | none => s
  settleGraphs (cancelAfterFault s seq k)

/-- A node becomes DONE: its post gate is added to, its successors' counters are decremented and its slot is freed (R46, R54). -/
def doneNode (s : State) (seq k : Nat) : State :=
  match graph? s seq, node? s seq k with
  | some g, some n =>
    let s := updNode s seq k fun n => { n with state := .done, slot := none }
    let s := match n.slot with
      | some x => freeSlot s x
      | none => s
    let s := (g.succsOf k).foldl (fun s j => updNode s seq j fun m => { m with deps := m.deps - 1 }) s
    let s := if db n.words 1 15 15 = 1 then gateAdd s g.part (db n.words 1 9 0) (db n.words 2 31 0) else evalWaiting s
    settleGraphs s
  | _, _ => s

/-- Core cycles of a context reset's bound, 20 µs (R55, Table 2.14). -/
def resetCycles : Nat := 34000

/-- A fault against a task's context other than TICK_OVERRUN and a fenced tile (R46, R127): the record is queued, the region stops and is reset at context level, and the task
becomes FAULTED. -/
def faultTask (s : State) (slot : Nat) (r : Rec) : State :=
  match task? s slot with
  | none => s
  | some t =>
    let s := emit s (taskCtx s slot { r with action := 1 })
    let s := if r.cls = 1 ∧ r.cause = 0x23 then finc s F.GUARD_INTEGRITY_COUNT_TRIPS 1 t.part else s
    let s := freeTiles (stopRegion s t.tiles) t.tiles (s.clk.cyc + resetCycles)
    faultNode s t.gseq t.node (if t.shadow = 0 then 1 else 0x100 + r.cause)

/-- An Edley exception (R127): cause code, raising core, PC and auxiliary word. One raised at the closing boundary or later is discarded (Table 4.16). -/
def raise (s : State) (slot : Nat) (c : CoreRef) (code : Nat) (pc aux : Word) (stream : Option Nat := none) : State :=
  if cycleAt s (closing s) ≤ s.clk.cyc then s
  else faultTask s slot (tileCtx s c.tile c.mover { blankRec s 0x01 code 1 with pc := pc.toNat, aux := aux, stream := stream })

/-- A task enters RESETTING (R46): its region stops and keeps its tiles until the reset completes. One that is RESETTING keeps the cause detected first (R387). -/
def enterResetting (s : State) (slot : Nat) (overrun : Bool) : State :=
  match task? s slot with
  | none => s
  | some t =>
    let s := stopRegion s t.tiles
    updNode s t.gseq t.node fun n =>
      if n.state = .resetting then n else { n with state := .resetting, overrun := overrun, resetTick := (rd s .tgeTickNow).toNat }

/-- Give a node a new epoch of its slot (R47). -/
def bumpEpoch (s : State) (slot : Nat) : State :=
  let x := slotOf s slot
  { s with tge := { s.tge with slots := SMap.set s.tge.slots slot { x with epoch := (x.epoch + 1) % 256 } } }

/-- A graph finishes validation with a failing status (R37, R38): code, DETAIL, whether no node is named, and the node. -/
def failGraph (s : State) (seq code detail : Nat) (noNode : Bool) (nd : Nat) : State :=
  settleGraphs (updGraph s seq fun g => { g with validated := true, status := some (code, detail, noNode, nd) })

/-- Orders tasks by age (R47): older first, a restarted task before others of its age, then by fetch order and node index. -/
def ageBefore (a b : Nat × Nat × Node) : Bool :=
  let (ga, ka, na) := a
  let (gb, kb, nb) := b
  decide (na.age < nb.age) ||
  (decide (na.age = nb.age) &&
    ((na.restarted && !nb.restarted) ||
     (na.restarted == nb.restarted && (decide (ga < gb) || (decide (ga = gb) && decide (ka < kb))))))

/-- Insertion into a list sorted by a strict order. -/
def insertBy {α : Type} (lt : α → α → Bool) (x : α) : List α → List α
  | [] => [x]
  | y :: ys => if lt y x then y :: insertBy lt x ys else x :: y :: ys

/-- A list sorted by a strict order, equal elements in their given order. -/
def sortBy {α : Type} (lt : α → α → Bool) : List α → List α
  | [] => []
  | x :: xs => insertBy lt x (sortBy lt xs)

/-- The nodes in flight that are in a given state: graph sequence number, index, node. -/
def nodesIn (s : State) (st : TaskState) : List (Nat × Nat × Node) :=
  s.tge.graphs.flatMap fun g =>
    if g.validated && g.status.isNone then
      g.nodes.zipIdx.filterMap fun (n, k) => if n.state = st then some (g.seq, k, n) else none
    else []

end Sys2Proof.Machine
end

