-- ==== Sys2Proof/Machine/Wire.lean ====
section
/-! DEFINITION. The bits that travel on a fabric cable: link blocks with their header and CRC (R276, R278), the dealing of symbols to lanes (R276), and the flits of packets
(R297, R298, R403). -/

namespace Sys2Proof.Machine

/-! ### Link blocks -/

/-- One bit of the CRC-16 with polynomial 0x1021. -/
def crc16Bit (c : Nat) : Nat := if 0x8000 ≤ c then Nat.xor (2 * c % 0x10000) 0x1021 else 2 * c

/-- One byte of the CRC, its highest bit first. -/
def crc16Byte (c b : Nat) : Nat := crc16Bit (crc16Bit (crc16Bit (crc16Bit (crc16Bit (crc16Bit (crc16Bit (crc16Bit (Nat.xor c (b * 256)))))))))

/-- The CRC of header bits [39:16] and the payload, from the initial value 0xFFFF (R278). -/
def blockCrc (high : Nat) (bs : List Byte) : Nat :=
  bs.foldl (fun c b => crc16Byte c b.toNat) (crc16Byte (crc16Byte (crc16Byte 0xFFFF (high / 65536 % 256)) (high / 256 % 256)) (high % 256))

/-- The payload bytes of a block (R276). -/
def blockBytes : Nat := 1280

/-- A payload as a block carries it: 1,280 bytes. -/
def blockPayload (bs : List Byte) : List Byte := fit blockBytes bs

/-- A block header (Table 11.2): TYPE, NAK, SEQ, ACK and the CRC over a payload. -/
def blockHead (typ : Nat) (nak : Bool) (seq ack : Nat) (bs : List Byte) : BitVec 40 :=
  let high := typ % 4 * 2 ^ 22 + nak.toNat * 2 ^ 21 + seq % 1024 * 2 ^ 11 + ack % 1024 * 2
  BitVec.ofNat 40 (high * 65536 + blockCrc high (blockPayload bs))

/-- TYPE of a header. -/
def headType (h : BitVec 40) : Nat := h.toNat / 2 ^ 38
/-- NAK of a header. -/
def headNak (h : BitVec 40) : Bool := decide (h.toNat / 2 ^ 37 % 2 = 1)
/-- SEQ of a header. -/
def headSeq (h : BitVec 40) : Nat := h.toNat / 2 ^ 27 % 1024
/-- ACK of a header. -/
def headAck (h : BitVec 40) : Nat := h.toNat / 2 ^ 17 % 1024

/-- Whether a block's CRC is correct. -/
def crcRight (h : BitVec 40) (bs : List Byte) : Bool := decide (h.toNat % 65536 = blockCrc (h.toNat / 65536) (blockPayload bs))

/-- The symbols of a codeword. -/
def codewordSymbols : Nat := 544

/-- The lane that carries symbol i of a codeword: the lanes of LANE_MAP take the symbols in turn, from the lowest on (R276). -/
def symbolLane (map i : Nat) : Nat :=
  let lanes := (List.range 8).filter fun l => decide (map / 2 ^ l % 2 = 1)
  nth lanes (i % max 1 lanes.length) 0

/-- The most symbol errors of a codeword that are corrected (R277). -/
def fecLimit : Nat := 15

/-! ### Packets -/

/-- The header flit of a packet (Table 12.1). -/
def headerWords (pk : Packet) : List Word :=
  [BitVec.ofNat 64 (pk.op % 64 * 2 ^ 58 + pk.dst % 2 ^ 18 * 2 ^ 40 + pk.src % 2 ^ 18 * 2 ^ 22 + pk.epoch % 256 * 2 ^ 14 + pk.unit % 4 * 2 ^ 12 +
     pk.enc.toNat * 2 ^ 11 + pk.lines % 32 * 2 ^ 6 + pk.plane % 64),
   BitVec.ofNat 64 (pk.opId % 2 ^ 32 * 2 ^ 32 + pk.tile % 1024), pk.target, BitVec.ofNat 64 pk.time,
   BitVec.ofNat 64 (pk.status % 256 * 2 ^ 56 + pk.lineMask % 2 ^ 16 * 2 ^ 40 + pk.echo % 256 * 2 ^ 32 + pk.hkind % 256), pk.w5, pk.bound, 0]

/-- The operations of Table 12.2. -/
def knownOp (op : Nat) : Bool := [0x00, 0x01, 0x02, 0x03, 0x04, 0x08, 0x09, 0x0C, 0x0D, 0x0E].contains op

/-- Whether a header breaks R298: a reserved OP, or a bit set that Table 12.1 reserves for it. -/
def headerReserved (ws : List Word) : Bool :=
  let op := db ws 0 63 58
  let coll := op == 0x08 || op == 0x09
  !knownOp op || decide (db ws 1 31 10 ≠ 0) || decide (db ws 4 31 8 ≠ 0) || decide (dw ws 7 ≠ 0) ||
  (if coll then decide (db ws 5 7 0 ≠ 0) else op != 0x0E && decide (dw ws 5 ≠ 0)) || (op != 0x08 && op != 0x0E && decide (dw ws 6 ≠ 0))

/-- The packet that a header flit announces, before its payload. -/
def packetOfWords (ws : List Word) : Packet :=
  { op := db ws 0 63 58, dst := db ws 0 57 40, src := db ws 0 39 22, epoch := db ws 0 21 14, unit := db ws 0 13 12, enc := db ws 0 11 11 == 1,
    lines := db ws 0 10 6, plane := db ws 0 5 0, opId := db ws 1 63 32, tile := db ws 1 9 0, target := dw ws 2, time := (dw ws 3).toNat,
    status := db ws 4 63 56, lineMask := db ws 4 55 40, echo := db ws 4 39 32, hkind := db ws 4 7 0, w5 := dw ws 5, bound := dw ws 6,
    ctr := 0, sess := 0, reserved := headerReserved ws, payload := [], wire := [] }

/-- The payload flits of a packet (Table 12.2). -/
def payloadFlits (pk : Packet) : Nat := if [0x00, 0x01, 0x04, 0x09, 0x0C, 0x0D, 0x0E].contains pk.op then 0 else pk.lines

/-- Bytes cut into pieces of 64. -/
def cut64 : Nat → List Byte → List (List Byte)
  | 0, _ => []
  | n + 1, bs => bs.take 64 :: cut64 n (bs.drop 64)

/-- The flits of a packet: the header, the payload, and a tag where ENC is 1 (R297). -/
def flitsOf (pk : Packet) : List (List Byte) :=
  let n := payloadFlits pk
  bytesOfWords (headerWords pk) :: if pk.enc then cut64 (n + 1) (fit (64 * (n + 1)) pk.wire) else cut64 n (fit (64 * n) pk.payload)

/-- The first packet of a sequence of flits, with the flits that follow it: null flits are passed over. None while it is not whole. -/
def nextPacket : List (List Byte) → Option (Packet × List (List Byte))
  | [] => none
  | f :: fs =>
    if f.all (· == 0) then nextPacket fs
    else
      let pk := packetOfWords (wordsOf 8 f)
      let n := payloadFlits pk
      let body := fs.take n
      if fs.length < n + pk.enc.toNat then none
      else if pk.enc then
        let tag := wordsOf 8 (nth fs n [])
        some ({ pk with ctr := (dw tag 0).toNat, sess := db tag 1 15 0, wire := (fs.take (n + 1)).flatten }, fs.drop (n + 1))
      else some ({ pk with payload := body.flatten }, fs.drop n)

/-- Flits of the packets that wait, up to a number, in order: for each packet the flits it sends now, after those it has sent; and what is left. A header that leaves takes the
time. -/
def takeFlits (now : Nat) : Nat → List (Packet × Nat) → List (Packet × Nat × List (List Byte)) × List (Packet × Nat)
  | _, [] => ([], [])
  | room, (pk, k) :: rest =>
    if room = 0 then ([], (pk, k) :: rest)
    else
      let pk := if k = 0 then { pk with time := now } else pk
      let fl := (flitsOf pk).drop k
      if fl.length ≤ room then
        let (a, b) := takeFlits now (room - fl.length) rest
        ((pk, k, fl) :: a, b)
      else ([(pk, k, fl.take room)], (pk, k + room) :: rest)

/-! ### Protection on the wire (R403) -/

/-- The IV of a direction: its salt and the counter. -/
def packetIv (salt : List Byte) (ctr : Nat) : List Byte := salt ++ bytesOf 8 ctr

/-- The additional data of a packet: its header with PLANE and SEND_TIME 0. -/
def packetAad (pk : Packet) : List Byte := bytesOfWords (headerWords { pk with plane := 0, time := 0 })

/-- The payload and tag flits of a packet as they travel, under the key and salt of the sending direction. -/
def sealWire (key salt : List Byte) (pk : Packet) : List Byte :=
  let n := 64 * payloadFlits pk
  let iv := packetIv salt pk.ctr
  let c := fit n (Config.gcmSeal key iv (packetAad pk) (fit n pk.payload))
  c ++ fit 64 (bytesOf 8 pk.ctr ++ bytesOf 8 pk.sess ++ fit 16 (Config.gcmTag key iv (packetAad pk) c))

/-- Open a packet that has travelled: whether its tag verifies, and the packet with its payload in clear. -/
def openWire (key salt : List Byte) (pk : Packet) : Bool × Packet :=
  let n := 64 * payloadFlits pk
  let iv := packetIv salt pk.ctr
  let c := pk.wire.take n
  (slice pk.wire (n + 16) 16 == fit 16 (Config.gcmTag key iv (packetAad pk) c),
   { pk with payload := fit n (Config.gcmOpen key iv (packetAad pk) c) })

end Sys2Proof.Machine
end

