-- ==== Sys2Proof/Machine/XportOps.lean ====
section
/-! DEFINITION. Issuing fabric operations: home ports and their turns (R299), exclusions (R300), splitting of a transfer (R303), sending and resending
(R305), and reads of a peer's memory for the engines. -/

namespace Sys2Proof.Machine

/-- STATE code of an ACTIVE port (Table 11.4). -/
def portActive : Nat := 6

/-- The fabric ports of section k: four of its die (R3, R14). -/
def portsOfSection (k : Nat) : List Nat := rangeFrom (k / 2 * 8 + k % 2 * 4) 4

/-- A partition's home ports: its sections' ports in state ACTIVE (R299). -/
def homePorts (s : State) (p : Nat) : List Nat :=
  ((sectionsOf s p).flatMap portsOfSection).filter fun n => portEnabled s n && decide (fg s F.PORT_LINK_STATUS_STATE n = portActive)

/-- The turns of a list of ports: one for a port at x4 and two for a port at x8 (R299). -/
def portTurns (s : State) (ns : List Nat) : List Nat :=
  ns.flatMap fun n => if fg s F.PORT_LINK_STATUS_WIDTH n = 8 then [n, n] else [n]

/-- Whether plane n is excluded for a device ID now (R300). -/
def excluded (s : State) (id n : Nat) : Bool := s.xp.excl.any fun (d, k, t) => d == id && k == n && decide (mer s < t)

/-- The home port for the next packet of partition p to an ID, given the ports an operation has used: excluded planes are skipped unless all are, and an unused port is
taken while one remains (R299, R300). -/
def choosePort (s : State) (p id : Nat) (used : List Nat) : Option (Nat × State) :=
  let home := homePorts s p
  let ok := home.filter fun n => !excluded s id n
  let c := if ok.isEmpty then home else ok
  let fresh := c.filter fun n => !used.contains n
  let turns := portTurns s (if fresh.isEmpty then c else fresh)
  match turns with
  | [] => none
  | t0 :: _ =>
    let k := SMap.get 0 s.xp.turns p
    some (nth turns (k % turns.length) t0, { s with xp := { s.xp with turns := SMap.set s.xp.turns p (k + 1) } })

/-- A header of partition p's with every variable field 0 (Table 12.1). -/
def blankPacket (s : State) (p op dst : Nat) : Packet :=
  { op := op, dst := dst, src := (devId s p).getD 0, epoch := partEpoch s p, unit := 0, enc := false, lines := 0, plane := 0,
    opId := 0, tile := 0, target := 0, time := mer s, status := 0, lineMask := 0, echo := 0, hkind := 0, w5 := 0,
    bound := 0, ctr := 0, sess := 0, reserved := false, payload := [], wire := [] }

/-! ### Sessions at the sender (R403) -/

/-- The operations that a confidential partition protects. -/
def protectedOp (op : Nat) : Bool := !(op == 0x00 || op == 0x0C || op == 0x0D || op == 0x0E)

/-- The packet as a confidential partition sends it: under its newest ACTIVE session with the destination, whose counter moves on. -/
def sealPacket (s : State) (pk : Packet) : Packet × State :=
  match partOfId s pk.src with
  | none => (pk, s)
  | some p =>
    if !confOn s p || !protectedOp pk.op then (pk, s)
    else
      match sessionTo s p pk.dst with
      | none => (pk, s)
      | some k =>
        let x := session s p k
        let pk := { pk with enc := true, ctr := x.tx, sess := x.peer }
        ({ pk with wire := sealWire x.keyTx x.saltTx pk }, setSession s p k { x with tx := x.tx + 1 })

/-- Why partition p can send nothing to an ID: NO_DEVID, NO_PLANE, or AUTH_FAIL where it is confidential and has no session (R296, R299, R403). -/
def sendRefusal (s : State) (p id : Nat) : Option Nat :=
  if (devId s p).isNone then some stNoDevid
  else if (homePorts s p).isEmpty then some stNoPlane
  else if confOn s p && (sessionTo s p id).isNone then some stAuthFail
  else none

/-! ### Addresses of the physical function (R462) -/

/-- The PF's own partition. -/
def pfPart (s : State) : Nat := fg s F.HOST_PF_CTL_BAR2_PART

/-- Whether an access of the PF with space tag 0b00 is refused: its own partition does not exist or is confidential. -/
def pfRefused (s : State) (ga : Word) : Bool :=
  decide (getBits ga 63 62 = 0) && (!partExists s (pfPart s) || confOn s (pfPart s))

/-- Write bytes within the module or to the host at an address of the PF: whether it could be done. -/
def pfPut (s : State) (ga : Word) (bs : List Byte) : Bool × State :=
  if pfRefused s ga || isRemote s (.pf (pfPart s)) (pfPart s) ga then (false, s)
  else
    let ((st, _), s) := writeGlobal s (.pf (pfPart s)) (pfPart s) ga bs
    (decide (st = stOK), s)

/-! ### Ports -/

/-- The link record of a port. -/
def link (s : State) (n : Nat) : Link := SMap.get Link.fresh s.links n

/-- Change the link record of a port. -/
def updLink (s : State) (n : Nat) (f : Link → Link) : State := { s with links := SMap.set s.links n (f (link s n)) }

/-- Change what a port counts in the present Tick. -/
def updTick (s : State) (n : Nat) (f : PortTick → PortTick) : State := updLink s n fun k => { k with tick := f k.tick }

/-! ### Sampled headers (R318) -/

/-- The sample record of a header at port n (Table 12.9). -/
def sampleRecord (s : State) (n : Nat) (pk : Packet) (rx : Bool) : List Byte :=
  bytesOfWords [BitVec.ofNat 64 (mer s),
    BitVec.ofNat 64 (pk.src * 2 ^ 46 + pk.dst * 2 ^ 28 + pk.op * 2 ^ 22 + pk.lines * 2 ^ 17 + rx.toNat * 2 ^ 16 + n * 2 ^ 10), 0, 0]

/-- The sampling shift register of a port's direction moves on by a header: its new value. -/
def stepLfsr (s : State) (n : Nat) (rx : Bool) : BitVec 32 × State :=
  let k := link s n
  let x := Config.lfsrNext ((if rx then k.lfsrRx else k.lfsrTx).getD (Config.lfsrSeed n rx))
  (x, updLink s n fun k => if rx then { k with lfsrRx := some x } else { k with lfsrTx := some x })

/-- A header that a port sends or receives is sampled when the low SAMPLE_LOG2 bits of its shift register are 0. A record for a peer's memory waits to be sent; one that the PF may not
write is dropped. -/
def sampleHeader (s : State) (n : Nat) (pk : Packet) (rx : Bool) : State :=
  if !fb s F.PORT_SAMPLE_CTL_EN then s
  else
    let (x, s) := stepLfsr s n rx
    if x.toNat % 2 ^ max 1 (fg s F.PORT_SAMPLE_CTL_SAMPLE_LOG2) ≠ 0 then s
    else
      let i := fg s F.PORT_SAMPLE_HEAD_INDEX
      let ga := BitVec.ofNat 64 ((rd s .portSampleBase).toNat + 32 * i)
      let bs := sampleRecord s n pk rx
      let (ok, s) := if isRemote s (.pf (pfPart s)) (pfPart s) ga then
          (true, { s with xp := { s.xp with samples := s.xp.samples ++ [(mer s, ga, bs)] } })
        else pfPut s ga bs
      if ok then fs s F.PORT_SAMPLE_HEAD_INDEX ((i + 1) % 2 ^ fg s F.PORT_SAMPLE_CTL_SIZE_LOG2) else finc s F.PORT_SAMPLE_HEAD_DROPPED

/-! ### Blocks (R276 to R280) -/

/-- Payload bytes of a packet. -/
def packetSize (pk : Packet) : Nat := if pk.op = 0x01 then 0 else 64 * pk.lines

/-- Blocks of a replay buffer (R280). -/
def replayBlocks : Nat := 512

/-- A block leaves on a port with the ACK and NAK of the moment (Table 11.2). -/
def emitBlock (s : State) (n typ seq : Nat) (bs : List Byte) : State :=
  let k := link s n
  let ack := (k.rxSeq + 1023) % 1024
  let s := updLink s n fun x => { x with told := (ack, k.nak) }
  { s with outs := s.outs ++ [.block n (blockHead typ k.nak seq ack bs) (blockPayload bs)] }

/-- The bytes of a numbered block's payload. -/
def Cargo.payload (c : Cargo) : List Byte :=
  match c.ctl with
  | some (kind, v) => Config.controlBytes kind v
  | none => c.bytes

/-- TYPE of a numbered block: data or link control. -/
def Cargo.typ (c : Cargo) : Nat := if c.ctl.isSome then 2 else 0

/-- A numbered block leaves, and the replay buffer keeps it (R280). -/
def putBlock (s : State) (n : Nat) (c : Cargo) : State :=
  let k := link s n
  let s := updLink s n fun x => { x with txSeq := (k.txSeq + 1) % 1024, held := k.held ++ [(k.txSeq, c, mer s)],
                                         ackAt := if k.held.isEmpty then mer s else k.ackAt }
  emitBlock s n c.typ k.txSeq c.payload

/-- An idle block leaves where ACK or NAK have changed since the last header (R278, R279): the next header says so. -/
def idleBlock (s : State) (n : Nat) : State :=
  let k := link s n
  if fg s F.PORT_LINK_STATUS_STATE n = portActive ∧ k.told ≠ ((k.rxSeq + 1023) % 1024, k.nak) then emitBlock s n 1 k.txSeq [] else s

/-- A packet's header leaves on a port: it is counted and sampled, and a beacon's time is taken (R316). -/
def headerLeaves (s : State) (n : Nat) (pk : Packet) (queued : Nat) : State :=
  let s := updTick s n fun t => { t with tx := t.tx + packetSize pk, wait := max t.wait (mer s - queued) }
  let s := sampleHeader { s with outs := s.outs ++ [.packet n pk.op pk] } n pk false
  if pk.op = 0x0D then
    { s with sync := { s.sync with beacons := SMap.modify s.sync.beacons n fun b => { b with sent := some (mer s) } }, outs := s.outs ++ [.beacon n (mer s)] }
  else s

/-- The flits of the packets that wait fill the next block: 20 positions, null flits after the last (R276, R297). -/
def sendBlock (s : State) (n : Nat) : State :=
  let q := (link s n).txq
  let (sent, rest) := takeFlits (mer s) 20 q
  let s := updLink s n fun x => { x with txq := rest }
  let s := (sent.zip q).foldl (fun s (x, y) => if y.2 = 0 then headerLeaves s n x.1 y.1.time else s) s
  putBlock s n { ctl := none, bytes := sent.flatMap fun x => x.2.2.flatten, packets := sent.map (·.1) }

/-- Blocks leave, link control messages first, while the replay buffer has room. -/
def pumpBlocks : Nat → State → Nat → State
  | 0, s, _ => s
  | f + 1, s, n =>
    let k := link s n
    if replayBlocks ≤ k.held.length then s
    else match k.ctl with
      | m :: ms => pumpBlocks f (putBlock (updLink s n fun x => { x with ctl := ms }) n { ctl := some m, bytes := [], packets := [] }) n
      | [] => if k.txq.isEmpty then s else pumpBlocks f (sendBlock s n) n

/-- What waits for a port leaves while it is ACTIVE and its replay buffer has room. -/
def pump (s : State) (n : Nat) : State :=
  if fg s F.PORT_LINK_STATUS_STATE n ≠ portActive then s else pumpBlocks replayBlocks s n

/-- A link control message leaves in a numbered block (R278): at once outside ACTIVE, where CONFIG exchanges lane reports. -/
def sendControl (s : State) (n kind v : Nat) : State :=
  pumpBlocks 1 (updLink s n fun x => { x with ctl := (kind, v) :: x.ctl }) n

/-- A packet waits for its port, which sends it when it can. -/
def queuePacket (s : State) (n : Nat) (pk : Packet) : State :=
  let s := updLink s n fun x => { x with txq := x.txq ++ [(pk, 0)] }
  let deep := (((link s n).txq).map fun x => 64 + packetSize x.1).foldl (· + ·) 0
  pump (updTick s n fun t => { t with queue := max t.queue deep }) n

/-- A packet leaves on a port, sealed where its sender is confidential. -/
def sendOn (s : State) (n : Nat) (pk : Packet) : State :=
  let (pk, s) := sealPacket s { pk with plane := n, time := mer s }
  queuePacket s n pk

/-- Send a packet of partition p on the next home port towards its destination; with no home port nothing leaves. -/
def sendPacket (s : State) (p : Nat) (pk : Packet) : State :=
  match choosePort s p pk.dst [] with
  | some (n, s') => sendOn s' n pk
  | none => s

/-- The OP of an operation's request (Table 12.2). -/
def RemOp.opCode (o : RemOp) : Nat :=
  match o.why with
  | .coll _ _ _ _ => 0x08
  | _ => if o.write then 0x03 else 0x01

/-- The request packet of an operation. -/
def RemOp.packet (s : State) (o : RemOp) : Packet :=
  { blankPacket s o.part o.opCode o.dst with
    unit := o.unit, lines := o.lines, opId := o.id, tile := o.tile, target := BitVec.ofNat 64 o.la, payload := o.data,
    w5 := o.w5, bound := o.bound }

/-- Replace an outstanding operation. -/
def updOp (s : State) (id : Nat) (f : RemOp → RemOp) : State :=
  { s with xp := { s.xp with ops := s.xp.ops.map fun o => if o.id = id then f o else o } }

/-- Send (or resend) an operation on a home port it has not used while one remains (R299, R305). -/
def sendOp (s : State) (o : RemOp) : State :=
  match choosePort s o.part o.dst o.planes with
  | none => s
  | some (n, s) =>
    let s := updOp s o.id fun o => { o with sends := o.sends + 1, planes := o.planes ++ [n], sentAt := mer s, held := false }
    sendOn s n (o.packet s)

/-- Whether two operations of one core touch a common 64-byte line of one target (R307). -/
def sameLine (a b : RemOp) : Bool :=
  a.dst == b.dst && decide (a.la < b.la + 64 * b.lines) && decide (b.la < a.la + 64 * a.lines)

/-- The core of an operation, when a core's haul request made it. -/
def RemOp.core? (o : RemOp) : Option Nat :=
  match o.why with
  | .haul c _ => some c
  | _ => none

/-- Create an operation of at most 16 lines and send it, unless it must wait for an earlier one of its core (R307). -/
def issueOp (s : State) (p dst la : Nat) (write : Bool) (lines : Nat) (data : List Byte) (unit tl : Nat) (why : Purpose) : Nat × State :=
  let id := s.xp.nextOp
  let o : RemOp := { id := id, part := p, dst := dst, la := la, write := write, lines := lines, data := data, unit := unit, tile := tl,
                     why := why, sends := 0, planes := [], sentAt := mer s, held := false, w5 := 0, bound := 0 }
  let hold := o.core?.isSome && s.xp.ops.any fun q => q.core? == o.core? && sameLine q o
  let s := { s with xp := { s.xp with nextOp := (id + 1) % 2 ^ 32, ops := s.xp.ops ++ [{ o with held := hold }] } }
  (id, if hold then s else sendOp s o)

/-- Split a transfer of n bytes to a peer into operations and issue them; answers their OP_IDs. -/
def issueOps (s : State) (p dst la n : Nat) (write : Bool) (data : List Byte) (unit tl : Nat) (why : Purpose) : List Nat × State :=
  (opPieces (n / 1024 + 2) la n).foldl (fun (acc : List Nat × State) (q : Nat × Nat) =>
    let (ids, s) := acc
    let (id, s) := issueOp s p dst q.1 write (ceilDiv q.2 64) (if write then (data.drop (q.1 - la)).take q.2 else []) unit tl why
    (ids ++ [id], s)) ([], s)

/-- The key of a byte that a peer's response has brought. -/
def arrivedKey (id la : Nat) : Nat := id * 2 ^ 44 + la

/-- The bytes from a peer's memory that have arrived for the engines, when all n have. -/
def arrivedBytes (s : State) (id la n : Nat) : Option (List Byte) :=
  (rangeFrom (arrivedKey id la) n).mapM fun k => SMap.find s.xp.arrived k

/-- What an engine's read gives: the data, a refusal, or that it must wait for a peer. -/
inductive Fetch where
  | data (bytes : List Byte)
  | refused (st ga : Nat)
  | wait
deriving DecidableEq, Repr

/-- Read n bytes at a global address for an engine acting with the rights of partition p. An uncorrectable word refuses the read with MEM_UNCORRECTABLE (Table 10.5). Data of a peer is asked for once and
is delivered when its read responses have come. -/
def engineRead (s : State) (p : Nat) (ga : Word) (n : Nat) (ctx : Rec → Rec := id) (who : Requester := .engine p) : Fetch × State :=
  match readGlobal s who p ga n ctx with
  | (.data bs bad, s) => if bad.isEmpty then (.data bs, s) else (.refused stUncorrectable ga.toNat, s)
  | (.refused st a, s) => (.refused st a, s)
  | (.peer id la, s) =>
    match arrivedBytes s id la n with
    | some bs =>
      (.data bs, { s with xp := { s.xp with
        arrived := s.xp.arrived.filter fun (k, _) => !inRange k (arrivedKey id la) n } })
    | none =>
      match s.xp.failed.find? fun (d, a, _) => d == id && inRange a (la / 1024 * 1024) (la % 1024 + n) with
      | some (d, a, st) =>
        (.refused st (2 ^ 62 + d * 2 ^ 44 + a), { s with xp := { s.xp with failed := s.xp.failed.filter (· != (d, a, st)) } })
      | none =>
        match sendRefusal s p id with
        | some st => (.refused st ga.toNat, s)
        | none =>
          if s.xp.ops.any fun o => o.why == .engine && o.dst == id && decide (la / 64 * 64 ≤ o.la) && decide (o.la < la + n)
          then (.wait, s)
          else (.wait, (issueOps s p id (la / 64 * 64) (ceilDiv (la % 64 + n) 64 * 64) false [] 2 0 .engine).2)

/-- Bytes of a peer's memory for an engine: those that have arrived, which stay until `dropArrived`, or they are asked for in lines with a requester unit. -/
def peerRead (s : State) (p id la n unit : Nat) : Fetch × State :=
  match arrivedBytes s id la n with
  | some bs => (.data bs, s)
  | none =>
    match s.xp.failed.find? fun (d, a, _) => d == id && inRange a (la / 1024 * 1024) (la % 1024 + n) with
    | some (d, a, st) => (.refused st a, { s with xp := { s.xp with failed := s.xp.failed.filter (· != (d, a, st)) } })
    | none =>
      match sendRefusal s p id with
      | some st => (.refused st la, s)
      | none =>
        if s.xp.ops.any fun o => o.why == .engine && o.dst == id && decide (la / 64 * 64 ≤ o.la) && decide (o.la < la + n)
        then (.wait, s)
        else (.wait, (issueOps s p id (la / 64 * 64) (ceilDiv (la % 64 + n) 64 * 64) false [] unit 0 .engine).2)

/-- Forget what has arrived of n bytes of a peer's memory. -/
def dropArrived (s : State) (id la n : Nat) : State :=
  { s with xp := { s.xp with arrived := s.xp.arrived.filter fun (k, _) => !inRange k (arrivedKey id la) n } }

/-- Write bytes at a global address for an engine with the rights of partition p: the first refusal's status and address. Lines of a peer are sent
as operations, which the transport completes. -/
def engineWrite (s : State) (p : Nat) (ga : Word) (bs : List Byte) (who : Requester := .engine p) : (Nat × Nat) × State :=
  match resolve s who p ga true with
  | .remote id la =>
    match sendRefusal s p id with
    | some st => ((st, ga.toNat), s)
    | none => ((stOK, 0), (issueOps s p id la bs.length true bs 2 0 .engine).2)
  | _ => writeGlobal s who p ga bs

/-- Read bytes at an address of the PF (R462). -/
def pfRead (s : State) (ga : Word) (n : Nat) : Fetch × State :=
  if pfRefused s ga then (.refused stUnpopulated ga.toNat, s) else engineRead s (pfPart s) ga n id (.pf (pfPart s))

/-- Write bytes at an address of the PF (R462): status and address of the first refusal. -/
def pfWrite (s : State) (ga : Word) (bs : List Byte) : (Nat × Nat) × State :=
  if pfRefused s ga then ((stUnpopulated, ga.toNat), s) else engineWrite s (pfPart s) ga bs (.pf (pfPart s))

/-- Sample records for a peer's memory leave as writes of the PF; one that could not be sent within 1 µs is dropped (R318). -/
def flushSamples (s : State) : State :=
  if s.xp.samples.isEmpty then s
  else s.xp.samples.foldl (fun s (t, ga, bs) =>
    let ((st, _), s) := if t + 1000 < mer s then ((stBusy, 0), s) else pfWrite s ga bs
    if st = stOK then s else finc s F.PORT_SAMPLE_HEAD_DROPPED) { s with xp := { s.xp with samples := [] } }

end Sys2Proof.Machine
end

