-- ==== Sys2Proof/Machine/CollOps.lean ====
section
/-! DEFINITION. Collectives (R311 to R315): descriptors and their checks, firing, the reduction of contributions, the ends of an instance, and what a received
COLL_DATA or COLL_ACK does. -/

namespace Sys2Proof.Machine

/-! ### Descriptors (Table 12.6) -/

/-- G. -/
def collG (ws : List Word) : Nat := db ws 0 60 53 + 1
/-- RANK. -/
def collRank (ws : List Word) : Nat := db ws 0 52 45
/-- Whether elements are BF16. -/
def collBf16 (ws : List Word) : Bool := decide (db ws 0 61 61 = 1)
/-- Whether the descriptor is an all-reduce. -/
def collAll (ws : List Word) : Bool := decide (db ws 0 63 63 = 1)
/-- Bytes of an element. -/
def collBytes (ws : List Word) : Nat := if collBf16 ws then 2 else 4
/-- Elements of a 64-byte line. -/
def collLine (ws : List Word) : Nat := 64 / collBytes ws
/-- COUNT. -/
def collCount (ws : List Word) : Nat := db ws 5 31 0
/-- Elements of a shard. -/
def collShard (ws : List Word) : Nat := collCount ws / collG ws
/-- GROUP_TAG. -/
def collTag (ws : List Word) : Nat := db ws 1 63 48

/-- Read n bytes at a local address of partition p for the port engine: none where a line is refused or a word is uncorrectable, with the result code. -/
def collRead (s : State) (p la n : Nat) : Except Nat (List Byte) × State :=
  match readGlobal s (.engine p) p (BitVec.ofNat 64 la) n with
  | (.data bs bad, s) => (if bad.isEmpty then .ok bs else .error 4, s)
  | (.refused st _, s) => (.error (if st = stUncorrectable then 4 else 5), s)
  | (.peer _ _, s) => (.error 5, s)

/-- Write bytes at a local address of partition p for the port engine. -/
def collWrite (s : State) (p la : Nat) (bs : List Byte) : Bool × State :=
  let ((st, _), s) := writeGlobal s (.engine p) p (BitVec.ofNat 64 la) bs
  (decide (st = stOK), s)

/-- Whether n bytes from a local address lie in partition p's Tier 1 or Tier 2. -/
def inTiers (s : State) (p la n : Nat) : Bool :=
  decide (la + n ≤ t1Size s p) || (decide (t2Base ≤ la) && decide (la + n ≤ t2Base + t2Size s p))

/-- The member IDs of a descriptor: G 32-bit entries at GROUP_ADDR. -/
def collMembers (s : State) (p : Nat) (ws : List Word) : List Nat × State :=
  match collRead s p (dw ws 6).toNat (4 * collG ws) with
  | (.ok bs, s) => ((List.range (collG ws)).map fun k => ofBytes ((bs.drop (4 * k)).take 4) % 2 ^ 18, s)
  | (.error _, s) => ([], s)

/-- The checks of R311 on a descriptor of partition p with its member list. -/
def collValid (s : State) (p : Nat) (ws : List Word) (ids : List Nat) : Bool :=
  let g := collG ws
  let aligned := fun k => decide (db ws k 5 0 = 0)
  decide (2 ≤ g) && decide (collRank ws < g) && decide (collCount ws % (g * collLine ws) = 0) &&
  aligned 2 && aligned 3 && aligned 4 && aligned 6 &&
  inTiers s p (dw ws 2).toNat (collCount ws * collBytes ws) &&
  inTiers s p (dw ws 3).toNat ((if collAll ws then collCount ws else collShard ws) * collBytes ws) &&
  inTiers s p (dw ws 4).toNat (2 * collShard ws * 4) &&
  inTiers s p (dw ws 6).toNat (4 * g) &&
  (ids[collRank ws]?).any fun id => devId s p == some id

/-- The words of descriptor i of partition p's table, with its members; none where it cannot be read. -/
def collDescRead (s : State) (p i : Nat) : Option (List Word × List Nat) × State :=
  match collRead s p (fg s F.PORT_COLL_TABLE_BASE p * 64 + 64 * i) 64 with
  | (.ok bs, s) =>
    let ws := wordsOf 8 bs
    let (ids, s) := collMembers s p ws
    (some (ws, ids), s)
  | (.error _, s) => (none, s)

/-- The key of a descriptor. -/
def collKey (p i : Nat) : Nat := p * 256 + i

/-! ### Instances -/

/-- Whether an instance is instance seq of descriptor i of partition p. -/
def CollInst.is (c : CollInst) (p i seq : Nat) : Bool := c.part == p && c.desc == i && c.seq == seq

/-- The instance, if one is in progress or has contributions waiting. -/
def coll? (s : State) (p i seq : Nat) : Option CollInst := s.xp.colls.find? (·.is p i seq)

/-- Replace or add an instance. -/
def setColl (s : State) (c : CollInst) : State :=
  let same := fun (d : CollInst) => d.is c.part c.desc c.seq
  let cs := s.xp.colls
  let cs := if cs.any same then cs.map (fun d => if same d then c else d) else cs ++ [c]
  updXp s fun x => { x with colls := cs }

/-- The number of a partition's instances in progress goes to PORT_COLL_STATUS.ACTIVE. -/
def showColl (s : State) (p : Nat) : State :=
  fs s F.PORT_COLL_STATUS_ACTIVE (s.xp.colls.filter fun c => c.part == p && c.fired.isSome).length p

/-- Whether all lines of a shard from rank r are among those received. -/
def shardIn (ws : List Word) (l : List (Nat × Nat)) (r : Nat) : Bool :=
  decide ((l.filter fun x => x.1 == r).length = collShard ws / collLine ws)

/-- The ranks whose contribution, or for an all-reduce whose reduced shard, has not arrived. -/
def collMissing (c : CollInst) : List Nat :=
  (List.range (collG c.words)).filter fun r =>
    r != collRank c.words && !(shardIn c.words c.got r && (!collAll c.words || shardIn c.words c.red r))

/-- The status word of an instance (R315). -/
def collStatus (c : CollInst) (result : Nat) : Nat :=
  let m := if result = 0 then [] else collMissing c
  c.seq * 2 ^ 32 + result * 2 ^ 24 + m.length * 2 ^ 16 + m.headD 0 * 2 ^ 8

/-- An instance ends: its operations are no longer outstanding, the status word is written and a gate takes 1. -/
def collEnd (s : State) (c : CollInst) (result : Nat) : State :=
  let p := c.part
  let keep := fun (o : RemOp) => match o.why with
    | .coll q i n _ => !c.is q i n
    | _ => true
  let s := updXp s fun x => { x with colls := x.colls.filter fun d => !d.is p c.desc c.seq, ops := x.ops.filter keep }
  let s := showColl s p
  let s := if c.words.isEmpty then s else (collWrite s p (dw c.words 7).toNat (bytesOf 8 (collStatus c result))).2
  if result = 0 then
    finc (gateAdd s p (db c.words 0 34 25) 1) F.PORT_COLL_STATUS_DONE 1 p
  else
    let s := if c.words.isEmpty then s else gateAdd s p (db c.words 0 24 15) 1
    let s := finc s F.PORT_COLL_STATUS_FAILED 1 p
    let r := { blankRec s 0x0C result 0 with
      aux := BitVec.ofNat 64 (collTag c.words * 2 ^ 48 + c.seq % 2 ^ 32 * 2 ^ 16 + (collMissing c).headD 0 * 2 ^ 8),
      aux2 := BitVec.ofNat 64 (collStatus c result) }
    emit s (r.ofPart s p)

/-- Whether an instance has nothing left to do (R315). -/
def collComplete (s : State) (c : CollInst) : Bool :=
  c.fired.isSome && c.wrote &&
  !(s.xp.ops.any fun o => match o.why with | .coll p i n _ => c.is p i n | _ => false) &&
  (!collAll c.words || (List.range (collG c.words)).all fun r => r == collRank c.words || shardIn c.words c.red r)

/-- Whether the boundary that closes the Tick after an instance's firing Tick has come (Tables 12.7, 12.10). -/
def collLate (s : State) (c : CollInst) : Bool :=
  match c.fired with
  | some (t, _) => decide (t + 2 ≤ (rd s .tgeTickNow).toNat + (decide (closing s ≤ mer s)).toNat)
  | none => false

/-- End an instance that is complete: as lost when its deadline comes with it. -/
def collCheck (s : State) (p i seq : Nat) : State :=
  match coll? s p i seq with
  | some c => if collComplete s c then collEnd s c (if collLate s c then 1 else 0) else s
  | none => s

/-! ### Arithmetic -/

/-- The FP32 elements of a line of contributions: BF16 is widened exactly. -/
def collWiden (ws : List Word) (bs : List Byte) : List (BitVec 32) :=
  let b := collBytes ws
  (List.range (collLine ws)).map fun k =>
    let x := ofBytes ((bs.drop (b * k)).take b)
    BitVec.ofNat 32 (if collBf16 ws then x * 2 ^ 16 else x)

/-- Combine two running elements (R313). -/
def collCombine (ws : List Word) (a b : BitVec 32) : BitVec 32 :=
  if db ws 0 62 62 = 1 then (toF32 0 false (Num.max (f32 a) (f32 b))).1 else (addF32 a b).1

/-- The bytes of reduced elements in the collective's format: BF16 rounds once under RNE with SAT 0. -/
def collNarrow (ws : List Word) (xs : List (BitVec 32)) : List Byte :=
  xs.flatMap fun x => if collBf16 ws then bytesOf 2 (bf16.encode 0 false 0 (f32 x)).1 else bytesOf 4 x.toNat

/-- FP32 elements as bytes. -/
def bytesOfF32 (xs : List (BitVec 32)) : List Byte := xs.flatMap fun x => bytesOf 4 x.toNat

/-- The FP32 elements that bytes hold. -/
def f32sOf (n : Nat) (bs : List Byte) : List (BitVec 32) :=
  (List.range n).map fun k => BitVec.ofNat 32 (ofBytes ((bs.drop (4 * k)).take 4))

/-- The local address in STAGE of element offset off of the own shard. -/
def stageAddr (c : CollInst) (off : Nat) : Nat :=
  let n := collShard c.words
  (dw c.words 4).toNat + (c.seq % 2 * n + (off - collRank c.words * n)) * 4

/-- Combine one line of a contribution from rank r at element offset off (R313); an error answers the RESULT that fails the instance. -/
def collLineIn (s : State) (c : CollInst) (r off : Nat) (bs : List Byte) : Except Nat CollInst × State :=
  if c.got.contains (r, off) then (.ok c, s)
  else
    let xs := collWiden c.words bs
    let c' := { c with got := c.got ++ [(r, off)] }
    let store := fun (s : State) (ys : List (BitVec 32)) =>
      let (ok, s) := collWrite s c.part (stageAddr c off) (bytesOfF32 ys)
      (if ok then Except.ok c' else .error 5, s)
    if c.got.any fun x => x.2 == off then
      match collRead s c.part (stageAddr c off) (4 * collLine c.words) with
      | (.ok old, s) => store s ((f32sOf (collLine c.words) old).zipWith (collCombine c.words) xs)
      | (.error e, s) => (.error e, s)
    else store s xs

/-- Combine the lines of a contribution from rank r from element offset off. -/
def collLinesIn (s : State) (c : CollInst) (r off : Nat) (bs : List Byte) : Except Nat CollInst × State :=
  (List.range (bs.length / 64)).foldl (fun (acc : Except Nat CollInst × State) k =>
    match acc with
    | (.ok c, s) => collLineIn s c r (off + k * collLine c.words) ((bs.drop (64 * k)).take 64)
    | e => e) (.ok c, s)

/-! ### Sending -/

/-- Hand a packet to its destination: a device ID of this module is judged without leaving it (R296). -/
def deliver (s : State) (p : Nat) (pk : Packet) : State :=
  if (partOfId s pk.dst).isSome then { s with xp := { s.xp with inbox := s.xp.inbox ++ [pk] } } else sendPacket s p pk

/-- Send a COLL_DATA operation of at most 16 lines, while its instance lasts; where nothing can be sent to the member, the instance loses it (R299). -/
def collOp (s : State) (c : CollInst) (j dst off : Nat) (bs : List Byte) (bound : Nat) : State :=
  let here := (partOfId s dst).isSome
  match coll? s c.part c.desc c.seq, if here then none else sendRefusal s c.part dst with
  | none, _ => s
  | some c, some _ => collEnd s c 1
  | some _, none =>
  let id := s.xp.nextOp
  let o : RemOp := { id := id, part := c.part, dst := dst, la := off, write := true, lines := bs.length / 64, data := bs, unit := 2, tile := 0,
                     why := .coll c.part c.desc c.seq j, sends := here.toNat, planes := [], sentAt := mer s, held := false,
                     w5 := BitVec.ofNat 64 (collTag c.words * 2 ^ 48 + c.seq % 2 ^ 32 * 2 ^ 16 + collRank c.words * 2 ^ 8),
                     bound := BitVec.ofNat 64 bound }
  let s := { s with xp := { s.xp with nextOp := (id + 1) % 2 ^ 32, ops := s.xp.ops ++ [o] } }
  if here then deliver s c.part (o.packet s) else sendOp s o

/-- Send a shard's bytes from element offset off to a member in packets of up to 16 lines. -/
def collSend (s : State) (c : CollInst) (j dst off : Nat) (bs : List Byte) (bound : Nat) : State :=
  (List.range (ceilDiv bs.length 1024)).foldl (fun s k =>
    collOp s c j dst (off + k * 16 * collLine c.words) ((bs.drop (1024 * k)).take 1024) bound) s

/-! ### Firing and reduction -/

/-- Once every contribution has been combined, write the own part of DST and, for an all-reduce, send it to every other member (R313). -/
def collReduce (s : State) (p i seq : Nat) (ids : List Nat) : State :=
  match coll? s p i seq with
  | none => s
  | some c =>
    let ws := c.words
    let n := collShard ws
    let r := collRank ws
    match c.fired with
    | none => s
    | some (_, bound) =>
      if collLate s c then collEnd s c 1
      else if c.wrote || !decide (c.got.length = collG ws * (n / collLine ws)) then s
      else
        match collRead s p (stageAddr c (r * n)) (4 * n) with
        | (.error e, s) => collEnd s c e
        | (.ok bs, s) =>
          let out := collNarrow ws (f32sOf n bs)
          let (ok, s) := collWrite s p ((dw ws 3).toNat + (if collAll ws then r * n * collBytes ws else 0)) out
          if !ok then collEnd s c 5
          else
            let c := { c with wrote := true }
            let s := setColl s c
            let s := if collAll ws then
                ids.zipIdx.foldl (fun s (d, j) => if j = r then s else collSend s c j d (r * n) out bound) s
              else s
            collCheck s p i seq

/-- Whether the next instance of a descriptor may fire now (R312): the table is enabled, its partition is not fenced, the trigger gate has risen by STEP and the instance two before it, if there
is one, has ended. -/
def collDue (s : State) (p i : Nat) : Bool :=
  match SMap.find s.xp.collDesc (collKey p i) with
  | none => false
  | some d =>
    fb s F.PORT_COLL_TABLE_EN p && !partFenced s p &&
    !(s.xp.colls.any fun c => c.part == p && c.desc == i && c.fired.isSome && decide (2 ≤ (d.next + 2 ^ 32 - c.seq) % 2 ^ 32)) &&
    match (collDescRead s p i).1 with
    | some (ws, _) =>
      decide (max 1 (db ws 1 31 0) ≤ (gate s p (db ws 0 44 35) + 2 ^ 32 - d.base) % 2 ^ 32)
    | none => false

/-- Fire the next instance of a descriptor: its contribution is combined and its other shards are sent; a descriptor that fails a check fails the instance (R311). -/
def collFire (s : State) (p i : Nat) : State :=
  match SMap.find s.xp.collDesc (collKey p i), collDescRead s p i with
  | some d, (some (ws, ids), s) =>
    let seq := d.next
    let d' := { d with base := gate s p (db ws 0 44 35), next := (seq + 1) % 2 ^ 32 }
    let s := updXp s fun x => { x with collDesc := SMap.set x.collDesc (collKey p i) d' }
    let bound := s.clk.tickMer
    let early := coll? s p i seq
    let c : CollInst := { part := p, desc := i, seq := seq, words := ws, fired := some ((rd s .tgeTickNow).toNat, bound),
                          got := (early.map CollInst.got).getD [], red := (early.map CollInst.red).getD [], wrote := false, doom := 0 }
    let doom := (early.map CollInst.doom).getD 0
    if d.bad || !collValid s p ws ids then collEnd s c 5
    else if doom ≠ 0 then collEnd s c doom
    else
      let n := collShard ws
      let r := collRank ws
      match collRead s p (dw ws 2).toNat (collCount ws * collBytes ws) with
      | (.error e, s) => collEnd s c e
      | (.ok src, s) =>
        let shard := fun j => (src.drop (j * n * collBytes ws)).take (n * collBytes ws)
        match collLinesIn s c r (r * n) (shard r) with
        | (.error e, s) => collEnd s c e
        | (.ok c, s) =>
          let s := showColl (setColl s c) p
          let s := ids.zipIdx.foldl (fun s (dst, j) => if j = r then s else collSend s c j dst (j * n) (shard j) bound) s
          collReduce s p i seq ids
  | _, (_, s) => s

/-! ### Received packets (R314, R315) -/

/-- The status of a collective packet refused with COLL_MISMATCH. -/
def stMismatch : Nat := 0x0B
/-- COLL_SCHEDULE. -/
def stSchedule : Nat := 0x0C

/-- The descriptor number that an enabled table of partition p holds for a GROUP_TAG, with its words and members; an instance in progress runs to its end after the table is
disabled (Table 12.10). -/
def collByTag (s : State) (p tag : Nat) : Option (Nat × List Word × List Nat) :=
  let running := (s.xp.colls.find? fun c => c.part == p && c.fired.isSome && collTag c.words == tag).map fun c =>
    (c.desc, c.words, (collMembers s p c.words).1)
  if !fb s F.PORT_COLL_TABLE_EN p then running
  else (List.range (fg s F.PORT_COLL_TABLE_ENTRIES p + 1)).findSome? fun i =>
    match (collDescRead s p i).1 with
    | some (ws, ids) => if collTag ws = tag ∧ collValid s p ws ids = true then some (i, ws, ids) else none
    | none => none

/-- The lowest SEQ of a descriptor that has not ended. -/
def collCur (s : State) (p i : Nat) : Nat :=
  let next := match SMap.find s.xp.collDesc (collKey p i) with
    | some d => d.next
    | none => 2 ^ 32
  ((s.xp.colls.filter fun c => c.part == p && c.desc == i && c.fired.isSome).map CollInst.seq).foldl min next

/-- What a COLL_DATA for partition p does: the status of its COLL_ACK and the state after it. -/
def collDataIn (s : State) (p : Nat) (pk : Packet) : Nat × State :=
  let tag := getBits pk.w5 63 48
  let seq := getBits pk.w5 47 16
  let rank := getBits pk.w5 15 8
  let off := pk.target.toNat
  match collByTag s p tag with
  | none => (if isBoundary s pk.bound.toNat then stMismatch else stSchedule, s)
  | some (i, ws, ids) =>
    let n := collShard ws
    let r := collRank ws
    let cur := collCur s p i
    let elems := pk.lines * collLine ws
    let blank : CollInst := { part := p, desc := i, seq := seq, words := ws, fired := none, got := [], red := [], wrote := false, doom := 0 }
    let c := (coll? s p i seq).getD blank
    let failWith := fun (s : State) (res st : Nat) =>
      if c.fired.isSome then (st, collEnd s c res) else (st, if cur ≤ seq then setColl s { c with doom := res } else s)
    if !isBoundary s pk.bound.toNat then failWith s 2 stSchedule
    else if collG ws ≤ rank ∨ collCount ws < off + elems ∨ off % collLine ws ≠ 0 ∨ off / n ≠ (off + elems - 1) / n ∨
        (off / n ≠ r ∧ off / n ≠ rank) then (stMismatch, s)
    else if cur + 2 ≤ seq then (stBusy, s)
    else if seq < cur then (stOK, s)
    else if off / n = r then
      match collLinesIn s c rank off pk.payload with
      | (.error e, s) => failWith s e (if e = 4 then stUncorrectable else stPrivileged)
      | (.ok c, s) => (stOK, collReduce (setColl s c) p i seq ids)
    else
      let (ok, s) := collWrite s p ((dw ws 3).toNat + off * collBytes ws) pk.payload
      if !ok then failWith s 5 stPrivileged
      else
        let lines := (List.range pk.lines).map fun k => (rank, off + k * collLine ws)
        let s := setColl s { c with red := c.red ++ lines.filter fun x => !c.red.contains x }
        (stOK, collCheck s p i seq)

/-- The RESULT that a refused contribution gives its sender's instance (Table 12.7). -/
def collRefusal (st : Nat) : Nat :=
  if st = stSchedule then 2
  else if st = stMismatch then 3
  else if st = stUncorrectable then 4
  else if st = stSpaceInvalid ∨ st = stUnpopulated ∨ st = stPrivileged then 5
  else 1

/-- A packet operation of an instance is answered with a status, or has timed out: the instance loses it or fails (R314, R315). -/
def collOpDone (s : State) (o : RemOp) (st : Nat) : State :=
  match o.why with
  | .coll p i seq _ =>
    let s := { s with xp := { s.xp with ops := s.xp.ops.filter fun q => q.id != o.id } }
    if st = stOK then collCheck s p i seq
    else match coll? s p i seq with
      | some c => collEnd s c (collRefusal st)
      | none => s
  | _ => s

/-- The COLL_ACK of a COLL_DATA. -/
def collAck (s : State) (p : Nat) (pk : Packet) (st : Nat) : Packet :=
  { blankPacket s p 0x09 pk.src with opId := pk.opId, status := st, echo := pk.epoch, w5 := pk.w5 }

/-- Judge one packet between partitions of this module (R296); none when it is answered BUSY and must come again. -/
def inboxStep (s : State) (pk : Packet) : Option State :=
  match partOfId s pk.dst with
  | none => some s
  | some q =>
    if pk.op = 0x08 then
      if partFenced s q then some (deliver s q (collAck s q pk stPeerReset))
      else
        let (st, s) := collDataIn s q pk
        if st = stBusy then none else some (deliver s q (collAck s q pk st))
    else
      some (match s.xp.ops.find? fun o => o.id == pk.opId with
        | some o => collOpDone s o pk.status
        | none => s)

/-- The first descriptor that is due to fire. -/
def collNext (s : State) : Option (Nat × Nat) :=
  (s.xp.collDesc.find? fun (k, _) => collDue s (k / 256) (k % 256)).map fun (k, _) => (k / 256, k % 256)

/-- Judge the packets in the box and fire every instance that is due, one after the other. Packets answered BUSY wait until something else has happened. -/
def collSettleN : Nat → List Packet → State → State
  | 0, busy, s => updXp s fun x => { x with inbox := x.inbox ++ busy }
  | n + 1, busy, s =>
    let again := fun (s : State) => updXp s fun x => { x with inbox := x.inbox ++ busy }
    match s.xp.inbox with
    | pk :: rest =>
      let s := updXp s fun x => { x with inbox := rest }
      match inboxStep s pk with
      | some s => collSettleN n [] (again s)
      | none => collSettleN n (busy ++ [pk]) s
    | [] =>
      match collNext s with
      | some (p, i) => collSettleN n [] (again (collFire s p i))
      | none => again s

/-- After a command that may change a gate: the collectives that its change fires (R312). -/
def collSettle (s : State) : State := if s.xp.collDesc.isEmpty && s.xp.inbox.isEmpty then s else collSettleN 65536 [] s

/-- The instances of every partition that have the firing Tick closed one Tick ago fail at the boundary (R315): `now` is the Tick that opens. -/
def collDeadline (s : State) (now : Nat) : State :=
  s.xp.colls.foldl (fun s c =>
    match c.fired with
    | some (t, _) => if t + 2 ≤ now then (match coll? s c.part c.desc c.seq with | some c => collEnd s c 1 | none => s) else s
    | none => s) s

/-- Instances of any partition with a member ID fail when it resets (R309). -/
def collPeerLost (s : State) (id : Nat) : State :=
  s.xp.colls.foldl (fun s c =>
    let (ids, s) := collMembers s c.part c.words
    if c.fired.isSome && ids.contains id then (match coll? s c.part c.desc c.seq with | some c => collEnd s c 1 | none => s) else s) s

end Sys2Proof.Machine
end

