-- ==== Sys2Proof/Machine/PlaceOps.lean ====
section
/-! DEFINITION. The placer's view of a die: serving columns, breaks and usable width (R156, R158 to R163), free tiles (R48, R49) and the search for an
origin. -/

namespace Sys2Proof.Machine

/-- Physical columns of a die that are retired (Table 6.6). -/
def retiredCols (s : State) (d : Nat) : List Nat := (List.range 18).filter fun c => bitOf (rd s .tgePlaceDie d) c

/-- The serving columns for a set of retired columns, in increasing order (R158). -/
def servingCols (retired : List Nat) : List Nat := (List.range 18).filter fun c => !retired.contains c

/-- The mapping of logical to physical columns for a set of retired columns (R158): the lesser of E and S columns. -/
def columnMap (s : State) (retired : List Nat) : List Nat := (servingCols retired).take (enabledCols s)

/-- Whether the passages of a physical column are all sound. -/
def passagesSound (s : State) (d c : Nat) : Bool := (List.range 16).all fun r => !(tile s (tileAt d r c)).passFail

/-- The logical columns l for which no link joins l and l + 1 under Table 6.1. -/
def breaksOf (s : State) (d : Nat) (m : List Nat) : List Nat :=
  (List.range (m.length - 1)).filter fun l =>
    let a := nth m l 0
    let b := nth m (l + 1) 0
    !(b == a + 1 || (b == a + 2 && passagesSound s d (a + 1)))

/-- Whether a physical column holds a fenced tile. -/
def colFenced (s : State) (d c : Nat) : Bool := (List.range 16).any fun r => (tile s (tileAt d r c)).fenced

/-- Whether logical column l of die d is enabled, not lost and in a section of partition p. -/
def colHeldBy (s : State) (p d l : Nat) : Bool :=
  decide (l < (diePlace s d).map.length) && sectionPart s (2 * d + l / 8) == p

/-- The longest run of consecutive columns from `l` on that satisfy `ok` with no break inside: the best so far and the current run. -/
def widthAux (ok : Nat → Bool) (brk : Nat → Bool) : List Nat → Nat → Nat → Nat
  | [], run, best => max run best
  | l :: ls, run, best =>
    if ok l then
      let run' := if run ≠ 0 ∧ brk (l - 1) = false then run + 1 else 1
      widthAux ok brk ls run' (max best run')
    else widthAux ok brk ls 0 best

/-- A partition's usable width on die d (R162). -/
def usableWidth (s : State) (p d : Nat) : Nat :=
  let m := (diePlace s d).map
  let ok := fun l => colHeldBy s p d l && (fb s F.TGE_PLACE_CTL_RETIRE_EN || !colFenced s d (nth m l 0))
  widthAux ok (fun l => (diePlace s d).breaks.contains l) (List.range 16) 0 0

/-- The dies on which a task may be placed, in the order in which they are tried (R48). -/
def permittedDies (n : Node) : List Nat :=
  if db n.words 5 34 34 = 1 then [db n.words 5 33 32]
  else match n.stream with
    | some st => (st % 4) :: (List.range 4).filter (· != st % 4)
    | none => List.range 4

/-- The tests of R38 on a task: TASK_TOO_LONG. -/
def tooLong (s : State) (n : Node) : Bool := decide (period s * 1700 - 3656 < n.launch + n.wcd)

/-- The tests of R38 on a task: REGION_UNSATISFIABLE. -/
def unsatisfiable (s : State) (p : Nat) (n : Node) : Bool := (permittedDies n).all fun d => decide (usableWidth s p d < n.cols)

/-- Whether a physical tile is free at the present cycle (R48, R49): no task, not fenced, not claimed, and 80 cycles past the end of its last region. -/
def tileFree (s : State) (n : Nat) : Bool :=
  let t := tile s n
  !t.fenced && !t.claimed && t.slot.isNone && (t.freeAt == 0 || decide (t.freeAt + 80 ≤ s.clk.cyc))

/-- Whether partition p's region may be placed at an origin (R161). -/
def fits (s : State) (p : Nat) (r : Region) : Bool :=
  decide (r.col + r.cols ≤ 16) && decide (r.row + r.rows ≤ 16) &&
  (rangeFrom r.col r.cols).all (fun l => colHeldBy s p r.die l && !(diePlace s r.die).held.contains l) &&
  (rangeFrom r.col (r.cols - 1)).all (fun l => !(diePlace s r.die).breaks.contains l) &&
  (regionTiles s r).all (tileFree s)

/-- The first origin on die d that satisfies R161, l0 ascending and r0 ascending within it (R163). -/
def findOrigin (s : State) (p d : Nat) (n : Node) : Option Region :=
  ((List.range 16).flatMap fun l => (List.range 16).map fun r => (⟨d, r, l, n.rows, n.cols⟩ : Region)).find? (fits s p)

/-- Rewrite the computed fields of TGE_PLACE_DIE of a die (Table 6.6). -/
def showDie (s : State) (d : Nat) : State :=
  let sv := (servingCols (retiredCols s d)).length
  let e := enabledCols s
  let s := fs s F.TGE_PLACE_DIE_LOST (e - sv) d
  let s := fs s F.TGE_PLACE_DIE_SERVING (min e sv) d
  fs s F.TGE_PLACE_DIE_BREAKS ((diePlace s d).breaks.foldl (fun a l => a + 2 ^ l) 0) d

/-- Rewrite TGE_PLACE_FENCE of a die (Table 6.7). -/
def showFence (s : State) (d : Nat) : State :=
  let cs := servingCols (retiredCols s d)
  let n := ((cs.map fun c => ((List.range 16).filter fun r => (tile s (tileAt d r c)).fenced).length)).foldl (· + ·) 0
  let s := fs s F.TGE_PLACE_FENCE_FENCED_TILES n d
  fs s F.TGE_PLACE_FENCE_FENCED_COLS ((cs.filter (colFenced s d)).foldl (fun a c => a + 2 ^ c) 0) d

/-- A capacity-change event on a die (R171): CAP_CHANGE, CHANGES, the record and the interrupt. CAUSE 0 a fence, 1 a mapping in force. -/
def capacityChange (s : State) (d cause : Nat) (n : Option Nat) : State :=
  let s := showFence (showDie s d) d
  let s := fs s F.TGE_PLACE_STATUS_CAP_CHANGE (Nat.lor (fg s F.TGE_PLACE_STATUS_CAP_CHANGE) (2 ^ d))
  let s := fwrap s F.TGE_PLACE_STATUS_CHANGES
  let r := { blankRec s 0x05 cause 0 with unit := 0xC, unitIx := d, aux := rd s .tgePlaceDie d, aux2 := rd s .tgePlaceFence d }
  let s := emit s (match n with
    | some k => tileCtx s k false r
    | none => r)
  signalCapacity s d

/-- The test on a die is over (R355): its tile is not claimed, and the registers show it. -/
def endTest (s : State) (d : Nat) : State :=
  let x := SMap.get Patrol.fresh s.patrols d
  match x.test with
  | none => s
  | some (n, _) =>
    let s := updTile { s with patrols := SMap.set s.patrols d { x with test := none } } n fun t => { t with claimed := false }
    fs (fs s F.GUARD_PROSPECT_DIE_TESTING 0 d) F.GUARD_PROSPECT_DIE_CURRENT 0x7FF d

/-- Fence a tile (R165, R372) with a cause of Table 15.9: its task enters RESETTING, its windows and channels close, a test of it stops (R361), and the
capacity change is reported. -/
def fenceTile (s : State) (n cause : Nat) (aux : Word) : State :=
  if (tile s n).fenced then s
  else
    let slot := (tile s n).slot
    let part := tilePart s n
    let r := tileCtx s n false { blankRec s 0x04 cause 2 with unit := 0x1, unitIx := n, aux := aux }
    let r := match slot with
      | some k => taskCtx s k r
      | none => match part with
        | some p => r.ofPart s p
        | none => r
    let s := updTile (abandonStop (queueStore (emit s r) 3) n) n fun t => closeTile { t with fenced := true, gatherI := [], gatherM := [], stops := [] }
    let s := match slot with
      | some k => enterResetting s k false
      | none => s
    let s := if (SMap.get Patrol.fresh s.patrols (tileDie n)).test.map (·.1) = some n then endTest s (tileDie n) else s
    capacityChange s (tileDie n) 0 (some n)

end Sys2Proof.Machine
end

