-- ==== Sys2Proof/Machine/GraphCheck.lean ====
section
/-! DEFINITION. The checks of Table 2.6 and R38 on task descriptors, and the slot that a task is granted. -/

namespace Sys2Proof.Machine

/-- Whether any of the given bit ranges of words is not 0. -/
def anyBits (ws : List Word) (l : List (Nat × Nat × Nat)) : Bool := l.any fun (k, hi, lo) => decide (db ws k hi lo ≠ 0)

/-- The node indices that an edge list's entries name. -/
def edgeTarget (e : Nat) : Nat := e % 65536

/-- The entries of a node's successor range that exist. -/
def succEntries (edges : List Nat) (ws : List Word) : List Nat := (edges.drop (db ws 1 63 32)).take (db ws 0 15 0)

/-- The DETAIL of the first failed check of node k (Table 2.6), 0 for none. `named` is the number of entries that name it. -/
def nodeCheck (ws : List Word) (k count edgeCount : Nat) (edges : List Nat) (named : Nat) : Nat :=
  let mine := succEntries edges ws
  if db ws 0 63 60 ≠ 1 then 0x01
  else if anyBits ws [(0, 59, 48), (1, 30, 26), (1, 14, 10), (4, 63, 56), (4, 7, 0), (5, 63, 53), (5, 47, 45), (5, 39, 35),
      (11, 63, 32), (11, 26, 21), (13, 63, 0), (14, 63, 0), (15, 63, 0)] || mine.any (fun e => decide (65536 ≤ e)) then 0x02
  else if db ws 0 47 32 ≠ k then 0x03
  else if edgeCount < db ws 1 63 32 + db ws 0 15 0 then 0x05
  else if mine.any fun e => decide (edgeTarget e ≤ k) || decide (count ≤ edgeTarget e) then 0x06
  else if db ws 0 31 16 ≠ named then 0x07
  else if db ws 5 52 48 = 0 ∨ 16 < db ws 5 52 48 ∨ db ws 5 44 40 = 0 ∨ 16 < db ws 5 44 40 ∨
      db ws 5 31 0 = 0 ∨ 262144 < db ws 5 31 0 ∨ db ws 3 6 0 ≠ 0 then 0x08
  else 0

/-- The first failed node check of a graph: node and DETAIL. -/
def nodesCheck (descs : List (List Word)) (edgeCount : Nat) (edges : List Nat) : Option (Nat × Nat) :=
  let all := (descs.flatMap (succEntries edges)).map edgeTarget
  descs.zipIdx.findSome? fun (ws, k) =>
    let d := nodeCheck ws k descs.length edgeCount edges (all.filter (· == k)).length
    if d = 0 then none else some (k, d)

/-- Whether an edge entry that lies in no node's range has reserved bits that are not 0. -/
def strayBad (descs : List (List Word)) (edges : List Nat) : Bool :=
  edges.zipIdx.any fun (e, i) =>
    decide (65536 ≤ e) && !(descs.any fun ws => decide (db ws 1 63 32 ≤ i) && decide (i < db ws 1 63 32 + db ws 0 15 0))

/-- Whether n bytes at a global address name Tier 1 of partition p with space tag 0b00 (R400). -/
def inTier1 (s : State) (p : Nat) (ga : Word) (n : Nat) : Bool := decide (ga.toNat + n ≤ t1Size s p)

/-- Whether a confidential partition's graph names an address that it may not (R400). -/
def confBad (s : State) (p : Nat) (g : Graph) (descs : List (List Word)) : Bool :=
  fb s F.SEC_PART_CTL_CONF p &&
  (!inTier1 s p (dw g.hdr 2) 1 || (decide (0 < db g.hdr 1 52 32) && !inTier1 s p (dw g.hdr 3) 1) ||
   descs.any fun ws => !inTier1 s p (dw ws 3) 1 || (decide (dw ws 10 ≠ 0) && !inTier1 s p (dw ws 10) 1))

/-- The first node that fails a test of R38, with the status it gives. -/
def stateTests (s : State) (p : Nat) (nodes : List Node) : Option (Nat × Nat) :=
  nodes.zipIdx.findSome? fun (n, k) =>
    if unsatisfiable s p n then some (k, 3) else if tooLong s n then some (k, 4) else none

/-- The lowest slot number that a sorted slot table leaves free, from k on. -/
def freeSlotFrom (k : Nat) : SMap Slot → Nat
  | [] => k
  | (i, x) :: m => if k < i then k else if x.holder.isNone then i else freeSlotFrom (i + 1) m

end Sys2Proof.Machine
end

