-- ==== Sys2Proof/Machine/ShadowOps.lean ====
section
/-! DEFINITION. How a shadow run ends (R350 to R352): its result, its record and its registers. -/

namespace Sys2Proof.Machine

/-- A result record (Table 14.7): result, tiles, cycle, mismatches and first mismatch of each range, and the largest difference. -/
def shadowWords (res pa pb cyc : Nat) (rs : List (Nat × Nat)) (d : Nat) : List Word :=
  [BitVec.ofNat 64 (res * 2 ^ 56 + pa % 2048 * 2 ^ 37 + pb % 2048 * 2 ^ 26), BitVec.ofNat 64 cyc] ++
  ((List.range 4).map fun r => let (n, f) := nth rs r (0, 0xFFFFFFFF); BitVec.ofNat 64 (n * 2 ^ 32 + f)) ++
  [BitVec.ofNat 64 d, BitVec.ofNat 64 (2 ^ 63)]

/-- Nominate a physical tile on its die (R356): at most 4 wait, and a number above 1,151 is ignored. -/
def nominate (s : State) (n : Nat) : State :=
  let d := tileDie n
  let x := SMap.get Patrol.fresh s.patrols d
  if 1151 < n ∨ 4 ≤ x.noms.length then s
  else
    let s := { s with patrols := SMap.set s.patrols d { x with noms := x.noms ++ [(n, mer s)] } }
    fs s F.GUARD_PROSPECT_DIE_QUEUED (x.noms.length + 1) d

/-- The run of partition p ends with a result (Table 14.6): the record is written unless it is ABANDONED or the block could not be read, the status shows it, and the run's graph is gone. -/
def shadowFinish (s : State) (p res pa pb cyc : Nat) (rs : List (Nat × Nat)) (d : Nat) : State :=
  match SMap.find s.shadows p with
  | none => s
  | some x =>
    let s := { s with shadows := SMap.erase s.shadows p }
    let s := updTge s fun y => { y with graphs := y.graphs.filter fun g => some g.seq != x.gseq }
    let s := if res = 8 ∨ x.block.isEmpty = true then s else (engineWrite s p (dw x.block 2) (bytesOfWords (shadowWords res pa pb cyc rs d))).2
    let s := fs (fs s F.GUARD_SHADOW_STATUS_RESULT res p) F.GUARD_SHADOW_STATUS_STATE 4 p
    let s := finc s F.GUARD_INTEGRITY_COUNT_SHADOW_RUNS 1 p
    let s := if res = 1 ∨ res = 2 then finc s F.GUARD_INTEGRITY_COUNT_SHADOW_BAD 1 p else s
    if res = 2 then nominate (nominate s pa) pb else s

/-- A run stops early with a result (R349, R350): its region stops and its task ends FAULTED. -/
def shadowStop (s : State) (slot res pa pb cyc : Nat) : State :=
  match task? s slot with
  | none => s
  | some t =>
    let s := { s with shadows := SMap.modify s.shadows t.part fun x => { x with ended := some (res, pa, pb, cyc) } }
    let s := freeTiles (stopRegion s t.tiles) t.tiles (s.clk.cyc + resetCycles)
    faultNode s t.gseq t.node 0x100

/-- The result of a run whose task has ended FAULTED, by the reason its node holds: UNPLACEABLE where R38 fails, TRIPPED for a sentinel, else FAULTED. -/
def shadowResult (why : Nat) : Nat := if why = 3 ∨ why = 4 then 7 else if why = 0x123 then 3 else 4

/-- Whether a tolerance is finite and at least +0. -/
def tolOk (x : Nat) : Bool := decide (x < 0x7F800000)

/-- Whether range r of a request block is used. -/
def rangeUsed (ws : List Word) (r : Nat) : Bool := decide (db ws (6 + 4 * r) 27 0 ≠ 0)

/-- Whether a range of a request block keeps to Table 14.5; the address and format of an unused range are not judged (DESIGN CHOICE). -/
def rangeOk (ws : List Word) (r : Nat) : Bool :=
  decide (db ws (6 + 4 * r) 59 28 = 0) &&
  (!rangeUsed ws r ||
   (decide (db ws (4 + 4 * r) 5 0 = 0) && decide (db ws (5 + 4 * r) 5 0 = 0) && [0, 1, 2, 3, 4, 7, 9].contains (db ws (6 + 4 * r) 63 60) &&
    tolOk (db ws (7 + 4 * r) 63 32) && tolOk (db ws (7 + 4 * r) 31 0)))

/-- Whether a request block of partition p keeps to Table 14.5, and to R400 where the partition is confidential. -/
def blockOk (s : State) (p : Nat) (ws : List Word) : Bool :=
  decide (db ws 0 63 60 = 4) && !anyBits ws ([(0, 59, 0), (1, 6, 0), (2, 5, 0), (3, 63, 0)] ++ (rangeFrom 20 12).map fun k => (k, 63, 0)) &&
  (List.range 4).all (rangeOk ws) &&
  (!confOn s p || (inTier1 s p (dw ws 1) 128 && inTier1 s p (dw ws 2) 64 &&
    ((List.range 4).filter (rangeUsed ws)).all fun r => inTier1 s p (dw ws (4 + 4 * r)) 1 && inTier1 s p (dw ws (5 + 4 * r)) 1))

/-- The conditions of R348 on a descriptor. -/
def shadowDescOk (ws : List Word) : Bool :=
  decide (nodeCheck ws 0 1 0 [] 0 = 0) && decide (db ws 0 31 16 = 0) && decide (db ws 0 15 0 = 0) && decide (db ws 1 31 31 = 0) && decide (db ws 1 15 15 = 0)

/-- The one-node graph of a shadow run whose descriptor is here (R348): a READY task of twice the width and ENERGY, whose age is the time of GO. -/
def shadowGraph (s : State) (p : Nat) (x : ShadowRun) (ws : List Word) : State :=
  let n : Node := { Node.fresh ws with twice := true, age := mer s }
  if !shadowDescOk ws || (confOn s p && (!inTier1 s p (dw ws 3) 1 || (decide (dw ws 10 ≠ 0) && !inTier1 s p (dw ws 10) 1))) then
    shadowFinish s p 6 0x7FF 0x7FF 0 [] 0
  else if unsatisfiable s p n || tooLong s n then shadowFinish s p 7 0x7FF 0x7FF 0 [] 0
  else
    let seq := s.tge.nextSeq
    let k := freeSlotFrom 0 s.tge.slots
    let got := decide (k < 65536)
    let n := if got then { n with state := TaskState.ready, slot := some k } else { n with state := TaskState.eligible }
    let g : Graph := { queue := 16 * p, seq := seq, hdr := List.replicate 16 0, validated := true, nodes := [n], edges := [],
                       cancelled := false, aborted := false, appends := 0, unacked := false, status := none, shadow := true, mute := false,
                       finished := none, released := none }
    let s := updTge s fun t =>
      { t with graphs := t.graphs ++ [g], nextSeq := seq + 1,
               slots := if got then SMap.set t.slots k { epoch := ((slotOf s k).epoch + 1) % 256, holder := some (seq, 0) } else t.slots }
    { s with shadows := SMap.set s.shadows p { x with gseq := some seq } }

/-- A run goes on once its block and its descriptor have been read with the rights of the partition (R347, R348). -/
def shadowBegin (s : State) (p : Nat) (x : ShadowRun) : State :=
  let bad := fun (s : State) => shadowFinish s p 6 0x7FF 0x7FF 0 [] 0
  let block := if x.block.isEmpty then engineRead s p (rd s .guardShadowAddr p) 256 else (.data (bytesOfWords x.block), s)
  match block with
  | (.wait, s) => s
  | (.refused _ _, s) => bad s
  | (.data bs, s) =>
    let ws := wordsOf 32 bs
    let x := { x with block := ws }
    let s := { s with shadows := SMap.set s.shadows p x }
    if !blockOk s p ws then bad s
    else match engineRead s p (dw ws 1) 128 with
      | (.wait, s) => s
      | (.refused _ _, s) => bad s
      | (.data ds, s) => shadowGraph s p x (wordsOf 16 ds)

/-- Runs whose task has failed end, and the state of the others is shown (R352). -/
def shadowSettle (s : State) : State :=
  s.shadows.foldl (fun s (p, x) =>
    match x.gseq with
    | none => shadowBegin s p x
    | some q =>
    match node? s q 0 with
    | none => s
    | some n =>
      match n.state with
      | .faulted =>
        match x.ended with
        | some (r, pa, pb, cyc) => shadowFinish s p r pa pb cyc [] 0
        | none => shadowFinish s p (shadowResult n.why) 0x7FF 0x7FF 0 [] 0
      | .cancelled => shadowFinish s p 4 0x7FF 0x7FF 0 [] 0
      | .done => fs s F.GUARD_SHADOW_STATUS_STATE 3 p
      | .launching => fs s F.GUARD_SHADOW_STATUS_STATE 2 p
      | .running => fs s F.GUARD_SHADOW_STATUS_STATE 2 p
      | .resetting => fs s F.GUARD_SHADOW_STATUS_STATE 2 p
      | _ => fs s F.GUARD_SHADOW_STATUS_STATE 1 p) s

end Sys2Proof.Machine
end

