-- ==== Sys2Proof/Machine/Finish.lean ====
section
/-! DEFINITION. What every command does last: what its changes set off happens with it. -/

namespace Sys2Proof.Machine

/-- What a command's changes set off happens with it: sample records for a peer leave (R318), collectives that a gate has triggered fire (R312), shadow runs that have failed end (R352), tasks that have
become runnable are ELIGIBLE (R46, R54) and graphs whose last task has ended are finished (R45). -/
def settled (s : State) : State := settleGraphs (evalWaiting (shadowSettle (collSettle (flushSamples s))))

/-- Every command answers the next state so. -/
def finish (s : State) : Ans := .next (settled s)

end Sys2Proof.Machine
end

