-- ==== Sys2Proof/Machine/Matrix.lean ====
section
/-! DEFINITION. Tensor descriptors and their checks (R94 to R96), the matrix unit's sums (R70 to R73), drain conversion (R74) and the sentinel
checks of values and rows (R339 to R345). -/

namespace Sys2Proof.Machine

/-! ### Descriptors (Table 4.4) -/

/-- FMT. -/
def dFmt (d : BitVec 256) : Nat := getBits d 63 60
/-- ADDR. -/
def dAddr (d : BitVec 256) : Nat := getBits d 20 0
/-- STRIDE. -/
def dStride (d : BitVec 256) : Nat := getBits d 105 85
/-- RUN. -/
def dRun (d : BitVec 256) : Nat := getBits d 84 64
/-- COUNT. -/
def dCount (d : BitVec 256) : Nat := getBits d 159 128
/-- SCALE_ADDR. -/
def dScale (d : BitVec 256) : Nat := getBits d 212 192

/-- The relative offset of beat j (R94). -/
def beatOff (d : BitVec 256) (j : Nat) : Nat := dAddr d + j / dRun d * dStride d + j % dRun d * 64

/-- The largest relative offset of the first n beats. -/
def lastBeat (d : BitVec 256) (n : Nat) : Nat :=
  let q := n / dRun d
  max (if q = 0 then 0 else beatOff d (q * dRun d - 1)) (beatOff d (n - 1))

/-- The checks of R96 in their order: the exception's code, if one fails. `need` is the number of beats that the instruction needs and `scales` of scale beats. -/
def descFault (base : Nat) (d : BitVec 256) (ok : Nat → Bool) (need scales : Nat) : Option Nat :=
  if 10 ≤ dFmt d ∨ ok (dFmt d) = false then some 0x06
  else if getBits d 59 21 ≠ 0 ∨ dAddr d % 64 ≠ 0 ∨ getBits d 127 106 ≠ 0 ∨ dStride d % 64 ≠ 0 ∨ dRun d = 0 ∨ 24576 < dRun d ∨
      getBits d 191 160 ≠ 0 ∨ dCount d = 0 ∨ 24576 < dCount d ∨ getBits d 255 213 ≠ 0 ∨ dScale d % 64 ≠ 0 ∨
      (dFmt d ≠ 5 ∧ dScale d ≠ 0) then some 0x0F
  else if dCount d < need then some 0x10
  else if 0x180000 < base + lastBeat d need + 64 ∨ (scales ≠ 0 ∧ 0x180000 < base + dScale d + 64 * scales) then some 0x10
  else none

/-! ### The matrix unit -/

/-- Operand cycles of an MMA and whether its sums are integers, for a pair of Table 3.5: steps per two core cycles, and the mode. -/
def mmaPair (fa fb : Nat) : Option (Nat × Bool) :=
  let f8 := fun f => f == 3 || f == 4
  if f8 fa && f8 fb then some (2, false)
  else if fa = 5 ∧ fb = 5 then some (4, false)
  else if (fa = 5 ∧ f8 fb = true) ∨ (f8 fa = true ∧ fb = 5) then some (2, false)
  else if fa = fb ∧ (fa = 1 ∨ fa = 2) then some (1, false)
  else if fa = 7 ∧ fb = 7 then some (2, true)
  else if fa = 8 ∧ fb = 8 then some (4, true)
  else if (fa = 7 ∧ fb = 8) ∨ (fa = 8 ∧ fb = 7) then some (2, true)
  else none

/-- Operand cycles for a reduction length (R73). -/
def mmaCycles (rate k : Nat) : Nat := 2 * k / rate

/-- Beats that an operand needs (R112). -/
def beatsNeeded (f k : Nat) : Nat := if fmtBits f = 4 then (k + 1) / 2 else if fmtBits f = 16 then 2 * k else k

/-- Core cycles from one beat of an operand to the next (R112). -/
def beatPace (rate f : Nat) : Nat := if rate = 2 ∧ fmtBits f = 4 then 2 else 1

/-- Byte i of beat j. -/
def byteAt (bs : List (List Byte)) (j i : Nat) : Nat := (nth (nth bs j []) i 0).toNat

/-- The bits of element i of step k in operand beats (R95). -/
def operandBits (f : Nat) (bs : List (List Byte)) (k i : Nat) : Nat :=
  match fmtBits f with
  | 4 => byteAt bs (k / 2) i / 16 ^ (k % 2) % 16
  | 16 => byteAt bs (2 * k + i / 32) (2 * (i % 32)) + 256 * byteAt bs (2 * k + i / 32) (2 * (i % 32) + 1)
  | _ => byteAt bs k i

/-- Element i of step k, block scale applied (R62, R70). -/
def operandNum (f : Nat) (bs sc : List (List Byte)) (k i : Nat) : Num :=
  let x := valueOf f (operandBits f bs k i)
  if f = 5 then
    let c := byteAt sc (k / 32) i
    if c = 255 then .nan else x.scale ((c : Int) - 127)
  else x

/-- The reduction steps that one rounding takes together: pairs at rate 2, else single steps (R70). -/
def mmaGroups (pairs : Bool) (k : Nat) : List (List Nat) :=
  if pairs then (List.range (k / 2)).map fun m => [2 * m, 2 * m + 1] else (List.range k).map fun m => [m]

/-- One accumulator entry after steps in FP32 mode: the exact products of a group and the entry are summed exactly and rounded once (R70). DESIGN CHOICE:
a product of an infinity and zero sets NV whatever the entry holds, for it is an invalid operation of its own (R66, R67; log entry 79). -/
def accFloat (c : BitVec 32 × Nat) (group : List (Num × Num)) : BitVec 32 × Nat :=
  let (v, f) := group.foldl (fun (acc : Num × Nat) (ab : Num × Num) =>
    let (p, f1) := Num.mul ab.1 ab.2
    let (u, f2) := Num.add 0 acc.1 p
    (u, Nat.lor acc.2 (Nat.lor f1 f2))) (f32 c.1, c.2)
  let (x, f3) := toF32 0 false v
  (x, Nat.lor f f3)

/-- An integer clamped to 32 bits, with SAT when it was outside (R70). -/
def clamp32 (v : Int) : Int × Nat :=
  if 2 ^ 31 - 1 < v then (2 ^ 31 - 1, fSAT) else if v < -(2 ^ 31) then (-(2 ^ 31), fSAT) else (v, 0)

/-- One accumulator entry after a group of steps in INT32 mode. -/
def accIntSum (c : Int × Nat) (group : List Int) : Int × Nat :=
  let (v, f) := clamp32 (group.foldl (· + ·) c.1)
  (v, Nat.lor c.2 f)

/-- A row of the accumulator; one never written is zero. -/
def accRow (a : Arith) (i : Nat) : List (BitVec 32) := SMap.get (List.replicate 64 0#32) a.acc i

/-- One entry after an MMA's steps. -/
def mmaEntry (m : MmaOp) (int pairs : Bool) (i j : Nat) (c : BitVec 32) : BitVec 32 × Nat :=
  if int then
    let ps := (mmaGroups pairs m.k).map fun g => g.map fun k =>
      signed (fmtBits m.fa) (operandBits m.fa m.inA k i) * signed (fmtBits m.fb) (operandBits m.fb m.inB k j)
    let (v, f) := ps.foldl accIntSum (c.toInt, 0)
    (BitVec.ofInt 32 v, f)
  else
    ((mmaGroups pairs m.k).map fun g => g.map fun k =>
      (operandNum m.fa m.inA m.scA k i, operandNum m.fb m.inB m.scB k j)).foldl accFloat (c, 0)

/-- The accumulator and flags after an MMA whose operands have all been taken (R70). -/
def mmaFold (a : Arith) (m : MmaOp) : Arith :=
  match mmaPair m.fa m.fb with
  | none => a
  | some (rate, int) =>
    let rows := (List.range 64).map fun i =>
      ((if m.clr then List.replicate 64 0#32 else accRow a i).zipIdx).map fun (c, j) => mmaEntry m int (rate == 4) i j c
    { a with
      acc := rows.zipIdx.map fun (r, i) => (i, r.map (·.1)),
      aflags := rows.foldl (fun f r => r.foldl (fun f x => Nat.lor f x.2) f) a.aflags }

/-- Fold in the MMAs in flight whose operands have been taken and that satisfy p, oldest first. DESIGN CHOICE: the flags of all steps of an
MMA enter AFLAGS with the result, when the accumulator becomes readable at t + n + 12 (Table 3.6; log entry 79). -/
def foldMmas (p : MmaOp → Bool) (a : Arith) : Arith :=
  a.mmas.foldl (fun (a : Arith) (m : MmaOp) => if m.pos = m.n ∧ p m = true then { mmaFold a m with mmas := a.mmas.drop 1 } else a) a

/-! ### Drains (R74) -/

/-- The generators of SR stepped for the lanes of `ls`, in order: the random value of each use, and the generators after. -/
def srDraw : List Nat → List (BitVec 32) → List Nat × List (BitVec 32)
  | [], g => ([], g)
  | l :: ls, g =>
    let x := xorshift (nth g l 0)
    let (rs, g') := srDraw ls (g.set l x)
    (x.toNat % 65536 :: rs, g')

/-- The value of an accumulator entry. -/
def accNum (int : Bool) (c : BitVec 32) : Num :=
  if int then .fin (decide (c.toInt < 0)) c.toInt.natAbs 0 else f32 c

/-- Whether a mode and format make a conversion stochastic (R65). -/
def isStoch (rm fmt : Nat) : Bool := decide (rm = 5) && decide (1 ≤ fmt) && decide (fmt ≤ 5)

/-- A row converted for a drain: elements, flags and generators. -/
def drainRow (fmt rm : Nat) (sat int : Bool) (scale bias : List (BitVec 32)) (row g : List (BitVec 32)) :
    (List Nat × Nat) × List (BitVec 32) :=
  let (rs, g) := if isStoch rm fmt then srDraw (List.range 64) g else ([], g)
  let es := row.zipIdx.map fun (c, j) =>
    let (v, f1) := Num.fma rm (accNum int c) (if scale.isEmpty then .fin false 1 0 else f32 (nth scale j 0))
      (if bias.isEmpty then .fin false 0 0 else f32 (nth bias j 0))
    let (x, f2) := convert fmt rm sat (nth rs j 0) v
    (x, Nat.lor f1 f2)
  ((es.map (·.1), es.foldl (fun f e => Nat.lor f e.2) 0), g)

/-- The 64 rows of a drain, converted in order. -/
def drainRows (a : Arith) (fmt rm : Nat) (sat : Bool) (scale bias : List (BitVec 32)) : List (List Nat × Nat) × List (BitVec 32) :=
  (List.range 64).foldl (fun (acc : List (List Nat × Nat) × List (BitVec 32)) i =>
    let (r, g) := drainRow fmt rm sat a.accInt scale bias (accRow a i) acc.2
    (acc.1 ++ [r], g)) ([], a.sr)

/-- The bytes of elements of w bits each, packed little-endian (R63). -/
def packElems (w : Nat) (es : List Nat) : List Byte := es.flatMap fun x => bytesOf (w / 8) x

/-! ### Sentinels -/

/-- The words of set k of a task, empty when it is not declared. -/
def sentSet (t : Task) (k : Nat) : List Word := nth t.sets k []

/-- The header's word 0, 0 when the task has no block. -/
def sentHead (t : Task) : Word := nth (nth t.sets 8 []) 0 0

/-- Whether a set is an integer set. -/
def sentInt (ws : List Word) : Bool := bitOf (dw ws 0) 58

/-- The FP32 bits of a value that a checker reports. -/
def valueBits (fmt x : Nat) : Nat :=
  if fmt = 9 then x % 2 ^ 32
  else if fmt = 7 then (signed 8 x % 2 ^ 32).toNat
  else (toF32 0 false (valueOf fmt x)).1.toNat

/-- A trip word (Table 14.4). -/
def tripWord (reason set : Nat) (drain : Bool) (row lane value : Nat) : Word :=
  BitVec.ofNat 64 (reason * 2 ^ 56 + set * 2 ^ 53 + (if drain then 2 ^ 52 else 0) + row * 2 ^ 46 + lane * 2 ^ 39 + value % 2 ^ 32)

/-- Whether a value lies outside the bounds of a set. -/
def outOfRange (ws : List Word) (fmt x : Nat) : Bool :=
  if sentInt ws then
    let v := signed (fmtBits fmt) x
    decide (v < signed 32 (db ws 1 63 32)) || decide (signed 32 (db ws 1 31 0) < v)
  else
    let v := valueOf fmt x
    !v.isNan && (Num.lt false v (f32 (BitVec.ofNat 32 (db ws 1 63 32))) || Num.lt false (f32 (BitVec.ofNat 32 (db ws 1 31 0))) v)

/-- A blank row of a set. -/
def SentRow.fresh : SentRow := { nan := 0, inf := 0, sum := 0, sq := 0 }

/-- What the values of one instruction or row do to a set's state: NaN and infinity counts, sum and sum of squares, with the first trip of each check
(NaN count, infinity count, range) as lane and value. -/
structure SentScan where
  st  : SentRow
  nan : Option (Nat × Nat)
  inf : Option (Nat × Nat)
  rng : Option (Nat × Nat)
deriving DecidableEq, Repr

/-- Check one value (R343, R344). -/
def sentValue (ws : List Word) (fmt : Nat) (c : SentScan) (lane x : Nat) : SentScan :=
  let rng := if c.rng.isNone && bitOf (dw ws 0) 63 && outOfRange ws fmt x then some (lane, valueBits fmt x) else c.rng
  if sentInt ws then { c with rng := rng }
  else
    let v := valueOf fmt x
    let b := BitVec.ofNat 32 (valueBits fmt x)
    let sum := (addF32 c.st.sum b).1
    let sq := (addF32 c.st.sq (toF32 0 false (Num.mul (f32 b) (f32 b)).1).1).1
    let nan := c.st.nan + v.isNan.toNat
    let isInf := match v with
      | .inf _ => true
      | _ => false
    let inf := c.st.inf + isInf.toNat
    { st := { nan := nan, inf := inf, sum := sum, sq := sq },
      nan := if c.nan.isNone && v.isNan && bitOf (dw ws 0) 62 && decide (db ws 0 31 16 < nan) then some (lane, nan) else c.nan,
      inf := if c.inf.isNone && isInf && bitOf (dw ws 0) 61 && decide (db ws 0 15 0 < inf) then some (lane, inf) else c.inf,
      rng := rng }

/-- Check the values of one instruction or row against a set. -/
def sentScan (ws : List Word) (fmt : Nat) (st : SentRow) (xs : List Nat) : SentScan :=
  xs.zipIdx.foldl (fun c (x, i) => sentValue ws fmt c i x) { st := st, nan := none, inf := none, rng := none }

/-- The trip of the row checks at a row's end (Table 14.3): reason and value. -/
def rowTrip (ws : List Word) (st : SentRow) : Option (Nat × Nat) :=
  let sq := f32 st.sq
  let s := f32 st.sum
  let lo := f32 (BitVec.ofNat 32 (db ws 2 63 32))
  let hi := f32 (BitVec.ofNat 32 (db ws 2 31 0))
  let e := f32 (BitVec.ofNat 32 (db ws 3 63 32))
  let t := f32 (BitVec.ofNat 32 (db ws 3 31 0))
  if bitOf (dw ws 0) 60 && (sq.isNan || Num.lt false sq lo || Num.lt false hi sq) then some (4, st.sq.toNat)
  else if bitOf (dw ws 0) 59 && (s.isNan || Num.lt false t (Num.add 0 s e.neg).1.abs) then some (5, st.sum.toNat)
  else none

/-- The trip that a scan names (R345): the first check of Table 14.3. -/
def scanTrip (c : SentScan) (set : Nat) (drain : Bool) (row : Nat) : Option Word :=
  match c.nan, c.inf, c.rng with
  | some (l, v), _, _ => some (tripWord 2 set drain row l v)
  | none, some (l, v), _ => some (tripWord 3 set drain row l v)
  | none, none, some (l, v) => some (tripWord 1 set drain row l v)
  | none, none, none => none

/-- Check a drained row against the task's drain set: the arithmetic state with its counts, first trip and the cycle of the check (R343 to R346). -/
def checkDrainRow (t : Task) (a : Arith) (fmt row off : Nat) (pc : Word) (es : List Nat) (cyc : Nat) : Arith :=
  if !bitOf (sentHead t) 39 then a
  else
    let k := getBits (sentHead t) 38 36
    let ws := sentSet t k
    let old := SMap.get SentRow.fresh a.sents k
    let c := sentScan ws fmt { old with sum := 0, sq := 0 } es
    let trip := match scanTrip c k true row with
      | some w => some w
      | none => (rowTrip ws c.st).map fun (r, v) => tripWord r k true row 0 v
    { a with
      sents := SMap.set a.sents k { old with nan := c.st.nan, inf := c.st.inf },
      trip := match a.trip with
        | some x => some x
        | none => trip.map fun w => (w.toNat, pc, off),
      check := cyc }

end Sys2Proof.Machine
end

