-- ==== Sys2Proof/Machine/Sched.lean ====
section
/-! DEFINITION. The scheduled traffic of the tiles, cycle by cycle: drift streams (R114 to R117), matrix operands (R112, R136), drain rows (R75) and
DIN writes, with the bank ranks of Table 5.1 and the outcomes of Table 5.2. -/

namespace Sys2Proof.Machine

/-- The latency of a drift link (R155). -/
def driftL : Nat := 2

/-- An exception met in a cycle, before the choice of Table 4.16. -/
structure Exc where
  slot  : Nat
  tile  : Nat
  mover : Bool
  code  : Nat
  pc    : Word
  aux   : Nat
deriving DecidableEq, Repr

/-- The bank of an absolute store offset (R130). -/
def bankIx (a : Nat) : Nat := a / 64 % 24

/-- Columns of one copy of a task's region: half of a shadow run's (R347). -/
def Task.copyCols (t : Task) : Nat := if t.shadow = 0 then t.region.cols else t.region.cols / 2

/-- Row and column of a physical tile within its copy of the region, and which copy (0 A, 1 B). -/
def Task.place (t : Task) (n : Nat) : Option (Nat × Nat × Nat) :=
  (t.tiles.findIdx? (· == n)).map fun i =>
    let c := i % t.region.cols
    (i / t.region.cols, c % t.copyCols, c / t.copyCols)

/-- The tile of a task at a row and column of a copy. -/
def Task.tileAt (t : Task) (r c copy : Nat) : Nat := nth t.tiles (r * t.region.cols + copy * t.copyCols + c) 0

/-- The neighbour of a tile on a side (0 N, 1 E, 2 S, 3 W) within its region (R114). -/
def Task.neighbour (t : Task) (n side : Nat) : Option Nat :=
  match t.place n with
  | none => none
  | some (r, c, k) =>
    match side with
    | 0 => if r = 0 then none else some (t.tileAt (r - 1) c k)
    | 1 => if c + 1 < t.copyCols then some (t.tileAt r (c + 1) k) else none
    | 2 => if r + 1 < t.region.rows then some (t.tileAt (r + 1) c k) else none
    | _ => if c = 0 then none else some (t.tileAt r (c - 1) k)

/-- The task that runs on a tile. -/
def taskOf (s : State) (n : Nat) : Option (Nat × Task) :=
  (tile s n).slot.bind fun k => (task? s k).map fun t => (k, t)

/-- Whether a tile has scheduled traffic in progress. -/
def schedActive (s : State) (n : Nat) : Bool :=
  let t := tile s n
  let a := arith s n
  !(t.douts.isEmpty && t.cons.isEmpty && t.beats.isEmpty && t.wbeats.isEmpty) ||
  a.mmas.any (fun m => decide (m.pos < m.n)) || a.drains.any (fun d => decide (d.row < 64))

/-- The tiles with scheduled traffic. -/
def activeTiles (s : State) : List Nat := s.tiles.keys.filter (schedActive s)

/-- What a cycle y has made of the state so far: the exceptions met, and the banks taken on the tile at hand. -/
structure Cyc where
  s    : State
  y    : Nat
  excs : List Exc
  used : List Nat
deriving DecidableEq, Repr

/-- Add an exception of a tile's task. -/
def Cyc.exc (c : Cyc) (n : Nat) (mover : Bool) (code : Nat) (pc : Word) (aux : Nat) : Cyc :=
  match (tile c.s n).slot with
  | some k => { c with excs := c.excs ++ [{ slot := k, tile := n, mover := mover, code := code, pc := pc, aux := aux }] }
  | none => c

/-- Read the beat at an absolute offset for a scheduled request: none when its bank is taken. An uncorrectable word raises MEM_UNCORRECTABLE (R151). -/
def Cyc.read (c : Cyc) (n off : Nat) (mover : Bool) (pc : Word) : Option (List Byte) × Cyc :=
  if c.used.contains (bankIx off) then (none, c)
  else
    let p := ((taskOf c.s n).map fun (_, t) => t.part).getD 0
    let slot := (tile c.s n).slot.getD 0
    let (bs, bad, s) := readKey c.s (.requester p) (keyTile n off) 64 (fun r => tileCtx c.s n mover (taskCtx c.s slot r))
    let c := { c with s := s, used := bankIx off :: c.used }
    (some (beforeLaid (tile s n) c.y off bs false), match bad with
      | [] => c
      | w :: _ => c.exc n mover 0x21 pc (w - keyTile n (tile s n).base))

/-- The wrong bits of beat k of a stream. -/
def noiseOf (noise : LinkNoise) (k : Nat) : List (Nat × BitVec 80) := noise.filterMap fun x => if x.1 = k then some x.2 else none

/-- The beats that the link into a side has carried, and those that the input has captured (R157). -/
def linkCount (t : Tile) (side : Nat) : Nat × Nat := SMap.get (0, 0) t.linkSeq side

/-- A beat leaves tile n on a side in cycle y, encoded for the link with its sequence (R157), and reaches its neighbour's input L cycles later. -/
def sendBeat (s : State) (n side y : Nat) (data : List Byte) (pc : Word) (flips : List (Nat × BitVec 80)) : State :=
  match taskOf s n with
  | none => s
  | some (_, t) =>
    match t.neighbour n side with
    | none => s
    | some m => updTile s m fun (x : Tile) =>
        let i := (side + 2) % 4
        let (sent, got) := linkCount x i
        { x with beats := x.beats ++ [{ side := i, cycle := y + driftL, data := data, pc := pc, seq := sent, flips := flips }],
                 linkSeq := SMap.set x.linkSeq i ((sent + 1) % 2 ^ 16, got) }

/-- The check of a word of a beat under the V that the input of tile n expects: sequence `want` (R157, R264). -/
def beatWord (n : Nat) (b : Beat) (want w : Nat) : EccResult :=
  eccDecode ((b.flips.filter fun x => x.1 == w).foldl (fun e x => e ^^^ x.2) 0) (foldDrift n b.side w b.seq ^^^ foldDrift n b.side w want)

/-- A word of a beat as its check delivers it. -/
def beatData (n : Nat) (b : Beat) (want w : Nat) : List Byte :=
  let x := (b.data.drop (8 * w)).take 8
  let e := (b.flips.filter fun x => x.1 == w).foldl (fun e x => e ^^^ x.2) 0
  match beatWord n b want w with
  | .corrected _ bits => bytesOf 8 (Nat.xor (ofBytes x) (eccResidue e bits).toNat)
  | _ => bytesOf 8 (Nat.xor (ofBytes x) (e.setWidth 64).toNat)

/-- The counters of PL_DRIFT_ERR for an input side (Table 6.9): corrected and uncorrectable beats. -/
def driftErr (side : Nat) (ue : Bool) : Fld :=
  match side, ue with
  | 0, true => F.PL_DRIFT_ERR_N_UE
  | 0, false => F.PL_DRIFT_ERR_N_CE
  | 1, true => F.PL_DRIFT_ERR_E_UE
  | 1, false => F.PL_DRIFT_ERR_E_CE
  | 2, true => F.PL_DRIFT_ERR_S_UE
  | 2, false => F.PL_DRIFT_ERR_S_CE
  | _, true => F.PL_DRIFT_ERR_W_UE
  | _, false => F.PL_DRIFT_ERR_W_CE

/-- Tile n's input captures a beat (R157): a corrected beat counts; an uncorrectable one counts and is an invalid beat. -/
def checkBeat (s : State) (n : Nat) (b : Beat) : Option (List Byte) × State :=
  let (sent, got) := linkCount (tile s n) b.side
  let s := updTile s n fun t => { t with linkSeq := SMap.set t.linkSeq b.side (sent, (got + 1) % 2 ^ 16) }
  if b.flips.isEmpty && b.seq == got then (some b.data, s)
  else
    let rs := (List.range 8).map (beatWord n b got)
    if rs.any fun r => match r with
        | .bad _ => true
        | _ => false
    then (none, finc s (driftErr b.side true) 1 n)
    else (some ((List.range 8).flatMap (beatData n b got)), if rs.all (· == .clean) then s else finc s (driftErr b.side false) 1 n)

/-! ### Reads of a cycle -/

/-- The DOUT reads of a tile in cycle y, sides in order N, E, S, W (Tables 4.12, 5.1 and 5.2). -/
def doutReads (c : Cyc) (n y : Nat) : Cyc :=
  let ds := (tile c.s n).douts
  let c := (List.range 4).foldl (fun (c : Cyc) side =>
    match ds.find? fun d => d.side == side && decide (d.start + 1 + d.done = y) && decide (d.done < d.n) with
    | none => c
    | some d =>
      match c.read n ((tile c.s n).base + beatOff d.desc d.done) true d.pc with
      | (some bs, c) => { c with s := sendBeat c.s n side y bs d.pc (noiseOf d.noise d.done) }
      | (none, c) => { c with s := finc c.s F.TS_REFUSE_DOUT_REFUSED 1 n }) c
  let s := updTile c.s n fun (t : Tile) =>
    { t with douts := (t.douts.map fun d => if d.start + 1 + d.done = y then { d with done := d.done + 1 } else d).filter fun d => decide (d.done < d.n) }
  { c with s := s }

/-- One operand of an MMA in an operand cycle o: its data and scale lists with what this cycle's reads add. -/
def operandRead (c : Cyc) (n : Nat) (m : MmaOp) (src : OperandSrc) (f pace : Nat) (ins scs : List (List Byte)) :
    List (List Byte) × List (List Byte) × Cyc :=
  if m.pos % pace ≠ 0 then (ins, scs, c)
  else
    let j := m.pos / pace
    match src with
    | .drift _ => (ins, scs, c)
    | .wide bs => (if ins.length = j then ins ++ [nth bs j []] else ins, scs, c)
    | .desc d =>
      let base := (tile c.s n).base
      let (ins, c) :=
        if ins.length = j then
          match c.read n (base + beatOff d j) false m.pc with
          | (some b, c) => (ins ++ [b], c)
          | (none, c) => (ins, c)
        else (ins, c)
      if f = 5 ∧ j % 16 = 0 ∧ scs.length = j / 16 then
        match c.read n (base + dScale d + 64 * (j / 16)) false m.pc with
        | (some b, c) => (ins, scs ++ [b], c)
        | (none, c) => (ins, scs, c)
      else (ins, scs, c)

/-- Steps per two core cycles of an MMA. -/
def MmaOp.rate (m : MmaOp) : Nat := ((mmaPair m.fa m.fb).map (·.1)).getD 2

/-- Whether an operand's store and register beats for operand cycle `pos` have been taken. -/
def operandReady (m : MmaOp) (src : OperandSrc) (f pace : Nat) (ins scs : List (List Byte)) : Bool :=
  match src with
  | .drift _ => true
  | _ => decide (m.pos / pace < ins.length) && (decide (f ≠ 5) || decide (m.pos / pace / 16 < scs.length))

/-- Whether every store and register beat of the present operand cycle has been taken. -/
def MmaOp.ready (m : MmaOp) : Bool :=
  operandReady m m.a m.fa (beatPace m.rate m.fa) m.inA m.scA && operandReady m m.b m.fb (beatPace m.rate m.fb) m.inB m.scB

/-- The cycle of an MMA's next operand step. -/
def MmaOp.next (m : MmaOp) : Nat := m.t + 1 + m.pos + m.late

/-- Change the oldest MMA of a tile whose operands have not all been taken; a later one that would step in the same cycle moves one cycle later (R136). -/
def updMma (s : State) (n y : Nat) (f : MmaOp → MmaOp) : State :=
  let a := arith s n
  match a.mmas.findIdx? fun m => decide (m.pos < m.n) with
  | none => s
  | some i =>
    let ms := a.mmas.zipIdx.map fun ((m : MmaOp), (k : Nat)) =>
      if k = i then f m else if i < k ∧ m.next = y then { m with late := m.late + 1 } else m
    setArith s n { a with mmas := ms }

/-- The MMA of a tile that steps in cycle y. -/
def mmaAt (s : State) (n y : Nat) : Option MmaOp :=
  ((arith s n).mmas.find? fun m => decide (m.pos < m.n)).bind fun m => if m.next = y then some m else none

/-- The MMA reads of a tile in cycle y: operand A, then operand B, scale beats included (Table 5.1). -/
def mmaReads (c : Cyc) (n y : Nat) : Cyc :=
  match mmaAt c.s n y with
  | none => c
  | some m =>
    let (ia, sa, c) := operandRead c n m m.a m.fa (beatPace m.rate m.fa) m.inA m.scA
    let (ib, sb, c) := operandRead c n m m.b m.fb (beatPace m.rate m.fb) m.inB m.scB
    { c with s := updMma c.s n y fun m => { m with inA := ia, scA := sa, inB := ib, scB := sb } }

/-- All scheduled reads of a tile in cycle y. -/
def tileReads (y : Nat) (c : Cyc) (n : Nat) : Cyc := mmaReads (doutReads { c with used := [] } n y) n y

/-! ### Captures of a cycle -/

/-- What captures an input in a cycle: operand A or B of the MMA, or a stream. -/
inductive Catch where
  | opA (pc : Word)
  | opB (pc : Word)
  | stream (k : Consumer)
deriving DecidableEq, Repr

/-- The consumers of a tile's inputs in cycle y, as input side and consumer (R117). -/
def catchers (s : State) (n y : Nat) : List (Nat × Catch) :=
  let ops := match mmaAt s n y with
    | some m =>
      if m.ready then
        (match m.a with
         | .drift d => if m.pos % beatPace m.rate m.fa = 0 then [(d, Catch.opA m.pc)] else []
         | _ => []) ++
        (match m.b with
         | .drift d => if m.pos % beatPace m.rate m.fb = 0 then [(d, Catch.opB m.pc)] else []
         | _ => [])
      else []
    | none => []
  ops ++ ((tile s n).cons.filter fun k => decide (k.start + 1 + k.done = y) && decide (k.done < k.n)).map fun k => (k.side, Catch.stream k)

/-- The tile's core and PC that a consumer's exceptions name. -/
def Catch.who : Catch → Bool × Word
  | .opA pc => (false, pc)
  | .opB pc => (false, pc)
  | .stream k => (true, k.pc)

/-- A consumer takes a beat's bytes in cycle y. -/
def takeBeat (s : State) (n y side : Nat) (bs : List Byte) : Catch → State
  | .opA _ => updMma s n y fun m => { m with inA := m.inA ++ [bs] }
  | .opB _ => updMma s n y fun m => { m with inB := m.inB ++ [bs] }
  | .stream k =>
    match k.sink with
    | .desc d =>
      let w : StoreBeat := { cycle := y + 1, side := side, off := (tile s n).base + beatOff d k.done, data := bs, pc := k.pc }
      updTile s n fun (t : Tile) => { t with wbeats := t.wbeats ++ [w] }
    | .forward o => sendBeat s n o (y + 1) bs k.pc (noiseOf k.noise k.done)

/-- One input of a tile in cycle y: the beat that reaches it, if any, and its consumer, if any (R117, R157). -/
def captureSide (c : Cyc) (n y side : Nat) (ks : List (Nat × Catch)) : Cyc :=
  let beat := (tile c.s n).beats.find? fun b => b.side == side && decide (b.cycle = y)
  match ks.find? fun k => k.1 == side, beat with
  | none, none => c
  | none, some b => if (tile c.s n).fenced then c else c.exc n true 0x1C b.pc 0
  | some (_, k), none => c.exc n k.who.1 0x1B k.who.2 0
  | some (_, k), some b =>
    match checkBeat c.s n b with
    | (some bs, s) => { c with s := takeBeat s n y side bs k }
    | (none, s) => { c with s := s }.exc n k.who.1 0x1B k.who.2 0

/-- The captures of a tile in cycle y; an MMA whose reads were refused loses the cycle (Table 5.2). -/
def tileCaptures (y : Nat) (c : Cyc) (n : Nat) : Cyc :=
  let ks := catchers c.s n y
  let c := (List.range 4).foldl (fun c side => captureSide c n y side ks) c
  let s := match mmaAt c.s n y with
    | some m =>
      if m.ready then updMma c.s n y fun m => { m with pos := m.pos + 1 }
      else finc (updMma c.s n y fun m => { m with late := m.late + 1 }) F.TS_REFUSE_MMA_STALL 1 n
    | none => c.s
  let s := updTile s n fun (t : Tile) =>
    { t with
      beats := t.beats.filter fun b => decide (y < b.cycle),
      cons := (t.cons.map fun k => if k.start + 1 + k.done = y then { k with done := k.done + 1 } else k).filter fun k => decide (k.done < k.n) }
  { c with s := s }

/-! ### Writes of a cycle -/

/-- The beats of a drained row, by index within the row. -/
def DrainOp.width (d : DrainOp) : Nat := fmtBits d.fmt / 8

/-- The drain row that a tile writes in cycle y (Table 3.7): beats in order, a beat whose bank another beat of the row holds waits a cycle (Table 5.2). A
written row sets its flags and is checked (R74, R75). -/
def drainWrites (c : Cyc) (n y : Nat) : Cyc :=
  let a := arith c.s n
  match a.drains.find? fun d => decide (d.row < 64) && decide (d.t + d.row + 6 + d.late = y) with
  | none => c
  | some d =>
    let w := d.width
    let es := nth d.rows d.row ([], 0)
    let base := (tile c.s n).base
    let (c, part) := (List.range w).foldl (fun (acc : Cyc × List Nat) q =>
      let off := base + beatOff d.dst (d.row * w + q)
      if acc.2.contains q || acc.1.used.contains (bankIx off) then acc
      else
        let bs := packElems (8 * w) ((es.1.drop (64 / w * q)).take (64 / w))
        ({ acc.1 with s := bankWrite acc.1.s n off bs, used := bankIx off :: acc.1.used }, acc.2 ++ [q])) (c, d.part)
    let upd := fun (f : DrainOp → DrainOp) (a : Arith) => { a with drains := a.drains.map fun x => if x = d then f x else x }
    let a := arith c.s n
    if part.length = w then
      let a := upd (fun x => { x with row := x.row + 1, part := [] }) { a with aflags := Nat.lor a.aflags es.2 }
      let a := match taskOf c.s n with
        | some (_, t) => checkDrainRow t a d.fmt d.row (beatOff d.dst (d.row * w)) d.pc es.1 y
        | none => a
      { c with s := setArith c.s n a }
    else
      { c with s := finc (setArith c.s n (upd (fun x => { x with late := x.late + 1, part := part }) a)) F.TS_REFUSE_DRAIN_STALL 1 n }

/-- The DIN writes of a tile in cycle y, sides in order (Tables 4.12, 5.1 and 5.2). -/
def dinWrites (c : Cyc) (n y : Nat) : Cyc :=
  let ws := (tile c.s n).wbeats.filter fun w => decide (w.cycle = y)
  let c := (List.range 4).foldl (fun (c : Cyc) side =>
    match ws.find? fun w => w.side == side with
    | none => c
    | some w =>
      if c.used.contains (bankIx w.off) then { c with s := finc c.s F.TS_REFUSE_DIN_REFUSED 1 n }.exc n true 0x1C w.pc 0
      else { c with s := bankWrite c.s n w.off w.data, used := bankIx w.off :: c.used }) c
  { c with s := updTile c.s n fun (t : Tile) => { t with wbeats := t.wbeats.filter fun w => decide (y < w.cycle) } }

/-- All scheduled writes of a tile in cycle y. -/
def tileWrites (y : Nat) (c : Cyc) (n : Nat) : Cyc := dinWrites (drainWrites { c with used := [] } n y) n y

/-! ### Core accesses beside scheduled traffic -/

/-- The banks of a tile whose read port scheduled requests hold in cycle y, the traffic before it having happened (Table 5.1). -/
def readBanks (s : State) (n y : Nat) : List Nat := (tileReads y { s := s, y := y, excs := [], used := [] } n).used

/-- The banks whose write port scheduled requests hold. -/
def writeBanks (s : State) (n y : Nat) : List Nat := (tileWrites y { s := s, y := y, excs := [], used := [] } n).used

/-- A core access that reads and writes the beats at some absolute offsets waits a cycle while scheduled traffic holds one of their banks (R106, R135). -/
def bankWait (n : Nat) (reads writes : State → List Nat) (s : State) : Nat :=
  if schedActive s n &&
      ((reads s).any (fun a => (readBanks s n s.clk.cyc).contains (bankIx a)) ||
       (writes s).any fun a => (writeBanks s n s.clk.cyc).contains (bankIx a)) then s.clk.cyc + 1 else 0

/-! ### A cycle -/

/-- Which of two exceptions of one region in one cycle the record names (Table 4.16). -/
def excBefore (s : State) (a b : Exc) : Bool :=
  let la := (logicalOf s a.tile).getD a.tile
  let lb := (logicalOf s b.tile).getD b.tile
  decide (la < lb) || (decide (la = lb) && ((!a.mover && b.mover) || (a.mover == b.mover && decide (a.code < b.code))))

/-- Raise an exception in a past cycle: its time is that cycle's. -/
def raiseAt (s : State) (y : Nat) (e : Exc) : State :=
  let now := s.clk.cyc
  let s := raise { s with clk := { s.clk with cyc := y } } e.slot ⟨e.tile, e.mover⟩ e.code e.pc (BitVec.ofNat 64 e.aux)
  { s with clk := { s.clk with cyc := max now s.clk.cyc } }

/-- Raise the exceptions of a cycle, one for each region. -/
def raiseAll (s : State) (y : Nat) (es : List Exc) : State :=
  ((es.map (·.slot)).eraseDups).foldl (fun s k =>
    match leastBy (excBefore s) (es.filter fun e => e.slot == k) with
    | some e => raiseAt s y e
    | none => s) s

/-- One core cycle of the scheduled traffic: reads, captures, then writes, so that a read returns the value before a write of its cycle (R135). -/
def schedCycle (s : State) (y : Nat) : State :=
  let ts := activeTiles s
  let c : Cyc := { s := s, y := y, excs := [], used := [] }
  let c := ts.foldl (tileReads y) c
  let c := ts.foldl (tileCaptures y) c
  let c := ts.foldl (tileWrites y) c
  raiseAll c.s y c.excs

/-- Cycles y, y + 1, ... of the scheduled traffic, `fuel` of them, ending early when nothing is in progress. -/
def schedRun : Nat → Nat → State → State
  | 0, _, s => s
  | fuel + 1, y, s => if (activeTiles s).isEmpty then s else schedRun fuel (y + 1) (schedCycle s y)

/-- What has become readable or complete before cycle c: accumulators n + 12 cycles after an MMA (R73), drains after D + 70 (R75), flags of results. -/
def retireArith (c : Nat) (a : Arith) : Arith :=
  let a := foldMmas (fun m => decide (m.t + m.n + 12 + m.late ≤ c)) a
  { a with
    aflags := (a.due.filter fun x => decide (x.1 < c)).foldl (fun f x => Nat.lor f x.2) a.aflags,
    due := a.due.filter fun x => decide (c ≤ x.1),
    drains := a.drains.filter fun d => !(decide (d.row = 64) && decide (d.t + 70 + d.late ≤ c)) }

/-- Bring the scheduled traffic up to the start of core cycle c, no further than the Tick's closing boundary (R55). -/
def settle (s : State) (c : Nat) : State :=
  let c := min c (cycleAt s (closing s))
  let s := schedRun (c - s.clk.settled) s.clk.settled s
  { s with ariths := s.ariths.mapVals fun _ a => retireArith c a,
           clk := { s.clk with settled := max s.clk.settled c } }

end Sys2Proof.Machine
end

