-- ==== Sys2Proof/Machine/Edley.lean ====
section
/-! DEFINITION. How an Edley core issues an instruction (chapter 4): when it may issue (R126), the check order of R128, register files (R90), the PC and
hardware loops (R102, R103), and the gather buffers (R139 to R142). -/

namespace Sys2Proof.Machine

/-! ### Register files -/

/-- A g register: g0 reads 0. -/
def Core.gr (c : Core) (r : Nat) : Word := if r = 0 then 0 else SMap.get 0 c.g r

/-- A predicate: p0 reads all ones. -/
def Core.pr (c : Core) (r : Nat) : Word := if r = 0 then BitVec.allOnes 64 else SMap.get 0 c.p r

/-- A wide register. -/
def Core.wr (c : Core) (r : Nat) : BitVec 2048 := SMap.get 0 c.w r

/-- A descriptor register. -/
def Core.dr (c : Core) (r : Nat) : BitVec 256 := SMap.get 0 c.d r

/-- The scoreboard key of g register r. -/
def kG (r : Nat) : Nat := r
/-- The scoreboard key of w register r. -/
def kW (r : Nat) : Nat := 32 + r
/-- The scoreboard key of p register r. -/
def kP (r : Nat) : Nat := 64 + r
/-- The scoreboard key of d register r. -/
def kD (r : Nat) : Nat := 80 + r

/-- Write a g register at cycle t, readable lat cycles later; writes to g0 are discarded (R90). -/
def Core.setG (c : Core) (r : Nat) (v : Word) (at_ : Nat) : Core :=
  if r = 0 then c else { c with g := SMap.set c.g r v, rdy := SMap.set c.rdy (kG r) at_ }

/-- Write a predicate; writes to p0 are discarded (R90). -/
def Core.setP (c : Core) (r : Nat) (v : Word) (at_ : Nat) : Core :=
  if r = 0 then c else { c with p := SMap.set c.p r v, rdy := SMap.set c.rdy (kP r) at_ }

/-- Write a wide register. -/
def Core.setW (c : Core) (r : Nat) (v : BitVec 2048) (at_ : Nat) : Core :=
  { c with w := SMap.set c.w r v, rdy := SMap.set c.rdy (kW r) at_ }

/-- Write a descriptor register. -/
def Core.setD (c : Core) (r : Nat) (v : BitVec 256) (at_ : Nat) : Core :=
  { c with d := SMap.set c.d r v, rdy := SMap.set c.rdy (kD r) at_ }

/-! ### The PC and hardware loops (R102, R103) -/

/-- The next PC in sequence: a loop whose body ends here starts its next pass, or ends. -/
def seqNext : List Loop → Word → Word × List Loop
  | [], next => (next, [])
  | l :: ls, next =>
    if next = l.after then
      if 1 < l.left then (l.first, { l with left := l.left - 1 } :: ls) else seqNext ls next
    else (next, l :: ls)

/-- Whether a loop's body holds an address. -/
def Loop.holds (l : Loop) (a : Word) : Bool := decide (l.first.toNat ≤ a.toNat) && decide (a.toNat < l.after.toNat)

/-- The loops that stay active after a taken branch to an address (R103). -/
def branchLoops (ls : List Loop) (a : Word) : List Loop :=
  match ls with
  | [] => []
  | l :: rest => if l.holds a then ls else rest.filter fun l => l.holds a

/-- A core after an instruction that falls through to `next`. -/
def Core.fall (c : Core) (next : Word) (at_ : Nat) : Core :=
  let (pc, ls) := seqNext c.loops next
  { c with pc := pc, loops := ls, readyAt := at_ }

/-- A core after a taken branch or jump. -/
def Core.jump (c : Core) (a : Word) (at_ : Nat) : Core := { c with pc := a, loops := branchLoops c.loops a, readyAt := at_ }

/-! ### Issue -/

/-- An instruction at issue: the slot and task, and the cycle in which it issues. -/
structure Issue where
  slot : Nat
  task : Task
  t    : Nat
deriving DecidableEq, Repr

/-- The cycle in which a core's next instruction can issue: not before the present one, the core's issue interval and the results it reads (R126). -/
def issueCycle (s : State) (c : CoreRef) (srcs : List Nat) : Nat :=
  let k := coreAt s c
  srcs.foldl (fun m r => max m (SMap.get 0 k.rdy r)) (max s.clk.cyc k.readyAt)

/-- The core that may issue: its task has started, it runs, and its tile is not fenced. -/
def runnable? (s : State) (c : CoreRef) : Option (Nat × Task) :=
  match taskOf s c.tile with
  | some (k, t) => if t.started = true ∧ (coreAt s c).st = .run ∧ (tile s c.tile).fenced = false then some (k, t) else none
  | none => none

/-- Wait for a bound that may itself move as the scheduled traffic goes on: time settles at the first cycle from t on that is not before the bound. -/
def waitFor (lb : State → Nat) : Nat → State → Nat → Nat × State
  | 0, s, t => (t, s)
  | fuel + 1, s, t =>
    let s := advanceTo (settle s t) t
    if lb s ≤ t then (t, s) else if cycleAt s (closing s) ≤ lb s then (lb s, s) else waitFor lb fuel s (lb s)

/-- The issue of a core's next instruction: time moves on to it and the scheduled traffic before it has happened; `lb` is a bound that the unit it
uses sets. None when the core cannot issue, or the Tick's closing boundary comes first (R55, R129). -/
def issue? (s : State) (c : CoreRef) (srcs : List Nat) (lb : State → Nat := fun _ => 0) : Option (State × Issue) :=
  match runnable? s c with
  | none => none
  | some _ =>
    let t := issueCycle s c srcs
    if cycleAt s (closing s) ≤ t then none
    else
      let (t, s1) := waitFor lb 65536 s t
      if cycleAt s (closing s) ≤ t then none else (runnable? s1 c).map fun (k, x) => (s1, ⟨k, x, t⟩)

/-- The failing check that is raised: the lowest cause code (R128). -/
def firstFault (es : List (Nat × Word)) : Option (Nat × Word) := leastBy (fun a b => decide (a.1 < b.1)) es

/-- A check: its cause code and auxiliary word when it fails. -/
def chk (bad : Bool) (code : Nat) (aux : Word := 0) : List (Nat × Word) := if bad then [(code, aux)] else []

/-- The first failure of checks made in a stated order. -/
def ordered (es : List (List (Nat × Word))) : List (Nat × Word) := (es.flatMap id).take 1

/-- The check of the fetch (R102): the PC lies in the code. -/
def pcChecks (k : Core) (t : Task) : List (Nat × Word) := chk (decide (k.pc.toNat < 128) || decide (t.codeEnd ≤ k.pc.toNat)) 0x01 k.pc

/-- RESERVED_FIELD when a field that must be 0 is not (R99). -/
def rsv (bad : Bool) : List (Nat × Word) := chk bad 0x04

/-- Which cores hold an instruction (Table 4.6). -/
inductive Holder where
  | both
  | issue
  | mover
deriving DecidableEq, Repr

/-- CORE_CLASS (R98). -/
def classChecks (h : Holder) (c : CoreRef) : List (Nat × Word) :=
  match h with
  | .both => []
  | .issue => chk c.mover 0x03
  | .mover => chk (!c.mover) 0x03

/-- An instruction: what holds it, the registers it reads, its checks, and its effect, which answers none while the instruction must wait. The
effect leaves the PC and the issue interval to `retire`. -/
def runOp (s : State) (c : CoreRef) (h : Holder) (srcs : List Nat) (checks : State → Issue → List (Nat × Word))
    (effect : State → Issue → Option State) (lb : State → Nat := fun _ => 0) : Ans :=
  match issue? s c srcs lb with
  | none => finish s
  | some (s1, i) =>
    match firstFault (pcChecks (coreAt s1 c) i.task ++ classChecks h c ++ checks s1 i) with
    | some (code, aux) => finish (raise s1 i.slot c code (coreAt s1 c).pc aux)
    | none =>
      match effect s1 i with
      | some s2 => finish s2
      | none => finish s

/-- An instruction has retired: the core moves on to the next one, issuing no earlier than `iv` cycles after this one (Table 4.14). A core whose
task has ended meanwhile is left alone. -/
def retire (s : State) (c : CoreRef) (t iv : Nat) : State :=
  if (coreAt s c).st = .run then updCore s c fun k => k.fall (k.pc + 4) (t + iv) else s

/-- An instruction that only changes its core's registers: interval, and the change at its issue cycle. -/
def regOp (s : State) (c : CoreRef) (h : Holder) (srcs : List Nat) (iv : Nat) (checks : Core → List (Nat × Word)) (f : Core → Nat → Core) : Ans :=
  runOp s c h srcs (fun s _ => checks (coreAt s c)) fun s i => some (retire (updCore s c fun k => f k i.t) c i.t iv)

/-! ### Tile-store access -/

/-- Whether an access of n bytes at relative offset e lies outside the task's store range (R104). -/
def outside (s : State) (tl e n : Nat) : Bool := decide (0x180000 < (tile s tl).base + e + n)

/-- A relative offset formed from a register and a signed displacement, modulo 2^64. -/
def effAddr (r : Word) (d : Int) : Word := r + BitVec.ofInt 64 d

/-- The gather entries of a core (R139). -/
def gather (t : Tile) (mover : Bool) : List GEntry := if mover then t.gatherM else t.gatherI

/-- A tile with a core's gather entries replaced. -/
def setGather (t : Tile) (mover : Bool) (es : List GEntry) : Tile := if mover then { t with gatherM := es } else { t with gatherI := es }

/-- Write an entry to its bank (R140, R142). -/
def writeEntry (s : State) (tl : Nat) (e : GEntry) : State :=
  let s := (writeLine (noteLaid s tl e.line 64 false) (keyTile tl e.line) (e.data.zip e.mask)).2
  (gatherRuns 0 (e.data.zip e.mask)).foldl (fun s (o, bs) => loadWindows s tl (storeBase s tl) (e.line + o) bs.length) s

/-- The lines of a core's entries. -/
def gatherLines (c : CoreRef) (s : State) : List Nat := (gather (tile s c.tile) c.mover).map (·.line)

/-- An instruction that has its core's entries written first waits while scheduled writes hold one of their banks. -/
def flushWait (c : CoreRef) : State → Nat := bankWait c.tile (fun _ => []) (gatherLines c)

/-- Write a core's entries, oldest first, and empty its buffer (R140). -/
def flushGather (s : State) (tl : Nat) (mover : Bool) : State :=
  let es := gather (tile s tl) mover
  es.foldl (fun s e => writeEntry s tl e) (updTile s tl fun (t : Tile) => setGather t mover [])

/-- A blank entry of a line. -/
def blankEntry (line : Nat) : GEntry := { line := line, data := List.replicate 64 0, mask := List.replicate 64 false, last := 0 }

/-- An entry with bytes merged at an offset within its line, at cycle t. -/
def mergeEntry (e : GEntry) (o : Nat) (bs : List Byte) (t : Nat) : GEntry :=
  { e with
    data := e.data.zipIdx.map fun (b, i) => if o ≤ i ∧ i < o + bs.length then nth bs (i - o) b else b,
    mask := e.mask.zipIdx.map fun (m, i) => m || (decide (o ≤ i) && decide (i < o + bs.length)),
    last := t }

/-- A core's ST of bytes at an absolute offset (R139): it waits for the other core's entry of the line and, with no entry free, for its oldest to be
written; it merges, and a full entry is written. -/
def gatherStore (s : State) (tl : Nat) (mover : Bool) (a : Nat) (bs : List Byte) (t : Nat) : State :=
  let line := a / 64 * 64
  let other := (gather (tile s tl) (!mover)).filter fun e => e.line == line
  let s := other.foldl (fun s e => writeEntry s tl e) (updTile s tl fun (x : Tile) => setGather x (!mover) ((gather x (!mover)).filter fun e => e.line != line))
  let own := gather (tile s tl) mover
  let (s, own) :=
    if own.any fun e => e.line == line then (s, own)
    else if own.length < 4 then (s, own ++ [blankEntry line])
    else match own with
      | e :: es => (writeEntry s tl e, es ++ [blankEntry line])
      | [] => (s, [blankEntry line])
  let own := own.map fun e => if e.line = line then mergeEntry e (a - line) bs t else e
  let full := own.filter fun e => e.mask.all id
  let s := updTile s tl fun (x : Tile) => setGather x mover (own.filter fun e => !e.mask.all id)
  full.foldl (fun s e => writeEntry s tl e) s

/-- The byte that a load by a core of the tile sees: the gather buffers of both cores over the bank (R141); the mover's byte lies over the issue core's (R139). -/
def loadByte (t : Tile) (a : Nat) (bank : Byte) : Byte :=
  let look := fun (es : List GEntry) (b : Byte) =>
    match es.find? fun e => e.line == a / 64 * 64 with
    | some e => if nth e.mask (a % 64) false then nth e.data (a % 64) b else b
    | none => b
  look t.gatherM (look t.gatherI bank)

/-- The lines that an ST of n bytes at an absolute offset has written to their banks: an entry of the other core for its line, the oldest own entry when none is free, and
its own line when it fills it (R139, R140). -/
def stWrites (t : Tile) (mover : Bool) (a n : Nat) : List Nat :=
  let line := a / 64 * 64
  let own := gather t mover
  let mine := own.find? fun e => e.line == line
  (if (gather t (!mover)).any (fun e => e.line == line) then [line] else []) ++
  (if mine.isNone && decide (4 ≤ own.length) then (own.head?.map (·.line)).toList else []) ++
  (match mine with
   | some e => if (e.mask.zipIdx.all fun (m, i) => m || (decide (a - line ≤ i) && decide (i < a - line + n))) then [line] else []
   | none => [])

/-- Load n bytes at an absolute offset for a core: the bytes and the uncorrectable words met, as absolute offsets (R141, R151). -/
def loadStore (s : State) (slot : Nat) (c : CoreRef) (a n : Nat) : List Byte × List Nat × State :=
  let p := ((task? s slot).map fun t => t.part).getD 0
  let (bs, bad, s) := readKey s (.requester p) (keyTile c.tile a) n (fun r => tileCtx s c.tile c.mover (taskCtx s slot r))
  let bs := beforeLaid (tile s c.tile) s.clk.cyc a bs true
  (bs.zipIdx.map fun (b, i) => loadByte (tile s c.tile) (a + i) b, bad.map (· - keyTile c.tile 0), s)

/-- A load's effect: its bytes given to `f`, or MEM_UNCORRECTABLE for the first bad word with its relative offset (R151). -/
def withLoad (s : State) (i : Issue) (c : CoreRef) (e n : Nat) (f : State → List Byte → State) : State :=
  let base := (tile s c.tile).base
  let (bs, bad, s) := loadStore s i.slot c (base + e) n
  match bad with
  | [] => f s bs
  | w :: _ => raise s i.slot c 0x21 (coreAt s c).pc (BitVec.ofNat 64 (w - base))

end Sys2Proof.Machine
end

