-- ==== Sys2Proof/Machine/StoreInstr.lean ====
section
/-! DEFINITION. Tile-store instructions (R105, R106), the store engine (R143), the writing of gather entries (R140), remote lines and reads (R147, R149)
and the scrubber (R150, R151). -/

namespace Sys2Proof.Machine

/-- An event of a running tile at a cycle: time moves on to it. None when the Tick's closing boundary comes first (R55). -/
def eventAt (s : State) (t : Nat) : Option State :=
  let t := max s.clk.cyc t
  if cycleAt s (closing s) ≤ t then none else some (advanceTo (settle s t) t)

/-- STORE_ALIGN and STORE_BOUND of an access of n bytes at a relative offset (R104, R105). -/
def storeChecks (s : State) (tl : Nat) (e : Word) (n : Nat) : List (Nat × Word) :=
  chk (decide (e.toNat % n ≠ 0)) 0x0C e ++ chk (outside s tl e.toNat n) 0x0D e

/-- The offset of an LD or ST. -/
def memAddr (k : Core) (i : FmtM) : Word := k.gr i.ra.toNat + i.soff.signExtend 64

/-- The bytes of an LD or ST. -/
def accBytes (i : FmtM) : Nat := 2 ^ i.sz.toNat

/-- A loaded value: sign-extended when sx is 1. -/
def loadValue (i : FmtM) (bs : List Byte) : Word :=
  if i.sx = 1 then BitVec.ofInt 64 (signed (8 * (accBytes i)) (ofBytes bs)) else BitVec.ofNat 64 (ofBytes bs)

/-! ### The two cores of a tile (R106, R129) -/

/-- What a load of a core at a cycle finds of bytes that a store of the other core has just changed: a store is visible to loads issued at least 2 cycles
after it (R106); before that a load returns the value before the store. The latest store stands first. -/
def beforeOther (t : Tile) (mover : Bool) (cyc a : Nat) (bs : List Byte) : List Byte :=
  t.recent.foldl (fun bs y => if y.mover ≠ mover ∧ cyc < y.cyc + 2 then overlay a bs y.off y.old else bs) bs

/-- Bytes that a core stores: where the mover core has stored to the same byte in the same cycle, the mover core's value remains (Table 4.16). -/
def underMover (t : Tile) (mover : Bool) (cyc a : Nat) (bs : List Byte) : List Byte :=
  if mover then bs else t.recent.foldr (fun y bs => if y.mover ∧ y.cyc = cyc then overlay a bs y.off y.new else bs) bs

/-- Note a store for the other core's loads. The storing core's own loads see it at once. -/
def noteStore (s : State) (c : CoreRef) (a cyc : Nat) (bs : List Byte) : State :=
  let t := tile s c.tile
  let old := (rangeFrom a bs.length).map fun o => loadByte t o (memByte s.mem (keyTile c.tile o))
  let kept := t.recent.filter fun y => decide (cyc < y.cyc + 2)
  updTile s c.tile fun t =>
    { t with recent := { cyc := cyc, mover := c.mover, off := a, old := old, new := bs } ::
               kept.map fun y => if y.mover = c.mover then y else { y with old := overlay y.off y.old a bs } }

/-- A core stores bytes at an absolute offset in a cycle, by `put`. -/
def coreStore (s : State) (c : CoreRef) (a cyc : Nat) (bs : List Byte) (put : State → List Byte → State) : State :=
  let bs := underMover (tile s c.tile) c.mover cyc a bs
  put (noteStore s c a cyc bs) bs

/-- A load's effect, its bytes as the core sees them given to `f` (R106). -/
def coreLoad (s : State) (i : Issue) (c : CoreRef) (e n : Nat) (f : State → List Byte → State) : State :=
  withLoad s i c e n fun s bs => f s (beforeOther (tile s c.tile) c.mover i.t ((tile s c.tile).base + e) bs)

/-- The offsets of the four beats of a 256-byte access. -/
def wideBeats (a : Nat) : List Nat := (List.range 4).map fun q => a + 64 * q

/-- A load of the beats at a relative offset waits for their banks (R106). The four beats of a WLD are read in its issue cycle (DESIGN CHOICE, log entry 80). -/
def loadWait (c : CoreRef) (beats : Nat) (off : Core → Nat) : State → Nat :=
  bankWait c.tile (fun s => (wideBeats ((tile s c.tile).base + off (coreAt s c))).take beats) fun _ => []

/-- ST waits for the banks of the lines that it has written. -/
def stWait (c : CoreRef) (i : FmtM) : State → Nat :=
  bankWait c.tile (fun _ => []) fun s => stWrites (tile s c.tile) c.mover ((tile s c.tile).base + (memAddr (coreAt s c) i).toNat) (accBytes i)

/-- LD (R105). -/
def execLd (c : CoreRef) (i : FmtM) (s : State) : Ans :=
  runOp s c .both [kG i.ra.toNat]
    (fun s _ => rsv (decide (i.sz = 3) && decide (i.sx = 1)) ++ storeChecks s c.tile (memAddr (coreAt s c) i) (accBytes i))
    (fun s x => some (coreLoad s x c (memAddr (coreAt s c) i).toNat (accBytes i) fun s bs =>
      retire (updCore s c fun k => k.setG i.rd.toNat (loadValue i bs) (x.t + 4)) c x.t 1))
    (loadWait c 1 fun k => (memAddr k i).toNat)

/-- ST (R105, R139). -/
def execSt (c : CoreRef) (i : FmtM) (s : State) : Ans :=
  runOp s c .both [kG i.ra.toNat, kG i.rd.toNat]
    (fun s _ => rsv (decide (i.sx = 1)) ++ storeChecks s c.tile (memAddr (coreAt s c) i) (accBytes i))
    (fun s x =>
      let k := coreAt s c
      let a := (tile s c.tile).base + (memAddr k i).toNat
      let s := coreStore s c a x.t (bytesOf (accBytes i) (k.gr i.rd.toNat).toNat) fun s bs => gatherStore s c.tile c.mover a bs x.t
      some (retire s c x.t 1))
    (stWait c i)

/-- The offset of a WLD, WST, DLD or DST whose immediate counts units of n bytes. -/
def unitAddr (k : Core) (i : FmtI) (n : Nat) : Word := k.gr i.ra.toNat + BitVec.ofNat 64 n * i.imm.signExtend 64

/-- The checks of an access of n bytes that must be aligned to m. -/
def blockChecks (s : State) (tl : Nat) (e : Word) (m n : Nat) : List (Nat × Word) :=
  chk (decide (e.toNat % m ≠ 0)) 0x0C e ++ chk (outside s tl e.toNat n) 0x0D e

/-- WLD (R105). -/
def execWld (c : CoreRef) (i : FmtI) (s : State) : Ans :=
  runOp s c .issue [kG i.ra.toNat] (fun s _ => blockChecks s c.tile (unitAddr (coreAt s c) i 64) 64 256)
    (fun s x => some (coreLoad s x c (unitAddr (coreAt s c) i 64).toNat 256 fun s bs =>
      retire (updCore s c fun k => k.setW i.rd.toNat (BitVec.ofNat 2048 (ofBytes bs)) (x.t + 7)) c x.t 4))
    (loadWait c 4 fun k => (unitAddr k i 64).toNat)

/-- WST waits for the banks of the core's gather entries and of its own four beats. -/
def wstWait (c : CoreRef) (i : FmtI) : State → Nat :=
  bankWait c.tile (fun _ => []) fun s => gatherLines c s ++ wideBeats ((tile s c.tile).base + (unitAddr (coreAt s c) i 64).toNat)

/-- WST (R105): the core's gather entries are written first (R140). -/
def execWst (c : CoreRef) (i : FmtI) (s : State) : Ans :=
  runOp s c .issue [kG i.ra.toNat, kW i.rd.toNat] (fun s _ => blockChecks s c.tile (unitAddr (coreAt s c) i 64) 64 256)
    (fun s x =>
      let k := coreAt s c
      let s := flushGather s c.tile c.mover
      let a := (tile s c.tile).base + (unitAddr k i 64).toNat
      let s := coreStore s c a x.t (bytesOf 256 (k.wr i.rd.toNat).toNat) fun s bs => ownWrite s c.tile a bs
      some (retire s c x.t 4))
    (wstWait c i)

/-- DLD (R105). -/
def execDld (c : CoreRef) (i : FmtI) (s : State) : Ans :=
  runOp s c .both [kG i.ra.toNat]
    (fun s _ => rsv (bitOf i.rd 4) ++ blockChecks s c.tile (unitAddr (coreAt s c) i 32) 32 32)
    (fun s x => some (coreLoad s x c (unitAddr (coreAt s c) i 32).toNat 32 fun s bs =>
      retire (updCore s c fun k => k.setD (getBits i.rd 3 0) (BitVec.ofNat 256 (ofBytes bs)) (x.t + 4)) c x.t 1))
    (loadWait c 1 fun k => (unitAddr k i 32).toNat)

/-- DST waits for the bank of its beat. -/
def dstWait (c : CoreRef) (i : FmtI) : State → Nat :=
  bankWait c.tile (fun _ => []) fun s => [(tile s c.tile).base + (unitAddr (coreAt s c) i 32).toNat]

/-- DST (R105). -/
def execDst (c : CoreRef) (i : FmtI) (s : State) : Ans :=
  runOp s c .both [kG i.ra.toNat, kD (getBits i.rd 3 0)]
    (fun s _ => rsv (bitOf i.rd 4) ++ blockChecks s c.tile (unitAddr (coreAt s c) i 32) 32 32)
    (fun s x =>
      let k := coreAt s c
      let a := (tile s c.tile).base + (unitAddr k i 32).toNat
      let s := coreStore s c a x.t (bytesOf 32 (k.dr (getBits i.rd 3 0)).toNat) fun s bs => ownWrite s c.tile a bs
      some (retire s c x.t 1))
    (dstWait c i)

/-- DSET (R105). -/
def execDset (c : CoreRef) (rd ra rb : BitVec 5) (word : BitVec 2) (hi : BitVec 8) (s : State) : Ans :=
  let n := word.toNat
  let d := getBits rd 3 0
  regOp s c .both [kG ra.toNat, kD d] 1 (fun _ => rsv (bitOf rd 4 || decide (rb ≠ 0) || decide (hi ≠ 0)))
    fun k t => k.setD d (setBits (k.dr d) (64 * n + 63) (64 * n) (k.gr ra.toNat).toNat) (t + 1)

/-- DGET, the form of DSET that reads (R105). -/
def execDget (c : CoreRef) (rd ra rb : BitVec 5) (word : BitVec 2) (hi : BitVec 8) (s : State) : Ans :=
  let n := word.toNat
  let d := getBits ra 3 0
  regOp s c .both [kD d] 1 (fun _ => rsv (bitOf ra 4 || decide (rb ≠ 0) || decide (hi ≠ 0)))
    fun k t => k.setG rd.toNat (BitVec.ofNat 64 (getBits (k.dr d) (64 * n + 63) (64 * n))) (t + 1)

/-! ### The store engine (R143) -/

/-- Whether two ranges of n bytes overlap. -/
def overlap (a b n : Nat) : Bool := decide (a < b + n) && decide (b < a + n)

/-- The checks of STOP: a condition of R105, then the store range (R104). -/
def stopChecks (s : State) (tl : Nat) (copy : Bool) (dst len src : Word) : List (Nat × Word) :=
  let n := len.toNat
  chk (decide (n % 64 ≠ 0) || decide (n < 64) || decide (1572864 < n)) 0x0A len ++
  chk (decide (dst.toNat % 64 ≠ 0)) 0x0A dst ++
  (if copy then chk (decide (src.toNat % 64 ≠ 0)) 0x0A src ++ chk (overlap dst.toNat src.toNat n) 0x0A src ++
     chk (outside s tl src.toNat n) 0x0D src else []) ++
  chk (outside s tl dst.toNat n) 0x0D dst

/-- STOP: the operation is queued on the store engine, and starts at once when the engine is idle; a full queue holds the core. -/
def stopOp (s : State) (c : CoreRef) (copy : Bool) (rd ra rb : BitVec 5) : Ans :=
  runOp s c .both [kG rd.toNat, kG ra.toNat, kG rb.toNat]
    (fun s _ =>
      let k := coreAt s c
      stopChecks s c.tile copy (k.gr ra.toNat) (k.gr rb.toNat) (k.gr rd.toNat))
    (fun s x =>
      let k := coreAt s c
      let t := tile s c.tile
      if 4 ≤ t.stops.length then none
      else
        let s := flushGather s c.tile c.mover
        let op : StopOp :=
          { mover := c.mover, copy := copy, pat := k.gr rd.toNat, src := t.base + (k.gr rd.toNat).toNat, dst := t.base + (k.gr ra.toNat).toNat,
            len := (k.gr rb.toNat).toNat, start := x.t, pc := k.pc }
        some (retire (updTile s c.tile fun (t : Tile) => { t with stops := t.stops ++ [op] }) c x.t 1))
    (flushWait c)

/-- STOP FILL (R105). -/
def execStopFill (c : CoreRef) (rd ra rb : BitVec 5) (s : State) : Ans := stopOp s c false rd ra rb

/-- STOP COPY (R105). -/
def execStopCopy (c : CoreRef) (rd ra rb : BitVec 5) (s : State) : Ans := stopOp s c true rd ra rb

/-- The core cycles of a store-engine operation (R143). -/
def StopOp.cycles (o : StopOp) : Nat := if o.copy then 12 + ceilDiv (o.len / 64) 4 else 8 + ceilDiv (o.len / 64) 8

/-- Gate additions of a core that wait for nothing more are made (R124). -/
def settleGates (s : State) (c : CoreRef) : State :=
  match taskOf s c.tile with
  | none => s
  | some (_, t) =>
    let k := coreAt s c
    let due := k.gates.filter fun g => g.reqs.isEmpty && decide (g.stops = 0)
    let s := if due.isEmpty then s else setCore s c { k with gates := k.gates.filter fun g => !(g.reqs.isEmpty && decide (g.stops = 0)) }
    due.foldl (fun s g => gateAdd s t.part g.gate g.add.toNat) s

/-- The write of an operation: every word of a FILL, the bytes of a COPY. An uncorrectable source word raises MEM_UNCORRECTABLE (R151). -/
def stopWrite (s : State) (tl slot : Nat) (o : StopOp) : State :=
  if o.copy then
    let p := ((task? s slot).map fun t => t.part).getD 0
    let (bs, bad, s) := readKey s (.requester p) (keyTile tl o.src) o.len (fun r => tileCtx s tl o.mover (taskCtx s slot r))
    match bad with
    | [] => ownWrite s tl o.dst bs
    | w :: _ => raise s slot ⟨tl, o.mover⟩ 0x21 o.pc (BitVec.ofNat 64 (w - keyTile tl (tile s tl).base))
  else ownWrite s tl o.dst ((List.replicate (o.len / 8) (bytesOf 8 o.pat.toNat)).flatten)

/-- A store-engine operation completes at its bound, the next starts, and the gate additions that waited for it may be made (R143, R124). -/
def execStoreEngineComplete (n : Nat) (s : State) : Ans :=
  match taskOf s n, (tile s n).stops with
  | some (slot, _), o :: rest =>
    match eventAt s (o.start + o.cycles) with
    | none => finish s
    | some s =>
      let t := s.clk.cyc
      let s := updTile s n fun (x : Tile) => { x with stops := match rest with
        | [] => []
        | q :: qs => { q with start := t } :: qs }
      let s := stopWrite s n slot o
      let c : CoreRef := ⟨n, o.mover⟩
      if (taskOf s n).isNone ∨ (coreAt s c).st = .idle then finish s
      else
        let s := updCore s c fun k =>
          let gs := k.gates.map fun g => { g with stops := g.stops - 1 }
          { k with gates := gs }
        finish (settleGates s c)
  | _, _ => finish s

/-! ### Gather entries, remote lines, scrub -/

/-- A gather entry that has had no ST for 16 core cycles is written (R140). -/
def execGatherEntryWrite (c : CoreRef) (s : State) : Ans :=
  match leastBy (fun a b => decide (a.last < b.last)) (gather (tile s c.tile) c.mover) with
  | none => finish s
  | some e =>
    match eventAt s (e.last + 16) with
    | none => finish s
    | some s =>
      match (gather (tile s c.tile) c.mover).find? fun x => x.line == e.line with
      | none => finish s
      | some e =>
        let s := updTile s c.tile fun (t : Tile) => setGather t c.mover ((gather t c.mover).filter fun x => x.line != e.line)
        finish (writeEntry s c.tile e)

/-- The bytes of a line. -/
def lineBytes (l : Line) : List Byte := bytesOf 64 l.toNat

/-- A remote line reaches the store of a tile (R147): the masked bytes are written when an open window admits the requester. -/
def execRemoteLineWrite (n off : Nat) (who : Requester) (mask : BitVec 64) (data : Line) (s : State) : Ans :=
  let s := settle s s.clk.cyc
  let a := off / 64 * 64
  let runs := gatherRuns 0 ((lineBytes data).zip ((List.range 64).map (bitOf mask)))
  finish (runs.foldl (fun s (o, bs) => (remoteWrite s n who (a + o) bs).2) s)

/-- The context that a reader gives a record. -/
def readerCtx (s : State) : Requester → Rec → Rec
  | .task slot n, r => tileCtx s n false (taskCtx s slot r)
  | .engine p, r => r.ofPart s p
  | .pf p, r => r.ofPart s p
  | .seam id, r => match partOfId s id with
    | some p => r.ofPart s p
    | none => r
  | _, r => r

/-- A read of a line of a tile's store by another requester (R149): refused, or served with the findings of its words (R151). -/
def execRemoteStoreRead (n off : Nat) (who : Requester) (s : State) : Ans :=
  let s := settle s s.clk.cyc
  match tilePart s n with
  | none => finish s
  | some p =>
    let a := off / 64 * 64
    if (tile s n).fenced || !storeReadable s who p n a || decide (0x180000 ≤ a) then finish s
    else finish (readKey s .remote (keyTile n a) 64 (readerCtx s who)).2.2

/-- Stored bits that have flipped in the words of an access from key a, the write-backs of earlier cycles being done. A word that a write-back waits for stays listed. -/
def upsetBits (s : State) (a : Nat) (u : Upset) : State :=
  let s := ripenBack s
  { s with flips := u.foldl (fun (m : SMap (BitVec 80)) (x : Nat × BitVec 80 × BitVec 48) =>
      let w := a / 8 + x.1
      let e := SMap.get 0 m w ^^^ x.2.1
      if e = 0 ∧ s.memc.wback.all (fun x => x.1 != w) = true then SMap.erase m w else SMap.set m w e) s.flips }

/-- The words of an access from key a that it reads under a V that differs from their own (R134). -/
def upsetAddr (a : Nat) (u : Upset) : List (Nat × BitVec 48) :=
  u.filterMap fun x => if x.2.2 = 0 then none else some (a / 8 + x.1, x.2.2)

/-- The scrubber of a tile reads its next beat (R150); an uncorrectable word is logged without a context and counts towards the tile's limit (Table 15.9). -/
def execTileScrubStep (n : Nat) (u : Upset) (s : State) : Ans :=
  let s := settle s s.clk.cyc
  if !fb s F.TS_CTL_SCRUB_EN n || (tile s n).fenced then finish s
  else
    let pos := fg s F.TS_SCRUB_POSITION n
    let a := keyTile n (64 * pos)
    let u := u.filter fun x => decide (x.1 < 8)
    let (bad, s) := scan (upsetBits s a u) .scrub a 64 id (upsetAddr a u)
    let s := if pos + 1 = 24576 then fwrap (fs s F.TS_SCRUB_POSITION 0 n) F.TS_SCRUB_PASSES 1 n
             else fs s F.TS_SCRUB_POSITION (pos + 1) n
    let fresh := bad.filter fun w => !(tile s n).ueWords.contains w
    let s := updTile s n fun (t : Tile) => { t with ueWords := t.ueWords ++ fresh }
    match fresh.getLast? with
    | some w =>
      if max 1 (fg s F.GUARD_CTL_TILE_UE_LIMIT) ≤ (tile s n).ueWords.length
      then finish (fenceTile s n 0x06 (BitVec.ofNat 64 (w - keyTile n 0)))
      else finish s
    | none => finish s

end Sys2Proof.Machine
end

