-- ==== Sys2Proof/Machine/HaulInstr.lean ====
section
/-! DEFINITION. Haul, fence, channel, task-control and system instructions (R119, R120, R122, R124, R125), the completion of haul requests (R119) and
the pairing of the two copies of a shadow run (R349). -/

namespace Sys2Proof.Machine

/-! ### The copies of a shadow run -/

/-- Which copy of a shadow run a tile belongs to: none for an ordinary task. -/
def copyOf (t : Task) (n : Nat) : Option Nat := if t.shadow = 0 then none else (t.place n).map fun x => x.2.2

/-- Whether a tile lies in copy B. -/
def inCopyB (t : Task) (n : Nat) : Bool := copyOf t n == some 1

/-- The tile at the same relative position of the other copy. -/
def pairOf (t : Task) (n : Nat) : Nat :=
  match t.place n with
  | some (r, c, k) => t.tileAt r c (1 - k)
  | none => n

/-- The tile whose identity a tile's cores see: that of copy A (R349). -/
def seenTile (t : Task) (n : Nat) : Nat := if inCopyB t n then pairOf t n else n

/-! ### HGET and HPUT -/

/-- The requester of a core's transfers. -/
def coreWho (slot : Nat) (c : CoreRef) : Requester := .task slot c.tile

/-- The checks of HGET and HPUT (R119). -/
def haulChecks (s : State) (c : CoreRef) (fn : BitVec 11) (ga off len : Word) : List (Nat × Word) :=
  rsv (decide (fn ≠ 0)) ++
  chk (decide (len.toNat % 64 ≠ 0) || decide (len.toNat < 64) || decide (1048576 < len.toNat)) 0x0A len ++
  chk (outside s c.tile off.toNat len.toNat) 0x0D off ++
  chk (decide (off.toNat % 64 ≠ 0)) 0x0E off ++ chk (decide (ga.toNat % 64 ≠ 0)) 0x0E ga

/-- The packets of a transfer of `len` bytes (R236): offset and bytes of each, at most 2,048. -/
def haulPackets (len : Nat) : List (Nat × Nat) := (List.range (ceilDiv len 2048)).map fun i => (2048 * i, min 2048 (len - 2048 * i))

/-- The flits of a packet and of its response (R236): one that carries operation, length and address, and 128 bytes of data in each of the others; a write's response has no data. -/
def packetFlits (put : Bool) (bytes : Nat) : Nat × Nat := if put then (1 + ceilDiv bytes 128, 1) else (1, ceilDiv bytes 128)

/-- Whether a write goes to the tiers of a partition other than p (R350). -/
def foreignTier (s : State) (p : Nat) (ga : Word) : Bool :=
  decide (getBits ga 63 62 = 1) && devId s p != some (getBits ga 61 44) && decide (getBits ga 43 0 < tileBase)

/-- The runs of lines of a transfer that hold no bad word: byte offset and length. -/
def goodRuns : Nat → Nat → List Nat → List (Nat × Nat)
  | 0, _, _ => []
  | n + 1, o, bad =>
    let rest := goodRuns n (o + 64) bad
    if bad.contains o then rest
    else match rest with
      | (o', k) :: rs => if o' = o + 64 then (o, k + 64) :: rs else (o, 64) :: rest
      | [] => [(o, 64)]

/-- The fabric operations of a request to a peer (R303): those of an HPUT carry the source as it stands, without the lines that hold an uncorrectable word. -/
def haulRemote (s : State) (i : Issue) (c : CoreRef) (r : HaulReq) (id la : Nat) : HaulReq × State :=
  let p := i.task.part
  let lt := (logicalOf s c.tile).getD 0
  match sendRefusal s p id with
  | some st => ({ r with err := st, errAt := r.addr.toNat }, s)
  | none =>
  if r.put then
    let (bs, bad, s) := readKey s (.requester p) (keyTile c.tile r.store) r.len (fun x => tileCtx s c.tile c.mover (taskCtx s i.slot x))
    let badLines := bad.map fun w => (w - keyTile c.tile r.store) / 64 * 64
    let (ids, s) := (goodRuns (r.len / 64) 0 badLines).foldl (fun (acc : List Nat × State) (x : Nat × Nat) =>
      let (ids, s) := issueOps acc.2 p id (la + x.1) x.2 true ((bs.drop x.1).take x.2) 0 lt (.haul (coreKey c) r.id)
      (acc.1 ++ ids, s)) ([], s)
    let first := bad.headD 0 - keyTile c.tile (tile s c.tile).base
    ({ r with ops := ids, err := if bad.isEmpty then r.err else stUncorrectable, errAt := first }, s)
  else
    let (ids, s) := issueOps s p id la r.len false [] 0 lt (.haul (coreKey c) r.id)
    ({ r with ops := ids }, s)

/-- Issue of HGET or HPUT: the request is outstanding, and its operations to a peer leave. Copy B of a shadow run issues none (R349); one that would write another
partition's tiers ends the run UNSUPPORTED (R350). -/
def haulIssue (s : State) (c : CoreRef) (put : Bool) (i : FmtR) : Ans :=
  runOp s c .both [kG i.rd.toNat, kG i.ra.toNat, kG i.rb.toNat]
    (fun s _ =>
      let k := coreAt s c
      let a := k.gr i.ra.toNat
      let b := k.gr i.rb.toNat
      haulChecks s c i.fn (if put then b else a) (if put then a else b) (k.gr i.rd.toNat))
    (fun s x =>
      let k := coreAt s c
      if 64 ≤ k.haul.length then none
      else
        let a := k.gr i.ra.toNat
        let b := k.gr i.rb.toNat
        let ga := if put then b else a
        let off := (if put then a else b).toNat
        if x.task.shadow ≠ 0 ∧ put = true ∧ foreignTier s x.task.part ga = true then
          some (shadowStop s x.slot 5 0x7FF 0x7FF 0)
        else
          let s := flushGather s c.tile c.mover
          let r : HaulReq :=
            { id := k.nextReq, put := put, store := (tile s c.tile).base + off, addr := ga, len := (k.gr i.rd.toNat).toNat, pc := k.pc,
              born := x.t, ops := [], err := 0, errAt := 0, lost := false }
          let (r, s) :=
            if inCopyB x.task c.tile then (r, s)
            else match resolve s (coreWho x.slot c) x.task.part ga put with
              | .remote id la => haulRemote s x c r id la
              | _ => (r, s)
          some (retire (updCore s c fun k => { k with haul := k.haul ++ [r], nextReq := k.nextReq + 1 }) c x.t 1))
    (flushWait c)

/-- HGET (R119). -/
def execHget (c : CoreRef) (i : FmtR) (s : State) : Ans := haulIssue s c false i

/-- HPUT (R119). -/
def execHput (c : CoreRef) (i : FmtR) (s : State) : Ans := haulIssue s c true i

/-- The exception that a status raises at a task (R119, Table 12.3). -/
def statusCause (st : Nat) : Nat :=
  if st = stUnpopulated then 0x1D
  else if st = stSpaceInvalid then 0x1E
  else if st = stPrivileged then 0x1F
  else if st = stWindow then 0x20
  else if st = stUncorrectable then 0x21
  else 0x22

/-- The status that the path of a request reports. -/
def errStatus : HaulErr → Nat
  | .ok => stOK
  | .refused c => c
  | .timeout => stHaulTimeout
  | .unreachable => stUnreachable
  | .hostAbort => stHostAbort
  | .hostTimeout => stHostAbort
  | .uncorrectable => stUncorrectable

/-- Land the data of an HGET in its tile, lines with an uncorrectable word left out, and in the pair's store in a shadow run (R349). -/
def landData (s : State) (t : Task) (n off : Nat) (bs : List Byte) (bad : List Nat) : State :=
  (goodRuns (bs.length / 64) 0 bad).foldl (fun s (o, k) =>
    let d := (bs.drop o).take k
    let s := ownWrite s n (off + o) d true
    if t.shadow = 0 then s else ownWrite s (pairOf t n) (off + o) d true) s

/-- Read `n` lines one by one from global address ga: bytes (zeros for a line that failed), the offsets of failed lines, and the first failure's status and address. -/
def haulLines (s : State) (who : Requester) (p : Nat) (ctx : Rec → Rec) : Nat → Nat → List Byte × List Nat × (Nat × Nat) × State
  | 0, _ => ([], [], (stOK, 0), s)
  | n + 1, ga =>
    let (r, s) := readGlobal s who p (BitVec.ofNat 64 ga) 64 ctx
    let (bs, st) := match r with
      | .data bs [] => (bs, stOK)
      | .data bs _ => (bs, stUncorrectable)
      | .refused st _ => (List.replicate 64 0, st)
      | .peer _ _ => (List.replicate 64 0, stOK)
    let (rest, bad, f, s) := haulLines s who p ctx n (ga + 64)
    (bs ++ rest, (if st = stOK then [] else [0]) ++ bad.map (· + 64), if st = stOK then f else (st, ga), s)

/-- Read the pieces of a transfer as they are judged (R296, R303). -/
def haulRead (s : State) (who : Requester) (p : Nat) (ctx : Rec → Rec) (ga : Nat) : List Nat → List Byte × List Nat × (Nat × Nat) × State
  | [] => ([], [], (stOK, 0), s)
  | n :: ns =>
    let (bs, bad, f, s) :=
      match pieceRefusal s who p ga n false with
      | some st => (List.replicate n 0, (List.range (n / 64)).map (64 * ·), (st, ga), s)
      | none => haulLines s who p ctx (n / 64) ga
    let (rest, bad', f', s) := haulRead s who p ctx (ga + n) ns
    (bs ++ rest, bad ++ bad'.map (· + n), if f.1 = stOK then f' else f, s)

/-- The transfer of a request within the module or with the host, packet by packet (R236): status, address of the failure, and the state. -/
def haulLocal (s : State) (slot : Nat) (t : Task) (c : CoreRef) (r : HaulReq) : (Nat × Nat) × State :=
  let who := coreWho slot c
  let ctx := fun x => tileCtx s c.tile c.mover (taskCtx s slot x)
  if r.put then
    let (bs, bad, s) := readKey s (.requester t.part) (keyTile c.tile r.store) r.len ctx
    let badLines := bad.map fun w => (w - keyTile c.tile r.store) / 64 * 64
    let runs := (haulPackets r.len).flatMap fun (o, n) => (goodRuns (n / 64) o badLines)
    let (f, s) := runs.foldl (fun (acc : (Nat × Nat) × State) (x : Nat × Nat) =>
      let (f, s) := writeGlobal acc.2 who t.part (r.addr + BitVec.ofNat 64 x.1) ((bs.drop x.1).take x.2)
      (if acc.1.1 = stOK then f else acc.1, s)) ((stOK, 0), s)
    (match bad with
     | [] => f
     | w :: _ => (stUncorrectable, w - keyTile c.tile (tile s c.tile).base), s)
  else
    let pieces := (haulPackets r.len).flatMap fun (o, n) => judgedPieces (r.addr.toNat + o) n
    let (bs, bad, f, s) := haulRead s who t.part ctx r.addr.toNat pieces
    (f, landData s t c.tile r.store bs bad)

/-- A request leaves a core, and the gate additions that waited for it may be made (R124). -/
def dropReq (s : State) (c : CoreRef) (id : Nat) : State :=
  if (coreAt s c).st = .idle then s
  else
    let s := updCore s c fun k =>
      let gs := k.gates.map fun g => { g with reqs := g.reqs.filter (· != id) }
      { k with haul := k.haul.filter (fun r => r.id != id), gates := gs }
    settleGates s c

/-- Complete an outstanding request with a status reported by its path, raising the exception of a failure with the request's PC (R119). -/
def completeReq (s : State) (c : CoreRef) (r : HaulReq) (st : Nat) : State :=
  match taskOf s c.tile with
  | none => s
  | some (slot, t) =>
    let ((st, a), s) :=
      if st ≠ stOK then ((st, r.addr.toNat), s)
      else if r.err ≠ 0 then ((r.err, r.errAt), s)
      else match resolve s (coreWho slot c) t.part r.addr r.put with
        | .remote _ _ => ((stOK, 0), s)
        | _ => haulLocal s slot t c r
    let s := if st = stUnreachable then finc s F.HAUL_STATUS_UNREACHABLE else s
    let s := dropReq s c r.id
    let s := if t.shadow = 0 then s else dropReq s ⟨pairOf t c.tile, c.mover⟩ r.id
    if st = stOK then s else raise s slot c (statusCause st) r.pc (BitVec.ofNat 64 a)

/-- A global address with the partition's own device ID as the local address that it names (R22). -/
def plainAddr (s : State) (p : Nat) (ga : Word) : Nat :=
  if getBits ga 63 62 = 1 ∧ devId s p = some (getBits ga 61 44) then getBits ga 43 0 else ga.toNat

/-- Whether two requests of a task of partition p touch a common 64-byte line of global memory (R119). -/
def HaulReq.meets (s : State) (p : Nat) (a b : HaulReq) : Bool :=
  decide (plainAddr s p a.addr < plainAddr s p b.addr + b.len) && decide (plainAddr s p b.addr < plainAddr s p a.addr + a.len)

/-- Whether an earlier request of the core to a line of a request's is outstanding: the later one waits for it (R119, R307). -/
def waitsForEarlier (s : State) (c : CoreRef) (p : Nat) (r : HaulReq) : Bool :=
  ((coreAt s c).haul.takeWhile fun q => q.id != r.id).any fun q => q.meets s p r

/-- HAUL_REQUEST_COMPLETE (R119): a request whose fabric operations are all answered completes; in a shadow run copy A's completes both (R349). One that would be applied before
an earlier request of its core to the same line waits, and one whose flits the network has lost has no response (R235, R241). -/
def execHaulRequestComplete (c : CoreRef) (id : Nat) (err : HaulErr) (s : State) : Ans :=
  let s := settle s s.clk.cyc
  match taskOf s c.tile, (coreAt s c).haul.find? fun r => r.id == id with
  | some (slot, t), some r =>
    if inCopyB t c.tile || r.lost || (err == .ok && (!r.ops.isEmpty || waitsForEarlier s c t.part r)) || meetsHeld s (coreWho slot c) t.part r.addr r.len r.put then finish s
    else finish (completeReq (if err = .hostTimeout then finc s F.HOST_LINK_ERR_CPL_TIMEOUT else s) c r (errStatus err))
  | _, _ => finish s

/-! ### Fences (R120) -/

/-- A fence: its unused fields are 0, and it waits until its condition holds. -/
def fenceOp (s : State) (c : CoreRef) (rd : BitVec 5) (ra : BitVec 5) (hi : BitVec 12) (usesRa : Bool) (before : State → State)
    (cond : State → Core → Bool) (lb : State → Nat := fun _ => 0) : Ans :=
  runOp s c .both (if usesRa then [kG ra.toNat] else []) (fun _ _ => rsv (decide (rd ≠ 0) || decide (hi ≠ 0) || (!usesRa && decide (ra ≠ 0))))
    (fun s x =>
      let s := before s
      if cond s (coreAt s c) then some (retire s c x.t 1) else none)
    lb

/-- FENCE kind 0: the core's gather entries are written and its store-engine operations are complete. -/
def execFenceStore (c : CoreRef) (rd ra : BitVec 5) (hi : BitVec 12) (s : State) : Ans :=
  fenceOp s c rd ra hi false (fun s => flushGather s c.tile c.mover) (fun s _ => !(tile s c.tile).stops.any fun o => o.mover == c.mover)
    (flushWait c)

/-- FENCE kind 1: no HGET or HPUT of the core is outstanding. -/
def execFenceHaul (c : CoreRef) (rd ra : BitVec 5) (hi : BitVec 12) (s : State) : Ans :=
  fenceOp s c rd ra hi false id fun _ k => k.haul.isEmpty

/-- Whether an outstanding request writes another partition of this module with space tag 0b01, which is a remote write as well (R296, R306). -/
def HaulReq.remoteWrite (s : State) (r : HaulReq) : Bool :=
  r.put && decide (getBits r.addr 63 62 = 1) && (partOfId s (getBits r.addr 61 44)).isSome

/-- FENCE kind 2: every remote write of the core has had its completion (R306). -/
def execFenceRemote (c : CoreRef) (rd ra : BitVec 5) (hi : BitVec 12) (s : State) : Ans :=
  fenceOp s c rd ra hi false id fun s k =>
    !(k.haul.any fun r => r.remoteWrite s) && !s.xp.ops.any fun o => o.write && o.core? == some (coreKey c)

/-- FENCE kind 3: the core's SEAM and ASSAY commands have written their completions. -/
def execFenceCmd (c : CoreRef) (rd ra : BitVec 5) (hi : BitVec 12) (s : State) : Ans :=
  fenceOp s c rd ra hi false id fun _ k => k.cmds.isEmpty

/-- FENCE kind 4: HAUL_OUT is at most the value of ra. -/
def execFenceHaulCount (c : CoreRef) (rd ra : BitVec 5) (hi : BitVec 12) (s : State) : Ans :=
  fenceOp s c rd ra hi true id fun _ k => decide (k.haul.length ≤ (k.gr ra.toNat).toNat)

/-! ### Message channels (R122) -/

/-- SEND_OUT: send outcomes not yet read. -/
def Core.sendOut (k : Core) : Nat := k.sends.length + k.outcomes.length

/-- The physical tile that a logical tile of partition p names for a sender on tile n: within a shadow run's region, the sender's own copy (R349). -/
def msgTile (s : State) (t : Task) (n lt : Nat) : Option Nat :=
  if sectionPart s (2 * (lt / 256) + lt % 16 / 8) ≠ t.part then none
  else (physOf s lt).map fun m => if t.shadow ≠ 0 ∧ copyOf t m = some 0 ∧ inCopyB t n = true then pairOf t m else m

/-- Bits 10..8 of fn, and 7..4 where they are not used, must be 0. -/
def msgRest (hi : BitVec 7) (usesQ : Bool) : Bool := decide (getBits hi 6 4 ≠ 0) || (!usesQ && decide (getBits hi 3 0 ≠ 0))

/-- Whether a destination word names a request queue on a tile of the partition. -/
def sendDest (s : State) (t : Task) (n : Nat) (w : Word) : Bool :=
  decide (w.toNat < 2 ^ 14) && decide (w.toNat % 16 < 8) && (msgTile s t n (w.toNat / 16)).isSome

/-- Whether a word is one that RECV returns for a request (R122, R249). -/
def replyDest (s : State) (t : Task) (n : Nat) (w : Word) : Bool :=
  decide (getBits w 63 62 = 3) && decide (getBits w 61 26 = 0) && decide (8 ≤ getBits w 17 14) && decide (getBits w 3 0 = 0) &&
  (msgTile s t n (getBits w 13 4)).isSome

/-- The counters of a core's sends. -/
def countSend (s : State) (c : CoreRef) (f : Fld) : State := finc s f 1 c.tile c.mover.toNat

/-- A queue of a tile. -/
def msgQueue (t : Tile) (q : Nat) : MsgQueue := SMap.get { entries := [], resv := 0, gen := 0 } t.queues q

/-- Change a queue of a tile. -/
def updQueue (s : State) (n q : Nat) (f : MsgQueue → MsgQueue) : State :=
  updTile s n fun (t : Tile) => { t with queues := SMap.set t.queues q (f (msgQueue t q)) }

/-- Send the 64-byte message at a relative offset: `req` names the own reply queue, `rep` the generation of a reply. A copy B of a shadow run
sends only within its region. -/
def sendOut (s : State) (x : Issue) (c : CoreRef) (rd : BitVec 5) (dst q off : Nat) (req rep : Option Nat) : State :=
  let s := flushGather s c.tile c.mover
  withLoad s x c off 64 fun s bs =>
    let k := coreAt s c
    let tag := k.sendTag
    let s := match req with
      | some rq => updQueue s c.tile rq fun m => { m with resv := m.resv + 1 }
      | none => s
    let fl : Flight :=
      { core := coreKey c, slot := x.slot, epoch := x.task.epoch, tag := tag, dst := dst, q := q, data := bs, request := req.isSome,
        sender := (logicalOf s (seenTile x.task c.tile)).getD 0, replyQ := req.getD 0, gen := rep.getD ((req.map fun rq => (msgQueue (tile s c.tile) rq).gen).getD 0),
        resv := req, marked := false, age := BitVec.ofNat 32 (mer s) }
    let out := inCopyB x.task c.tile && copyOf x.task dst != some 1
    let s := if out then s else { s with flights := s.flights ++ [fl] }
    let s := countSend s c F.HAUL_CH_SEND_SENT
    retire (updCore s c fun k =>
      { k.setG rd.toNat (BitVec.ofNat 64 tag) (x.t + 2) with sendTag := (tag + 1) % 65536, sends := k.sends ++ [tag] }) c x.t 1

/-- A send that sends nothing. -/
def sendNothing (s : State) (x : Issue) (c : CoreRef) (rd : BitVec 5) (v : Word) : State :=
  retire (updCore (countSend s c F.HAUL_CH_SEND_STALLS) c fun k => k.setG rd.toNat v (x.t + 2)) c x.t 1

/-- An instruction that has its gather entries written and then reads a 64-byte block waits for the banks of both. -/
def blockWait (c : CoreRef) (off : Core → Nat) : State → Nat :=
  bankWait c.tile (fun s => let a := (tile s c.tile).base + off (coreAt s c); [a, a + 63]) (gatherLines c)

/-- The common part of SEND, REQ and REPLY. -/
def sendOp' (s : State) (c : CoreRef) (rd ra rb : BitVec 5) (bad : Bool) (ok : State → Task → Word → Bool)
    (go : State → Issue → Word → Nat → State) : Ans :=
  runOp s c .both [kG ra.toNat, kG rb.toNat]
    (fun s x =>
      let k := coreAt s c
      rsv bad ++ chk (outside s c.tile (k.gr rb.toNat).toNat 64) 0x0D (k.gr rb.toNat) ++ chk (!ok s x.task (k.gr ra.toNat)) 0x18 (k.gr ra.toNat))
    (fun s x =>
      let k := coreAt s c
      if 16 ≤ k.sendOut then some (sendNothing s x c rd (BitVec.allOnes 64)) else some (go s x (k.gr ra.toNat) (k.gr rb.toNat).toNat))
    (blockWait c fun k => (k.gr rb.toNat).toNat)

/-- MSG SEND (R122). -/
def execMsgSend (c : CoreRef) (rd ra rb : BitVec 5) (hi : BitVec 7) (s : State) : Ans :=
  sendOp' s c rd ra rb (msgRest hi false) (fun s t w => sendDest s t c.tile w)
    fun s x w off => sendOut s x c rd ((msgTile s x.task c.tile (w.toNat / 16)).getD 0) (w.toNat % 16) off none none

/-- MSG REQ (R122, R251): a reply slot of the own queue is reserved at issue. -/
def execMsgReq (c : CoreRef) (rd ra rb : BitVec 5) (hi : BitVec 7) (s : State) : Ans :=
  let rq := getBits hi 3 0
  sendOp' s c rd ra rb (msgRest hi true || decide (rq < 8)) (fun s t w => sendDest s t c.tile w)
    fun s x w off =>
      let m := msgQueue (tile s c.tile) rq
      if 32 ≤ m.entries.length + m.resv then sendNothing s x c rd (BitVec.allOnes 64 - 1)
      else sendOut s x c rd ((msgTile s x.task c.tile (w.toNat / 16)).getD 0) (w.toNat % 16) off (some rq) none

/-- MSG REPLY (R122). -/
def execMsgReply (c : CoreRef) (rd ra rb : BitVec 5) (hi : BitVec 7) (s : State) : Ans :=
  sendOp' s c rd ra rb (msgRest hi false) (fun s t w => replyDest s t c.tile w)
    fun s x w off => sendOut s x c rd ((msgTile s x.task c.tile (getBits w 13 4)).getD 0) (getBits w 17 14) off none (some (getBits w 25 18))

/-- The word that RECV returns for a message (R122, R249). -/
def recvWord (m : Msg) : Word :=
  BitVec.ofNat 64 (2 ^ 63 + (if m.request then 2 ^ 62 + m.gen % 256 * 2 ^ 18 + m.replyQ % 16 * 2 ^ 14 else 0) + m.sender % 1024 * 16)

/-- The words of a stored message as its check delivers them, or none where one is uncorrectable (R235, R248): the bits of its entry that have flipped since it was stored. -/
def entryData (bs : List Byte) (upset : List (Nat × BitVec 80)) : Option (List Byte) :=
  let e := fun (w : Nat) => (upset.filter fun x => x.1 == w).foldl (fun e x => e ^^^ x.2) (0 : BitVec 80)
  (List.range 8).foldl (fun acc w =>
    match acc, eccDecode (e w) with
    | none, _ => none
    | _, .bad _ => none
    | some d, .corrected _ bits => some (d ++ bytesOf 8 (Nat.xor (ofBytes ((bs.drop (8 * w)).take 8)) (eccResidue (e w) bits).toNat))
    | some d, .clean => some (d ++ (bs.drop (8 * w)).take 8)) (some [])

/-- MSG RECV (R122): the oldest message goes to the store; one stored marked, or with an uncorrectable word, raises MEM_UNCORRECTABLE (R235, R248). A message that arrives in the cycle of the RECV is available from
the next cycle (Table 4.16). -/
def execMsgRecv (c : CoreRef) (rd ra rb : BitVec 5) (w : RecvArgs) (s : State) : Ans :=
  runOp s c .both [kG ra.toNat, kG rb.toNat]
    (fun s _ =>
      let k := coreAt s c
      rsv (msgRest w.hi false) ++ chk (decide (16 ≤ (k.gr ra.toNat).toNat)) 0x0A (k.gr ra.toNat) ++
      chk (outside s c.tile (k.gr rb.toNat).toNat 64) 0x0D (k.gr rb.toNat))
    fun s x =>
      let k := coreAt s c
      let q := (k.gr ra.toNat).toNat
      let off := (k.gr rb.toNat).toNat
      match (msgQueue (tile s c.tile) q).entries.filter fun m => decide (m.at_ < x.t) with
      | [] => some (retire (updCore s c fun k => k.setG rd.toNat 0 (x.t + 3)) c x.t 1)
      | m :: _ =>
        let s := updQueue s c.tile q fun y => { y with entries := y.entries.drop 1 }
        match (if m.marked then none else entryData m.data w.upset) with
        | none => some (raise s x.slot c 0x21 k.pc (k.gr rb.toNat))
        | some d =>
          let s := ownWrite s c.tile ((tile s c.tile).base + off) d true
          some (retire (updCore s c fun k => k.setG rd.toNat (recvWord m) (x.t + 3)) c x.t 1)

/-- MSG STAT (R122): the oldest outcome is returned and removed. -/
def execMsgStat (c : CoreRef) (rd ra rb : BitVec 5) (hi : BitVec 7) (s : State) : Ans :=
  regOp s c .both [] 1 (fun _ => rsv (msgRest hi false || decide (ra ≠ 0) || decide (rb ≠ 0)))
    fun k t =>
      match k.outcomes with
      | [] => k.setG rd.toNat 0 (t + 3)
      | (code, tag) :: rest => { k.setG rd.toNat (BitVec.ofNat 64 (2 ^ 63 + code * 65536 + tag)) (t + 3) with outcomes := rest }

/-- MSG COUNT (R122). -/
def execMsgCount (c : CoreRef) (rd ra rb : BitVec 5) (hi : BitVec 7) (s : State) : Ans :=
  runOp s c .both [kG ra.toNat]
    (fun s _ =>
      let k := coreAt s c
      rsv (msgRest hi false || decide (rb ≠ 0)) ++ chk (decide (16 ≤ (k.gr ra.toNat).toNat)) 0x0A (k.gr ra.toNat))
    fun s x =>
      let k := coreAt s c
      let n := (msgQueue (tile s c.tile) (k.gr ra.toNat).toNat).entries.length
      some (retire (setCore s c (k.setG rd.toNat (BitVec.ofNat 64 n) (x.t + 3))) c x.t 1)

/-! ### Task control (R124) -/

/-- TASK NOP. -/
def execTaskNop (c : CoreRef) (rd ra rb : BitVec 5) (s : State) : Ans :=
  regOp s c .both [] 1 (fun _ => rsv (decide (rd ≠ 0) || decide (ra ≠ 0) || decide (rb ≠ 0))) fun k _ => k

/-- TEND of an issue core waits for the banks of its gather entries. -/
def tendWait (c : CoreRef) (s : State) : Nat := if c.mover then 0 else flushWait c s

/-- TASK TEND: the core executes nothing more; the issue core's gather entries are written (R140). -/
def execTend (c : CoreRef) (rd ra rb : BitVec 5) (s : State) : Ans :=
  runOp s c .both [] (fun _ _ => rsv (decide (rd ≠ 0) || decide (ra ≠ 0) || decide (rb ≠ 0)))
    (fun s x =>
      let s := if c.mover then s else flushGather s c.tile false
      some (updCore (retire s c x.t 1) c fun k => { k with st := .ended }))
    (tendWait c)

/-- TASK GATE: the addition is made once the core's earlier requests and store-engine operations have completed. -/
def execTaskGate (c : CoreRef) (rd ra rb : BitVec 5) (s : State) : Ans :=
  runOp s c .both [kG ra.toNat, kG rb.toNat]
    (fun s _ =>
      let g := (coreAt s c).gr ra.toNat
      rsv (decide (rd ≠ 0)) ++ chk (decide (1024 ≤ g.toNat)) 0x0A g)
    (fun s x =>
      if x.task.shadow ≠ 0 then
        if inCopyB x.task c.tile then some (retire s c x.t 1) else some (shadowStop s x.slot 5 0x7FF 0x7FF 0)
      else
        let s := flushGather s c.tile c.mover
        let k := coreAt s c
        let g : GatePend :=
          { gate := (k.gr ra.toNat).toNat, add := k.gr rb.toNat, reqs := k.haul.map (·.id),
            stops := countIf (fun (o : StopOp) => o.mover == c.mover) (tile s c.tile).stops }
        some (settleGates (retire (updCore s c fun k => { k with gates := k.gates ++ [g] }) c x.t 1) c))
    (flushWait c)

/-- TASK TRAP: raises TRAP with the code in ra. -/
def execTrap (c : CoreRef) (rd ra rb : BitVec 5) (s : State) : Ans :=
  runOp s c .both [kG ra.toNat]
    (fun s _ => rsv (decide (rd ≠ 0) || decide (rb ≠ 0)) ++ [(0x1A, BitVec.ofNat 64 (getBits ((coreAt s c).gr ra.toNat) 15 0))])
    fun s _ => some s

/-! ### System registers (R92, R93, R125) -/

/-- Whether a system register is listed and held by a core. -/
def csrHeld (mover : Bool) (n : Nat) : Bool :=
  decide (n ≤ 4) || (decide (8 ≤ n) && decide (n ≤ 0x0B)) || (decide (0x10 ≤ n) && decide (n ≤ 0x12)) ||
  (!mover && (n == 0x20 || n == 0x21)) || n == 0x30 || n == 0x31 || (decide (0x40 ≤ n) && decide (n ≤ 0x42))

/-- The REGION register of a tile (Table 4.3); in a shadow run, that of copy A. -/
def regionWord (t : Task) (n : Nat) : Word :=
  let (r, c, _) := (t.place n).getD (0, 0, 0)
  BitVec.ofNat 64 (r * 2 ^ 44 + c * 2 ^ 40 + t.region.rows * 2 ^ 32 + t.copyCols * 2 ^ 24 + t.region.row * 2 ^ 16 + t.region.col * 2 ^ 8 + t.region.die)

/-- The value of a system register (Table 4.3). -/
def csrValue (s : State) (x : Issue) (c : CoreRef) (n : Nat) : Word :=
  let k := coreAt s c
  let t := x.task
  let m := seenTile t c.tile
  match n with
  | 0x000 => BitVec.ofNat 64 c.mover.toNat
  | 0x001 => BitVec.ofNat 64 (m * 2 ^ 16 + (logicalOf s m).getD 0)
  | 0x002 => regionWord t c.tile
  | 0x003 => BitVec.ofNat 64 (t.part * 2 ^ 48 + t.node * 2 ^ 32 + t.epoch * 2 ^ 16 + x.slot)
  | 0x004 => match t.stream with
    | some v => BitVec.ofNat 64 (2 ^ 20 + v)
    | none => 0
  | 0x008 => dw t.args 0
  | 0x009 => dw t.args 1
  | 0x00A => dw t.args 2
  | 0x00B => dw t.args 3
  | 0x010 => BitVec.ofNat 64 (x.t - t.start)
  | 0x011 => BitVec.ofNat 64 (tickCycle s)
  | 0x012 => BitVec.ofNat 64 (mer s)
  | 0x020 => BitVec.ofNat 64 (arith s c.tile).aflags
  | 0x030 => BitVec.ofNat 64 (tile s c.tile).base
  | 0x031 => 0x180000
  | 0x040 => BitVec.ofNat 64 k.haul.length
  | 0x041 => BitVec.ofNat 64 k.cmds.length
  | 0x042 => BitVec.ofNat 64 k.sendOut
  | _ => 0

/-- The seeds that a write to SR_SEED gives the generators (R93). -/
def srSeeds (v : Word) : List (BitVec 32) :=
  (List.range 64).map fun i =>
    let x := v.setWidth 32 ^^^ BitVec.ofNat 32 (0x9E3779B9 * (i + 1))
    if x = 0 then 1 else x

/-- A CSR instruction: checks common to its forms, then the effect. -/
def csrOp (s : State) (c : CoreRef) (srcs : List Nat) (csr : BitVec 12) (bad denied : Bool) (f : State → Issue → State) : Ans :=
  runOp s c .both srcs (fun _ _ => rsv bad ++ chk (!csrHeld c.mover csr.toNat) 0x08 ++ chk denied 0x09)
    fun s x => some (retire (f s x) c x.t 1)

/-- CSR read. -/
def execCsrRead (c : CoreRef) (rd ra : BitVec 5) (csr : BitVec 12) (s : State) : Ans :=
  csrOp s c [] csr (decide (ra ≠ 0)) false fun s x =>
    let v := csrValue s x c csr.toNat
    updCore s c fun k => k.setG rd.toNat v (x.t + 2)

/-- CSR write: AFLAGS acts as W1C, SR_SEED reseeds, every other listed register is read-only. -/
def execCsrWrite (c : CoreRef) (rd ra : BitVec 5) (csr : BitVec 12) (s : State) : Ans :=
  csrOp s c [kG ra.toNat] csr false (csr != 0x020 && csr != 0x021) fun s x =>
    let old := csrValue s x c csr.toNat
    let v := (coreAt s c).gr ra.toNat
    let a := arith s c.tile
    let s := if csr = 0x020 then setArith s c.tile { a with aflags := a.aflags - Nat.land a.aflags v.toNat }
      else setArith s c.tile { a with sr := srSeeds v }
    updCore s c fun k => k.setG rd.toNat old (x.t + 2)

/-- CSR set: no system register may be set (Table 4.3, R125). -/
def execCsrSet (c : CoreRef) (rd ra : BitVec 5) (csr : BitVec 12) (s : State) : Ans :=
  csrOp s c [kG ra.toNat] csr (decide (rd ≠ 0)) true fun s _ => s

/-- CSR clear: no system register may be cleared (Table 4.3, R125). -/
def execCsrClear (c : CoreRef) (rd ra : BitVec 5) (csr : BitVec 12) (s : State) : Ans :=
  csrOp s c [kG ra.toNat] csr (decide (rd ≠ 0)) true fun s _ => s

/-- Whether a major opcode is reserved (Table 4.6). -/
def reservedMajor (m : Nat) : Bool :=
  m == 0 || m == 0x08 || (decide (0x0D ≤ m) && decide (m ≤ 0x0F)) || (decide (0x1C ≤ m) && decide (m ≤ 0x1F)) ||
  (decide (0x2C ≤ m) && decide (m ≤ 0x2F)) || m == 0x33 || m == 0x37

/-- The number of function codes that the table of a major opcode lists where every listed code is a command of its own, and the code
that the word holds (R99, R101, R105, R120 to R122, R124, R125): PRD, STOP, FENCE, MSG, SEAM, ASSAY, TASK and CSR. -/
def listedCodes (w : BitVec 32) : Option (Nat × Nat) :=
  match getBits w 31 26 with
  | 0x0B => some (6, getBits w 10 0)
  | 0x1B => some (2, getBits w 10 0)
  | 0x3A => some (5, getBits w 3 0)
  | 0x3B => some (6, getBits w 3 0)
  | 0x3C => some (3, getBits w 10 0)
  | 0x3D => some (1, getBits w 10 0)
  | 0x3E => some (4, getBits w 10 0)
  | 0x3F => some (4, getBits w 3 0)
  | _ => none

/-- Whether a word spells no instruction: its major opcode is reserved (R98), or its function code is one that the opcode's table does
not list (R99). -/
def noInstr (w : BitVec 32) : Bool :=
  reservedMajor (getBits w 31 26) || (match listedCodes w with | some (n, fn) => decide (n ≤ fn) | none => false)

/-- ILLEGAL_INSTR: a word with a reserved major opcode (R98), or with a function code that its opcode's table does not list (R99), is
fetched. Any other word is an instruction with a row of its own, and this command does nothing with it. -/
def execIllegalInstr (c : CoreRef) (w : BitVec 32) (s : State) : Ans :=
  if noInstr w then runOp s c .both [] (fun _ _ => [(0x02, 0)]) fun s _ => some s else finish s

end Sys2Proof.Machine
end

