-- ==== Sys2Proof/Machine/SeamMem.lean ====
section
/-! DEFINITION. The memory that the Seam Engines own: pools and their bitmaps (R175, R176), the Ledger (R179 to R181), the Seam Map (R187, R188) and
the bytes of frames and sketches (R184 to R186, R213 to R215). -/

namespace Sys2Proof.Machine

/-- Change the Seam Engines. -/
def updSeam (s : State) (f : Seam → Seam) : State := { s with seam := f s.seam }

/-! ### Local memory of a partition -/

/-- The key of a local address in the tiers of partition p, if it is populated. -/
def localKey? (s : State) (p la : Nat) : Option Nat :=
  match tierTarget s p la with
  | .mem d o => some (keyMem d o)
  | _ => none

/-- The pieces of n bytes from a that lie in one 4-KiB chunk each (R259). -/
def chunkPieces : Nat → Nat → Nat → List (Nat × Nat)
  | 0, _, _ => []
  | fuel + 1, a, n => if n = 0 then [] else
      let k := min n (4096 - a % 4096)
      (a, k) :: chunkPieces fuel (a + k) (n - k)

/-- The chunks of n bytes from a. -/
def chunks (a n : Nat) : List (Nat × Nat) := chunkPieces (n / 4096 + 2) a n

/-- Bytes at a local address of partition p as they stand, without a check; an address outside the tiers reads as zeros. -/
def lraw (s : State) (p la n : Nat) : List Byte :=
  (chunks la n).flatMap fun (a, k) =>
    match localKey? s p a with
    | some key => memBytes s.mem key k
    | none => List.replicate k 0

/-- Read bytes at a local address of partition p for its Seam Engine: the bytes, whether an uncorrectable word was met, and the state with its findings. -/
def lread (s : State) (p la n : Nat) (ctx : Rec → Rec) : List Byte × Bool × State :=
  (chunks la n).foldl (fun (acc : List Byte × Bool × State) (c : Nat × Nat) =>
    let (bs, bad, s) := acc
    match localKey? s p c.1 with
    | some key =>
      let (b, w, s) := readKey s (.requester p) key c.2 ctx
      (bs ++ b, bad || !w.isEmpty, s)
    | none => (bs ++ List.replicate c.2 0, bad, s)) ([], false, s)

/-- Write bytes at a local address of partition p; false when an uncorrectable word that is written in part kept bytes out (R266). -/
def lput (s : State) (p la : Nat) (bs : List Byte) : Bool × State :=
  (chunks la bs.length).foldl (fun (acc : Bool × State) (c : Nat × Nat) =>
    match localKey? acc.2 p c.1 with
    | some key =>
      let (ok, s) := writeKey acc.2 key ((bs.drop (c.1 - la)).take c.2)
      (acc.1 && ok, s)
    | none => acc) (true, s)

/-- Write bytes at a local address of partition p. -/
def lwrite (s : State) (p la : Nat) (bs : List Byte) : State := (lput s p la bs).2

/-! ### Pools -/

/-- A pool of a partition (Table 7.1). -/
inductive Pool where
  | t1
  | t2
  | map
  | sketch
  | host
  | remote (i : Nat)
deriving DecidableEq, Repr

/-- Whether a remote pool is enabled and has not ended (R377). -/
def remoteOn (s : State) (p i : Nat) : Bool := fb s F.SEAM_REMOTE_CFG_EN p i && !s.seam.ended.contains (p * 4 + i)

/-- Units of a pool; a remote pool that is not enabled or has ended has none (R377). -/
def poolUnits (s : State) (p : Nat) : Pool → Nat
  | .t1 => fg s F.SEAM_POOL_T1_FRAMES p
  | .t2 => fg s F.SEAM_POOL_T2_FRAMES p
  | .map => fg s F.SEAM_POOL_MAP_BLOCKS p
  | .sketch => fg s F.SEAM_POOL_SKETCH_SLOTS p
  | .host => fg s F.SEAM_HOST_FRAMES_FRAMES p
  | .remote i => if remoteOn s p i then fg s F.SEAM_REMOTE_CFG_FRAMES p i else 0

/-- Bytes of a unit. -/
def poolUnit (s : State) (p : Nat) : Pool → Nat
  | .map => 4096
  | .sketch => 512 * 2 ^ fg s F.SEAM_POOL_SKETCH_SLOT p
  | _ => 65536

/-- Global address of a pool's first unit. -/
def poolBase (s : State) (p : Nat) : Pool → Nat
  | .t1 => fg s F.SEAM_POOL_T1_BASE p * 2 ^ 16
  | .t2 => fg s F.SEAM_POOL_T2_BASE p * 2 ^ 16
  | .map => fg s F.SEAM_POOL_MAP_BASE p * 2 ^ 12
  | .sketch => fg s F.SEAM_POOL_SKETCH_BASE p * 2 ^ 9
  | .host => (rd s .seamHostBase p).toNat
  | .remote i => (rd s .seamRemoteBase p i).toNat

/-- Units at the start of a pool that hold its bitmap (R176). -/
def poolReserved (u b : Nat) : Nat := ceilDiv u (8 * b)

/-- Whether unit u of a pool is allocated: its bit of the bitmap (R176). Of a remote pool's bitmap the engine keeps its own copy, which it never reads back. -/
def unitUsed (s : State) (p : Nat) (q : Pool) (u : Nat) : Bool :=
  match q with
  | .remote i => (SMap.get [] s.seam.remUsed (p * 4 + i)).contains u
  | .host => decide ((memByte s.mem (keyHost ((poolBase s p q + u / 8) % 2 ^ 62))).toNat / 2 ^ (u % 8) % 2 = 1)
  | _ => decide (((lraw s p (poolBase s p q + u / 8) 1).headD 0).toNat / 2 ^ (u % 8) % 2 = 1)

/-- The 64-byte line of a remote pool's bitmap that holds unit u goes to the pool's first units (R176). -/
def sendBitmap (s : State) (p i u : Nat) : State :=
  let l := u / 512 * 512
  let own := SMap.get [] s.seam.remUsed (p * 4 + i)
  let bs := (List.range 64).map fun k =>
    (List.range 8).foldl (fun (b : Byte) j => setBits b j j (own.contains (l + 8 * k + j)).toNat) (0 : Byte)
  let ga := BitVec.ofNat 64 ((rd s .seamRemoteBase p i).toNat + l / 8)
  let who := Requester.seam ((devId s p).getD 0)
  match resolve s who p ga true with
  | .remote id la => if (sendRefusal s p id).isSome then s else (issueOps s p id la 64 true bs 1 0 .engine).2
  | _ => (writeGlobal s who p ga bs).2

/-- Set or clear the bit of a unit. -/
def markUnit (s : State) (p : Nat) (q : Pool) (u : Nat) (used : Bool) : State :=
  let byte := fun (b : Byte) => setBits b (u % 8) (u % 8) used.toNat
  match q with
  | .remote i =>
    let l := (SMap.get [] s.seam.remUsed (p * 4 + i)).filter (· != u)
    sendBitmap (updSeam s fun (x : Seam) => { x with remUsed := SMap.set x.remUsed (p * 4 + i) (if used then l ++ [u] else l) }) p i u
  | .host =>
    let k := keyHost ((poolBase s p q + u / 8) % 2 ^ 62)
    { s with mem := memSet s.mem k (byte (memByte s.mem k)) }
  | _ =>
    let a := poolBase s p q + u / 8
    lwrite s p a [byte ((lraw s p a 1).headD 0)]

/-- The units of a pool that may be allocated. -/
def freeUnits (s : State) (p : Nat) (q : Pool) : List Nat :=
  let n := poolUnits s p q
  (List.range n).filter fun u => decide (poolReserved n (poolUnit s p q) ≤ u) && !unitUsed s p q u

/-- Allocate a unit of a pool: its global address. Which free unit is taken is not stated: a free value picks it. -/
def allocUnit (s : State) (p : Nat) (q : Pool) : Option (Nat × State) :=
  match freeUnits s p q with
  | [] => none
  | u :: us =>
    let (w, s) := drawFree s
    let x := nth (u :: us) (w.toNat % (us.length + 1)) u
    some (poolBase s p q + x * poolUnit s p q, markUnit s p q x true)

/-- Free the unit of a pool at a global address. -/
def freeUnit (s : State) (p : Nat) (q : Pool) (ga : Nat) : State := markUnit s p q ((ga - poolBase s p q) / poolUnit s p q) false

/-- Per cent of a pool's frames that are free (R201). -/
def freePercent (s : State) (p : Nat) (q : Pool) : Nat :=
  if poolUnits s p q = 0 then 0 else (freeUnits s p q).length * 100 / poolUnits s p q

/-! ### The Ledger -/

/-- Streams that a partition may hold (R179). -/
def streamCount (s : State) (p : Nat) : Nat := (sectionsOf s p).length * 131072

/-- The local address of a stream's Ledger entry. -/
def entryAddr (s : State) (p sid : Nat) : Nat := ledgerBase s p + 128 * sid

/-- A stream's Ledger entry as it stands: 16 words (Table 7.3). -/
def entryRaw (s : State) (p sid : Nat) : List Word := wordsOf 16 (lraw s p (entryAddr s p sid) 128)

/-- Write a stream's Ledger entry. -/
def putEntry (s : State) (p sid : Nat) (e : List Word) : State := lwrite s p (entryAddr s p sid) (bytesOfWords e)

/-- The key of a stream across the partitions. -/
def streamKey (p sid : Nat) : Nat := p * 2 ^ 20 + sid

/-- LAST_USE of the stream with a key. -/
def lastUse (s : State) (k : Nat) : Nat := (dw (entryRaw s (k / 2 ^ 20) (k % 2 ^ 20)) 8).toNat

/-- Entries that a die's Ledger cache holds (R181). -/
def ledgerEntries : Nat := 32768

/-- A command's load of its stream's entry through the cache of the home die (R181): a miss reads the entry from Tier 1 and puts out the entry with the oldest
LAST_USE. Changes are written through at once. None when a word of it is uncorrectable. -/
def loadEntry (s : State) (p sid : Nat) (ctx : Rec → Rec) : Option (List Word) × State :=
  let k := streamKey p sid
  let c := SMap.get [] s.seam.ledgers (sid % 4)
  if c.contains k then (some (entryRaw s p sid), s)
  else
    let (bs, bad, s) := lread s p (entryAddr s p sid) 128 ctx
    if bad then (none, s)
    else
      let gone := if ledgerEntries ≤ c.length then (leastBy (fun a b => decide (lastUse s a < lastUse s b)) c).toList else []
      (some (wordsOf 16 bs), updSeam s fun (x : Seam) => { x with ledgers := SMap.set x.ledgers (sid % 4) (c.filter (fun a => !gone.contains a) ++ [k]) })

/-- A field of an entry (Table 7.3). -/
def eget (e : List Word) (k hi lo : Nat) : Nat := db e k hi lo

/-- An entry with a field replaced. -/
def eset (e : List Word) (k hi lo x : Nat) : List Word := e.set k (setBits (dw e k) hi lo x)

/-- STATE. -/
def eState (e : List Word) : Nat := eget e 0 63 61
/-- CMODE. -/
def eCmode (e : List Word) : Nat := eget e 0 60 59
/-- CSTATE. -/
def eCstate (e : List Word) : Nat := eget e 0 58 56
/-- PACK is P4. -/
def eP4 (e : List Word) : Bool := eget e 0 55 54 == 1
/-- Layer groups. -/
def eGroups (e : List Word) : Nat := eget e 0 47 40 + 1
/-- Layers per group, G. -/
def eG (e : List Word) : Nat := eget e 0 39 32 + 1
/-- Key/value heads, H. -/
def eH (e : List Word) : Nat := eget e 0 29 24 + 1
/-- Head dimension, D. -/
def eD (e : List Word) : Nat := (eget e 0 18 16 + 1) * 32
/-- GEN. -/
def eGen (e : List Word) : Nat := eget e 0 15 0
/-- LENGTH. -/
def eLength (e : List Word) : Nat := eget e 2 20 0
/-- Frame bytes used, F (Table 7.5). -/
def eF (e : List Word) : Nat := (if eP4 e then 17 else 32) * eG e * eH e * eD e
/-- Sketch bytes (R213). -/
def eSketch (e : List Word) : Nat := 2 * eG e * eH e * eD e
/-- Seams below LENGTH. -/
def eSeams (e : List Word) : Nat := ceilDiv (eLength e) 16

/-- STATE codes of Table 7.3. -/
def sFree : Nat := 0
/-- OPEN. -/
def sOpen : Nat := 1
/-- PARKED. -/
def sParked : Nat := 2
/-- CLOSING. -/
def sClosing : Nat := 3
/-- RESTORING. -/
def sRestoring : Nat := 4

/-- The streams of partition p whose state is not FREE, in increasing ID. -/
def liveStreams (s : State) (p : Nat) : List Nat := (List.range (streamCount s p)).filter fun k => eState (entryRaw s p k) != sFree

/-- The entry's count of the frames in a leaf state changed by d (words 5 and 6). -/
def countFrame (e : List Word) (st : Nat) (d : Int) : List Word :=
  let f := fun k hi lo => eset e k hi lo ((((eget e k hi lo : Nat) : Int) + d).toNat)
  if st = 1 then f 5 31 0 else if st = 2 then f 5 63 32 else if st = 3 then f 6 31 0 else if st = 4 then f 6 63 32 else e

/-! ### The Seam Map -/

/-- Frame states (Table 7.9). -/
def fEmpty : Nat := 0
/-- T1. -/
def fT1 : Nat := 1
/-- T2. -/
def fT2 : Nat := 2
/-- PEER. -/
def fPeer : Nat := 3
/-- HOST. -/
def fHost : Nat := 4
/-- MOVING. -/
def fMoving : Nat := 5
/-- LOST. -/
def fLost : Nat := 6

/-- STATE of a leaf entry's word 0. -/
def lfState (w : Word) : Nat := getBits w 15 13
/-- The frame's global address. -/
def lfFrame (w : Word) : Nat := getBits w 63 16 * 65536
/-- TOKENS. -/
def lfTokens (w : Word) : Nat := getBits w 12 8
/-- HEAT. -/
def lfHeat (w : Word) : Nat := getBits w 7 0
/-- The sketch slot's local address, of word 1. -/
def lfSketch (w : Word) : Nat := getBits w 63 30 * 64

/-- A 16-byte map entry as it stands. -/
def mapRaw (s : State) (p la : Nat) : Word × Word :=
  let ws := wordsOf 2 (lraw s p la 16)
  (nth ws 0 0, nth ws 1 0)

/-- Write a 16-byte map entry. -/
def putMap (s : State) (p la : Nat) (w : Word × Word) : State := lwrite s p la (bytesOfWords [w.1, w.2])

/-- The address of the table that an entry names, if it is valid (Table 7.6). -/
def tableOf (w : Word × Word) : Option Nat := if bitOf w.1 63 then some (getBits w.1 43 12 * 4096) else none

/-- The addresses of the entries of the walk to the leaf of group g and seam k, as far as tables are valid (R187). -/
def walkRaw (s : State) (p : Nat) (e : List Word) (g k : Nat) : List Nat :=
  let root := eget e 1 43 12 * 4096
  if root = 0 then []
  else
    let a1 := root + 16 * g
    match tableOf (mapRaw s p a1) with
    | none => [a1]
    | some t2 =>
      let a2 := t2 + 16 * (k / 256)
      match tableOf (mapRaw s p a2) with
      | none => [a1, a2]
      | some t3 => [a1, a2, t3 + 16 * (k % 256)]

/-- The address of a leaf entry, if its tables exist. -/
def leafAddr (s : State) (p : Nat) (e : List Word) (g k : Nat) : Option Nat := (walkRaw s p e g k)[2]?

/-- A leaf entry as it stands; all zero, EMPTY, without a table. -/
def leafRaw (s : State) (p : Nat) (e : List Word) (g k : Nat) : Word × Word :=
  match leafAddr s p e g k with
  | some a => mapRaw s p a
  | none => (0, 0)

/-- Lines of a die's Seam TLB (R188). -/
def tlbLines : Nat := 8192

/-- The tag of the line that holds the leaf of group g and seam k (R188). -/
def lineTag (p sid : Nat) (e : List Word) (g k : Nat) : Nat × Nat × Nat × Nat := (streamKey p sid, eGen e, g, k / 16)

/-- HEAT and HEAT_TICK of a leaf whose entry in memory is w: those of its line, where they differ (R188). -/
def leafHeat (s : State) (tag : Nat × Nat × Nat × Nat) (k : Nat) (w : Word × Word) : Nat × Nat :=
  match s.seam.heats.find? fun h => h.1 == tag && h.2.1 == k % 16 with
  | some h => h.2.2
  | none => (lfHeat w.1, getBits w.2 29 6)

/-- HEAT and HEAT_TICK that a line holds are written back to the leaf entry in Tier 1 (R188). -/
def heatBack (s : State) (h : (Nat × Nat × Nat × Nat) × Nat × Nat × Nat) : State :=
  let ((key, gen, g, l), i, heat, tick) := h
  let p := key / 2 ^ 20
  let e := entryRaw s p (key % 2 ^ 20)
  match if eGen e = gen then leafAddr s p e g (16 * l + i) else none with
  | some a =>
    let w := mapRaw s p a
    putMap s p a (setBits w.1 7 0 heat, setBits w.2 29 6 tick)
  | none => s

/-- A line enters a die's TLB, or is used again; the least recently used line leaves a full one, and its heat is written back (R188). -/
def useLine (s : State) (d : Nat) (tag : Nat × Nat × Nat × Nat) : State :=
  let l := (SMap.get [] s.seam.tlbs d).filter (· != tag)
  let gone := if tlbLines ≤ l.length then l.take 1 else []
  let s := (s.seam.heats.filter fun h => gone.contains h.1).foldl heatBack s
  updSeam s fun (x : Seam) =>
    { x with tlbs := SMap.set x.tlbs d (l.filter (fun t => !gone.contains t) ++ [tag]), heats := x.heats.filter fun h => !gone.contains h.1 }

/-- A walk through the die's Seam TLB (R188): a miss reads the entries of the walk and the 16 entries of the line. The leaf entry, or none when a word is uncorrectable. -/
def walk (s : State) (p sid : Nat) (e : List Word) (g k : Nat) (ctx : Rec → Rec) : Option (Word × Word) × State :=
  let tag := lineTag p sid e g k
  let put := fun (s : State) => useLine s (sid % 4) tag
  let c := SMap.get [] s.seam.tlbs (sid % 4)
  if c.contains tag then (some (leafRaw s p e g k), put s)
  else
    let as := walkRaw s p e g k
    let (bad, s) := (as.take 2).foldl (fun (acc : Bool × State) a =>
      let (_, b, s) := lread acc.2 p a 16 ctx
      (acc.1 || b, s)) (false, s)
    let (bad, s) := match as[2]? with
      | some a =>
        let (_, b, s) := lread s p (a / 256 * 256) 256 ctx
        (bad || b, s)
      | none => (bad, s)
    if bad then (none, s) else (some (leafRaw s p e g k), put s)

/-- Lines of a stream leave the TLBs. -/
def dropLines (s : State) (p sid : Nat) : State :=
  updSeam s fun (x : Seam) => { x with tlbs := x.tlbs.map fun (d, l) => (d, l.filter fun t => t.1 != streamKey p sid),
                                       heats := x.heats.filter fun h => h.1.1 != streamKey p sid }

/-- A new, empty table of the MAP pool. -/
def newTable (s : State) (p : Nat) : Option (Nat × State) :=
  (allocUnit s p .map).map fun (a, s) => (a, lwrite s p a (List.replicate 4096 0))

/-- The table that the entry at `a` names, made when it is not valid. -/
def ensureTable (s : State) (p a : Nat) : Option (Nat × State) :=
  let w := mapRaw s p a
  match tableOf w with
  | some t => some (t, s)
  | none => (newTable s p).map fun (t, s) => (t, putMap s p a (BitVec.ofNat 64 (2 ^ 63 + t), 0))

/-- Add to CHILDREN of the entry at `a`. -/
def bumpChildren (s : State) (p a : Nat) (d : Int) : State :=
  let w := mapRaw s p a
  putMap s p a (w.1, setBits w.2 8 0 ((((getBits w.2 8 0 : Nat) : Int) + d).toNat))

/-- The leaf entry's address with every table on the way made (R187): the entry with its MAP_ROOT. None when the MAP pool is exhausted. -/
def ensureLeaf (s : State) (p : Nat) (e : List Word) (g k : Nat) : Option (Nat × List Word × State) := do
  let (root, s) ← if eget e 1 43 12 = 0 then newTable s p else some (eget e 1 43 12 * 4096, s)
  let e := eset e 1 43 12 (root / 4096)
  let a1 := root + 16 * g
  let (t2, s) ← ensureTable s p a1
  let a2 := t2 + 16 * (k / 256)
  let new := (tableOf (mapRaw s p a2)).isNone
  let (t3, s) ← ensureTable s p a2
  let s := if new then bumpChildren s p a1 1 else s
  let a3 := t3 + 16 * (k % 256)
  let s := if lfState (mapRaw s p a3).1 = fEmpty then bumpChildren s p a2 1 else s
  some (a3, e, s)

/-- The leaves of a stream that are not EMPTY, by group and seam: group, seam, address. -/
def liveLeaves (s : State) (p : Nat) (e : List Word) : List (Nat × Nat × Nat) :=
  let root := eget e 1 43 12 * 4096
  if root = 0 then []
  else (List.range (eGroups e)).flatMap fun g =>
    match tableOf (mapRaw s p (root + 16 * g)) with
    | none => []
    | some t2 => (List.range 256).flatMap fun i =>
      match tableOf (mapRaw s p (t2 + 16 * i)) with
      | none => []
      | some t3 => (List.range 256).filterMap fun j =>
        if lfState (mapRaw s p (t3 + 16 * j)).1 = fEmpty then none else some (g, i * 256 + j, t3 + 16 * j)

/-- Every table of a stream's map. -/
def mapTables (s : State) (p : Nat) (e : List Word) : List Nat :=
  let root := eget e 1 43 12 * 4096
  if root = 0 then []
  else root :: (List.range (eGroups e)).flatMap fun g =>
    match tableOf (mapRaw s p (root + 16 * g)) with
    | none => []
    | some t2 => t2 :: (List.range 256).filterMap fun i => tableOf (mapRaw s p (t2 + 16 * i))

/-- The pool that holds a frame in a leaf state at a global address. -/
def poolOf (s : State) (p st ga : Nat) : Option Pool :=
  if st = fT1 then some .t1
  else if st = fT2 then some .t2
  else if st = fHost then some .host
  else if st = fPeer then
    ((List.range 4).find? fun i =>
      inRange ga (poolBase s p (.remote i)) (fg s F.SEAM_REMOTE_CFG_FRAMES p i * 65536)).map Pool.remote
  else none

/-! ### Reading a frame wherever it lies -/

/-- What a read of frame bytes gives. -/
inductive FrameRead where
  | data (bs : List Byte)
  | bad
  | err
  | wait
deriving DecidableEq, Repr

/-- Read n bytes of a frame at a global address for the Seam Engine of partition p (R177, R178). -/
def frameRead (s : State) (p ga n : Nat) (ctx : Rec → Rec) : FrameRead × State :=
  if getBits (BitVec.ofNat 64 ga) 63 62 = 0 then
    let (bs, bad, s) := lread s p ga n ctx
    (if bad then .bad else .data bs, s)
  else
    match resolve s (.seam ((devId s p).getD 0)) p (BitVec.ofNat 64 ga) false with
    | .remote id la =>
      match peerRead s p id la n 1 with
      | (.data bs, s) => (.data bs, s)
      | (.refused st _, s) => (if st = stUncorrectable then .bad else .err, s)
      | (.wait, s) => (.wait, s)
    | _ =>
      match readGlobal s (.seam ((devId s p).getD 0)) p (BitVec.ofNat 64 ga) n ctx with
      | (.data bs [], s) => (.data bs, s)
      | (.data _ _, s) => (.bad, s)
      | (_, s) => (.err, s)

/-- Forget what arrived of a frame. -/
def dropFrame (s : State) (p ga : Nat) : State :=
  match resolve s (.seam ((devId s p).getD 0)) p (BitVec.ofNat 64 ga) false with
  | .remote id la => dropArrived s id la 65536
  | _ => s

/-! ### Elements -/

/-- The runs of a frame: index (j × H + h) × 2 + c (R184). -/
def runIx (h j hd c : Nat) : Nat := (j * h + hd) * 2 + c

/-- Offset of the scales in a P4 frame (Table 7.5). -/
def scaleOff (e : List Word) : Nat := 16 * eG e * eH e * eD e

/-- The value of a stored element: its code and the scale of its block. -/
def elemVal (p4 : Bool) (code scale : Nat) : Num :=
  if p4 then (if scale = 0xFF then .nan else (e2m1.decode code).scale ((scale : Int) - 127)) else e4m3.decode code

/-- The codes and scales of the first `rows` rows of a run, given as bytes: elements and scales. -/
def runVals (e : List Word) (bs sc : List Byte) : List Num :=
  if eP4 e then
    (bs.flatMap fun b => [b.toNat % 16, b.toNat / 16]).zipIdx.map fun (x, i) => elemVal true x (nth sc (i / 32) 0).toNat
  else bs.map fun b => elemVal false b.toNat 0

/-- Where the first `rows` rows of run r lie in a frame: offset and bytes of the elements, and of the scales. -/
def runSpan (e : List Word) (r rows : Nat) : (Nat × Nat) × (Nat × Nat) :=
  let n := r * 16 * eD e
  let k := rows * eD e
  if eP4 e then ((n / 2, k / 2), (scaleOff e + n / 32, k / 32)) else ((n, k), (0, 0))

/-- One row packed (R185): element bytes, scale bytes, elements saturated and NaNs met. Input values with the stored code when the input is E4M3. -/
def packRow (p4 : Bool) (xs : List Num) (raw : Option (List Byte)) : List Byte × List Byte × Nat × Nat :=
  let nans := countIf Num.isNan xs
  if p4 then
    let blocks := (List.range (xs.length / 32)).map fun b => (xs.drop (32 * b)).take 32
    let qs := blocks.map fun b =>
      let (sc, cs, _) := quantise 0 (b.map fun x => (x, 0))
      let sat := if sc = 0xFF then 0 else countIf (fun (x : Num) => decide ((e2m1.encode 0 true 0 (x.scale (127 - (sc : Int)))).2 / fSAT % 2 = 1)) b
      (sc, cs, sat)
    let codes := qs.flatMap fun q => q.2.1
    let bytes := (List.range (codes.length / 2)).map fun i => BitVec.ofNat 8 (nth codes (2 * i) 0 + 16 * nth codes (2 * i + 1) 0)
    (bytes, qs.map fun q => BitVec.ofNat 8 q.1, (qs.map fun q => q.2.2).foldl (· + ·) 0, nans)
  else
    match raw with
    | some bs => (bs, [], 0, nans)
    | none =>
      let es := xs.map fun x => e4m3.encode 0 true 0 x
      (es.map fun x => BitVec.ofNat 8 x.1, [], countIf (fun (x : Nat × Nat) => decide (x.2 / fSAT % 2 = 1)) es, nans)

/-- Bytes of an input element (Table 7.11): BF16, FP32 or E4M3. -/
def inBytes (inp : Nat) : Nat := if inp = 0 then 2 else if inp = 1 then 4 else 1

/-- The values of input elements. -/
def inVals (inp : Nat) (bs : List Byte) : List Num :=
  let w := inBytes inp
  (List.range (bs.length / w)).map fun i =>
    let x := ofBytes ((bs.drop (w * i)).take w)
    if inp = 0 then bf16.decode x else if inp = 1 then fp32.decode x else e4m3.decode x

/-! ### Sketches (R213 to R215) -/

/-- down(x) and up(x): 0x7F when it falls outside the format. -/
def sketchDown (x : Num) : Nat := (e4m3.encode 2 false 0 x).1
/-- up(x). -/
def sketchUp (x : Num) : Nat := (e4m3.encode 3 false 0 x).1

/-- The smaller of two lower elements; an unbounded element stays so. -/
def sketchMin (a b : Nat) : Nat :=
  if a = 0x7F ∨ b = 0x7F then 0x7F else if Num.lt true (e4m3.decode b) (e4m3.decode a) then b else a

/-- The larger of two upper elements. -/
def sketchMax (a b : Nat) : Nat :=
  if a = 0x7F ∨ b = 0x7F then 0x7F else if Num.lt true (e4m3.decode a) (e4m3.decode b) then b else a

/-- One (layer, head) sketch from rows of key values, on top of an earlier one if there is one: lo and hi codes. -/
def sketchRows (old : Option (List Nat × List Nat)) : List (List Num) → List Nat × List Nat
  | [] => old.getD ([], [])
  | r :: rs =>
    let lo := r.map sketchDown
    let hi := r.map sketchUp
    sketchRows (some (match old with
      | none => (lo, hi)
      | some (l, h) => (List.zipWith sketchMin l lo, List.zipWith sketchMax h hi))) rs

end Sys2Proof.Machine
end

