-- ==== Sys2Proof/Machine/SeamOps.lean ====
section
/-! DEFINITION. How the Seam Engines and Assay units take, complete and refuse commands (R197 to R199, R463 to R465, R211), the contrail (R202 to R207) and
moves (R191). -/

namespace Sys2Proof.Machine

/-! ### Commands -/

/-- The stream that a command names. -/
def SeamCmd.sid (c : SeamCmd) : Nat := db c.block 0 19 0

/-- OP of a CONTROL block (R196). -/
def SeamCmd.op (c : SeamCmd) : Nat := db c.block 0 63 56

/-- The core of a number (twice its tile, plus 1 for the mover). -/
def coreOfKey (k : Nat) : CoreRef := { tile := k / 2, mover := decide (k % 2 = 1) }

/-- The task that issued a command, while its region has not stopped (R465). -/
def issuer (s : State) (c : SeamCmd) : Option (Nat × Task × CoreRef) :=
  match c.origin with
  | .task k slot epoch _ _ _ =>
    match task? s slot with
    | some t =>
      if t.epoch = epoch ∧ (coreAt s (coreOfKey k)).st ≠ .idle ∧ (tile s (k / 2)).fenced = false then some (slot, t, coreOfKey k) else none
    | none => none
  | .host _ _ => none

/-- Whether a command came from a task. -/
def SeamCmd.fromTask (c : SeamCmd) : Bool :=
  match c.origin with
  | .task _ _ _ _ _ _ => true
  | .host _ _ => false

/-- The context that a record of an uncorrectable word takes from the command that read it. -/
def cmdCtx (s : State) (c : SeamCmd) (r : Rec) : Rec :=
  match issuer s c with
  | some (slot, _, k) => tileCtx s k.tile k.mover (taskCtx s slot { r with stream := some c.sid })
  | none => { r.ofPart s c.part with stream := some c.sid }

/-- A command that waits for a peer keeps the leaf entries that it has read (R190, R211). -/
def holdLeaves (s : State) (c : SeamCmd) (ls : List (Nat × Word × Word)) : State :=
  updSeam s fun (x : Seam) => { x with queue := x.queue.map fun d => if d = c then { c with leaves := ls } else d }

/-- Whether a waiting command of stream `sid` has read the leaf with a number. -/
def leafHeld (s : State) (p sid leaf : Nat) : Bool :=
  s.seam.queue.any fun c => c.part == p && c.sid == sid && c.leaves.any fun l => l.1 == leaf

/-- The source frame of a move is freed, or kept for the commands that have read the old leaf entry (R191). -/
def freeSource (s : State) (p sid leaf st ga : Nat) : State :=
  if leafHeld s p sid leaf then updSeam s fun (x : Seam) => { x with late := x.late ++ [(p, sid, leaf, st, ga)] }
  else match poolOf s p st ga with
    | some q => freeUnit (dropFrame s p ga) p q ga
    | none => s

/-- Free the source frames that no command has in hand any longer. -/
def freeLate (s : State) : State :=
  let l := s.seam.late
  l.foldl (fun s (p, sid, leaf, st, ga) => freeSource s p sid leaf st ga) (updSeam s fun (x : Seam) => { x with late := [] })

/-- Take a command out of the queue. -/
def popCmd (s : State) (c : SeamCmd) : State := freeLate (updSeam s fun (x : Seam) => { x with queue := x.queue.erase c })

/-- The next command of a die's Seam Engine, or of its Assay unit: the oldest one, once no older command of its stream waits (R211, R218). -/
def nextCmd (s : State) (die : Nat) (assay : Bool) : Option SeamCmd :=
  match s.seam.queue.find? fun c => c.sid % 4 == die && (c.kind == 3) == assay with
  | some c =>
    match s.seam.queue.find? fun d => d.part == c.part && d.sid == c.sid with
    | some d => if d = c then some c else none
    | none => none
  | none => none

/-- Write bytes into the issuing tile's store, and into its pair's in a shadow run (R349). -/
def storeOut (s : State) (t : Task) (k : CoreRef) (off : Nat) (bs : List Byte) : State :=
  let s := ownWrite s k.tile off bs
  if t.shadow = 0 then s else ownWrite s (pairOf t k.tile) off bs

/-- A command of a core is no longer outstanding. -/
def dropCmd (s : State) (t : Task) (k : CoreRef) (tag : Nat) : State :=
  let off := fun (c : Core) => { c with cmds := c.cmds.erase tag }
  let s := updCore s k off
  if t.shadow = 0 then s else updCore s { k with tile := pairOf t k.tile } off

/-- The words of a SEAM completion area (Table 7.14). -/
def doneWords (status tag n bytes empty len : Nat) : List Word :=
  [BitVec.ofNat 64 (status * 2 ^ 56 + tag % 65536 * 2 ^ 32 + n % 8192), BitVec.ofNat 64 bytes, BitVec.ofNat 64 (empty % 65536),
   BitVec.ofNat 64 (len % 2 ^ 21), 0, 0, 0, BitVec.ofNat 64 (2 ^ 63)]

/-- The global address of an entry of partition p's host command ring. -/
def hqEntry (s : State) (p ix : Nat) : Word := BitVec.ofNat 64 (fg s F.SEAM_HQ_BASE_BASE p * 128 + ix * 128)

/-- Complete a command: its completion area is written, given its tag, and it leaves the queue; a host command signals its vector (R121, R199). -/
def completeCmd (s : State) (c : SeamCmd) (words : Nat → List Word) : State :=
  let s := popCmd s c
  match c.origin with
  | .task _ _ _ tag _ area =>
    match issuer s c with
    | some (_, t, k) => dropCmd (storeOut s t k area (bytesOfWords (words tag))) t k tag
    | none => s
  | .host _ true => s
  | .host ix false =>
    let s := (engineWrite s c.part (hqEntry s c.part ix + 64) (bytesOfWords (words 0))).2
    if fb s F.SEAM_HQ_CTL_IRQ_EN c.part then signal s (ownerFn s c.part) (fg s F.SEAM_HQ_CTL_VECTOR c.part) else s

/-- Complete a command with a status and nothing done. -/
def refuseCmd (s : State) (c : SeamCmd) (status len : Nat) : State := completeCmd s c fun tag => doneWords status tag 0 0 0 len

/-- A command's exception against its task, with the auxiliary word, or the status of a host command (R198, R464). -/
def faultCmd (s : State) (c : SeamCmd) (cause status : Nat) (aux : Word := 0) : State :=
  match c.origin with
  | .task _ _ _ _ pc _ =>
    let s' := popCmd s c
    match issuer s c with
    | some (slot, _, k) =>
      faultTask s' slot (tileCtx s' k.tile k.mover { blankRec s' 0x01 cause 1 with pc := pc.toNat, aux := aux, stream := some c.sid })
    | none => s'
  | .host _ _ => refuseCmd s c status 0

/-- Statuses of Table 7.15. -/
def cOk : Nat := 0x00
/-- OK_REWRITE. -/
def cRewrite : Nat := 0x01
/-- NOT_OPEN. -/
def cNotOpen : Nat := 0x02
/-- STREAM_RANGE. -/
def cRange : Nat := 0x03
/-- BUSY. -/
def cBusy : Nat := 0x04
/-- STREAM_PARKED. -/
def cParked : Nat := 0x05
/-- IN_USE. -/
def cInUse : Nat := 0x06
/-- GEOMETRY. -/
def cGeometry : Nat := 0x07
/-- POSITION. -/
def cPosition : Nat := 0x08
/-- STALE_STEP. -/
def cStale : Nat := 0x09
/-- STEP_INCOMPLETE. -/
def cIncomplete : Nat := 0x0A
/-- POOL_EMPTY. -/
def cPoolEmpty : Nat := 0x0B
/-- SEAM_LOST. -/
def cLost : Nat := 0x0C
/-- MEM_UNCORRECTABLE. -/
def cMem : Nat := 0x0D
/-- REMOTE_ERROR. -/
def cRemote : Nat := 0x0E
/-- CONTRAIL_REFUSED. -/
def cRefused : Nat := 0x0F
/-- NO_MIRROR. -/
def cNoMirror : Nat := 0x10
/-- NOT_ENABLED. -/
def cNotEnabled : Nat := 0x11

/-- A read of the engine failed: MEM_UNCORRECTABLE. -/
def memCmd (s : State) (c : SeamCmd) (aux : Word := 0) : State := faultCmd s c 0x21 cMem aux

/-- The relative offset of the first uncorrectable word that a load of n bytes at an absolute offset meets (R151). -/
def badOffset (s : State) (slot : Nat) (k : CoreRef) (a n : Nat) : Word :=
  BitVec.ofNat 64 ((loadStore s slot k a n).2.1.headD 0 - (tile s k.tile).base)

/-- A peer or host error completion: REMOTE_ERROR. -/
def remoteCmd (s : State) (c : SeamCmd) : State := faultCmd s c 0x22 cRemote

/-- Whether an engine is fenced for an engine reset (R367): kind and number of Table 15.3. -/
def engineFenced (s : State) (kind ix : Nat) : Bool := s.fenced.any fun e => e.1 == kind && e.2.1 == ix

/-- Serve the next command of a die's unit when `want` accepts it: a fenced unit's answer (Table 15.4), the tests that come before the stream's state (R463, R179), the load of the Ledger entry (R181, R198), then
`f`. `no` completes a command that is refused, with a status and the LENGTH of its stream. A command of a stopped region is dropped when `drop` says so (R465). -/
def serve (s : State) (die : Nat) (assay : Bool) (no : State → SeamCmd → Nat → Nat → State) (want : SeamCmd → Bool) (drop : Bool) (f : State → SeamCmd → List Word → State) : State :=
  match nextCmd s die assay with
  | none => s
  | some c =>
    if !want c then s
    else if drop && c.fromTask && (issuer s c).isNone then popCmd s c
    else if engineFenced s (if assay then 3 else 2) die then no s c cBusy 0
    else if !fb s F.SEAM_CTL_EN c.part then no s c cNotEnabled 0
    else if streamCount s c.part ≤ c.sid then no s c cRange 0
    else
      match loadEntry s c.part c.sid (cmdCtx s c) with
      | (none, s) => memCmd s c
      | (some e, s) => f s c e

/-- The entry with LAST_USE at the present time: the command is accepted. -/
def used (s : State) (e : List Word) : List Word := e.set 8 (BitVec.ofNat 64 (mer s))

/-! ### The contrail lease -/

/-- The remote pool of a partition's contrail. -/
def trailPool (s : State) (p : Nat) : Nat := fg s F.SEAM_CONTRAIL_CTL_POOL p

/-- Global address of the lease. -/
def leaseGa (s : State) (p : Nat) : Nat := poolBase s p (.remote (trailPool s p))

/-- Frames of the lease. -/
def leaseFrames (s : State) (p : Nat) : Nat := poolUnits s p (.remote (trailPool s p))

/-- Granter-local address of the lease. -/
def leaseLa (s : State) (p : Nat) : Nat := leaseGa s p % 2 ^ 44

/-- M, the frames of the mirror Ledger (Table 7.18). -/
def mirrorM (s : State) (p : Nat) : Nat := ceilDiv (streamCount s p * 128) 65536

/-- The lease frame of the first mirror frame, after header, mirror Ledger and bitmap. -/
def mirrorFirst (s : State) (p : Nat) : Nat := 1 + mirrorM s p + ceilDiv (leaseFrames s p) 524288

/-- n bytes of the holder's image of the lease. -/
def mirGet (s : State) (p off n : Nat) : List Byte := (rangeFrom (p * 2 ^ 44 + off) n).map (SMap.get 0 s.seam.mirror)

/-- Write the holder's image. -/
def mirPut (s : State) (p off : Nat) (bs : List Byte) : State :=
  updSeam s fun (x : Seam) => { x with mirror := (bs.zipIdx).foldl (fun m (b, i) => SMap.set m (p * 2 ^ 44 + off + i) b) x.mirror }

/-- The lease offset of the bitmap byte of a frame. -/
def mirBit (s : State) (p fr : Nat) : Nat := (1 + mirrorM s p) * 65536 + fr / 8

/-- Whether a lease frame is allocated. -/
def mirUsed (s : State) (p fr : Nat) : Bool := decide (((mirGet s p (mirBit s p fr) 1).headD 0).toNat / 2 ^ (fr % 8) % 2 = 1)

/-- The image with some of its lines changed, which must be sent. -/
structure Mir where
  s     : State
  lines : List Nat

/-- Write the image and note the lines. -/
def Mir.put (m : Mir) (p off : Nat) (bs : List Byte) : Mir :=
  let ls := (rangeFrom (off / 64) ((off + bs.length - 1) / 64 + 1 - off / 64)).map (· * 64)
  { s := mirPut m.s p off bs, lines := m.lines ++ ls.filter fun l => !m.lines.contains l }

/-- Set or clear a frame's bit. -/
def Mir.mark (m : Mir) (p fr : Nat) (on : Bool) : Mir :=
  let o := mirBit m.s p fr
  m.put p o [setBits ((mirGet m.s p o 1).headD 0) (fr % 8) (fr % 8) on.toNat]

/-- Allocate a lease frame; a free value picks it. -/
def Mir.frame (m : Mir) (p : Nat) : Option (Nat × Mir) :=
  match (rangeFrom (mirrorFirst m.s p) (leaseFrames m.s p - mirrorFirst m.s p)).filter fun fr => !mirUsed m.s p fr with
  | [] => none
  | f :: fs =>
    let (w, s) := drawFree m.s
    let fr := nth (f :: fs) (w.toNat % (fs.length + 1)) f
    some (fr, { m with s := s }.mark p fr true)

/-- Allocate a map block, 16 to a frame: its lease offset, zeroed. -/
def Mir.block (m : Mir) (p : Nat) : Option (Nat × Mir) := do
  let bs := SMap.get [] m.s.seam.blocks p
  let b? := ((bs.map (· / 16)).flatMap fun fr => (rangeFrom (fr * 16) 16).filter fun b => !bs.contains b).head?
  let (b, m) ← match b? with
    | some b => some (b, m)
    | none => (m.frame p).map fun (fr, m) => (fr * 16, m)
  let s := updSeam m.s fun (x : Seam) => { x with blocks := SMap.set x.blocks p (bs ++ [b]) }
  some (b * 4096, { m with s := s }.put p (b * 4096) (List.replicate 4096 0))

/-- A 16-byte entry of the image. -/
def mirEntry (s : State) (p off : Nat) : Word × Word :=
  let ws := wordsOf 2 (mirGet s p off 16)
  (nth ws 0 0, nth ws 1 0)

/-- The lease offset of the table that an image entry names. -/
def mirTable (s : State) (p : Nat) (w : Word × Word) : Option Nat := (tableOf w).map (· - leaseLa s p)

/-- The table that the image entry at `off` names, made when it is not valid. -/
def Mir.ensure (m : Mir) (p off : Nat) : Option (Nat × Mir) :=
  match mirTable m.s p (mirEntry m.s p off) with
  | some t => some (t, m)
  | none => (m.block p).map fun (t, m) =>
      (t, m.put p off (bytesOfWords [BitVec.ofNat 64 (2 ^ 63 + (leaseLa m.s p + t) % 2 ^ 44), (mirEntry m.s p off).2]))

/-- CHILDREN of an image entry plus one. -/
def Mir.child (m : Mir) (p off : Nat) : Mir :=
  let w := mirEntry m.s p off
  m.put p off (bytesOfWords [w.1, setBits w.2 8 0 (getBits w.2 8 0 + 1)])

/-- The mirror leaf of group g and seam k with its frame, made where missing (R203): its lease offset, the lease frame, and the Ledger entry with MIRROR_ROOT. -/
def Mir.leaf (m : Mir) (p : Nat) (e : List Word) (g k : Nat) : Option (Nat × Nat × List Word × Mir) := do
  let (root, m) ← if eget e 9 43 12 = 0 then m.block p else some (eget e 9 43 12 * 4096 - leaseLa m.s p, m)
  let e := eset e 9 43 12 ((leaseLa m.s p + root) / 4096)
  let a1 := root + 16 * g
  let (t2, m) ← m.ensure p a1
  let a2 := t2 + 16 * (k / 256)
  let new := (mirTable m.s p (mirEntry m.s p a2)).isNone
  let (t3, m) ← m.ensure p a2
  let m := if new then m.child p a1 else m
  let a3 := t3 + 16 * (k % 256)
  let w := mirEntry m.s p a3
  if lfState w.1 = fPeer then some (a3, (lfFrame w.1 - leaseGa m.s p) / 65536, e, m)
  else
    let (fr, m) ← m.frame p
    some (a3, fr, e, m.child p a2)

/-- The mirror Ledger entry of a stream: words 0, 1 with the mirror's root, and 10 (R203). -/
def Mir.ledger (m : Mir) (p sid : Nat) (e : List Word) : Mir :=
  let ws := (List.replicate 16 (0 : Word)).set 0 (dw e 0) |>.set 1 (BitVec.ofNat 64 (eget e 9 43 12 * 4096)) |>.set 10 (dw e 10)
  m.put p (65536 + sid * 128) (bytesOfWords ws)

/-- The changed lines with their bytes. -/
def Mir.send (m : Mir) (p : Nat) : List (Nat × List Byte) := m.lines.map fun l => (l, mirGet m.s p l 64)

/-! ### Trails: what is written to the lease -/

/-- The purpose that marks a trail's operations. -/
def Trail.why (t : Trail) : Purpose := .contrail t.part t.sid t.id

/-- Write the graph of an append: it is no longer outstanding, and was acknowledged or not (R45, R207). -/
def reportAppend (s : State) (g : Option Nat) (acked : Bool) : State :=
  match g with
  | some q => updGraph s q fun x => { x with appends := x.appends - 1, unacked := x.unacked || !acked }
  | none => s

/-- A synchronous append is abandoned (R207). -/
def abandon (s : State) (t : Trail) : State :=
  if t.sync && !t.acked then finc (reportAppend s t.gseq false) F.SEAM_CONTRAIL_STATUS_ABANDONED 1 t.part else s

/-- A stream's contrail becomes LAPSED with a cause (R205, R207): the record, the count, and abandoned appends; nothing more of it is sent. -/
def lapse (s : State) (p sid cause : Nat) : State :=
  let e := entryRaw s p sid
  if eCstate e ≠ 1 ∧ eCstate e ≠ 3 then s
  else
    let s := putEntry s p sid (eset e 0 58 56 2)
    let s := finc s F.SEAM_CONTRAIL_STATUS_LAPSED 1 p
    let r := { blankRec s 0x0B cause 0 with
      stream := some sid, aux := BitVec.ofNat 64 (eget e 3 31 0), aux2 := BitVec.ofNat 64 (eget e 3 63 32) }
    let s := emit s (r.ofPart s p)
    let own := s.seam.trails.filter fun t => t.part == p && t.sid == sid
    let s := own.foldl abandon s
    updSeam s fun (x : Seam) =>
      { x with trails := x.trails.filter fun t => !(t.part == p && t.sid == sid),
               jobs := x.jobs.map fun (j : SeamJob) => if j.part = p ∧ j.sid = sid ∧ j.restore = false then { j with lapse := cause } else j }

/-- Write bytes at an offset of the lease for a trail; false for an error completion. Lines of a peer leave as operations of the trail. -/
def leaseWrite (s : State) (p : Nat) (why : Purpose) (w : Nat × List Byte) : Bool × State :=
  match devId s p with
  | none => (false, s)
  | some me =>
    let ga := BitVec.ofNat 64 (leaseGa s p + w.1)
    match resolve s (.seam me) p ga true with
    | .remote id la =>
      if (sendRefusal s p id).isSome then (false, s) else (true, (issueOps s p id la w.2.length true w.2 1 0 why).2)
    | _ =>
      let (st, s) := writeGlobal s (.seam me) p ga w.2
      (decide (st.1 = stOK), s)

/-- Send a trail's writes; an error lapses the stream (cause 2). -/
def sendLease (s : State) (t : Trail) (ws : List (Nat × List Byte)) : State :=
  let (ok, s) := ws.foldl (fun (acc : Bool × State) w =>
    let (ok, s) := leaseWrite acc.2 t.part t.why w
    (acc.1 && ok, s)) (true, s)
  if ok then s else lapse s t.part t.sid 2

/-- The trail with a number. -/
def trail? (s : State) (id : Nat) : Option Trail := s.seam.trails.find? fun t => t.id == id

/-- Whether writes of a trail are outstanding. -/
def trailBusy (s : State) (t : Trail) : Bool := s.xp.ops.any fun o => o.why == t.why

/-- The lines that waited for their frame lines are sent once those have completed (R307). -/
def trailNext (s : State) (id : Nat) : State :=
  match trail? s id with
  | none => s
  | some t =>
    if trailBusy s t || t.later.isEmpty then s
    else
      let s := updSeam s fun (x : Seam) => { x with trails := x.trails.map fun (y : Trail) => if y.id = id then { y with later := [] } else y }
      sendLease s t t.later

/-- Start a trail: the frame lines leave, and the map, bitmap and Ledger lines wait for them. -/
def startTrail (s : State) (p sid step : Nat) (gseq : Option Nat) (sync : Bool) (first later : List (Nat × List Byte)) : Nat × State :=
  let id := s.seam.nextId
  let t : Trail :=
    { part := p, sid := sid, id := id, step := step, gseq := gseq, sync := sync, born := mer s, later := later, acked := false }
  let s := updSeam s fun (x : Seam) => { x with nextId := id + 1, trails := x.trails ++ [t] }
  (id, trailNext (sendLease s t first) id)

/-- Whether every group has appended a step: the current step is whole once GROUPS_DONE counts them all, and earlier steps are (R180, Table 7.12). -/
def wholeStep (e : List Word) (step : Nat) : Bool := decide (step < eget e 3 63 32) || eget e 2 61 53 == eGroups e

/-- Recount a stream's acknowledgements (Table 7.3, word 4; ACK_STEP): steps acknowledged with every earlier one are settled, and ACK_STEP counts whole steps. -/
def recount (s : State) (p sid : Nat) : State :=
  let own := s.seam.trails.filter fun t => t.part == p && t.sid == sid && t.step != 0
  let open_ := own.filter fun t => !t.acked
  let done := own.filter fun t => t.acked && open_.all fun u => decide (t.step < u.step)
  let s := updSeam s fun (x : Seam) => { x with trails := x.trails.filter fun t => !(done.any fun d => d.id == t.id) }
  let e := entryRaw s p sid
  let e := eset e 3 31 0 (max (eget e 3 31 0) (maxOf ((done.map Trail.step).filter (wholeStep e))))
  let e := eset e 4 63 32 open_.length
  let e := match open_ with
    | [] => eset e 4 31 0 0
    | t :: ts => eset e 4 31 0 (ts.foldl (fun m u => min m u.step) t.step)
  putEntry s p sid e

/-- A trail whose writes have all completed is acknowledged (R204). -/
def ackTrail (s : State) (t : Trail) : State :=
  if t.step = 0 then updSeam s fun (x : Seam) => { x with trails := x.trails.filter fun u => u.id != t.id }
  else
    let s := if t.sync then reportAppend s t.gseq true else s
    let s := updSeam s fun (x : Seam) => { x with trails := x.trails.map fun (u : Trail) => if u.id = t.id then { u with acked := true } else u }
    recount s t.part t.sid

/-- An error completion of a contrail write lapses its stream (R205, cause 2). -/
def trailError (s : State) (p sid id : Nat) : State := if (trail? s id).isSome then lapse s p sid 2 else s

/-- Consecutive lines joined: first offset and bytes. -/
def joinLines : List (Nat × List Byte) → List (Nat × List Byte)
  | [] => []
  | (o, b) :: rest =>
    match joinLines rest with
    | (o', b') :: rs => if o' = o + b.length then (o, b ++ b') :: rs else (o, b) :: (o', b') :: rs
    | [] => [(o, b)]

/-- The frame lines that rows t0 to t0 + n - 1 of a frame touch, as offsets. -/
def rowLines (e : List Word) (t0 n : Nat) : List Nat :=
  let hit := fun (l o k : Nat) => decide (o < 64 * l + 64) && decide (64 * l < o + k)
  let runs := List.range (2 * eG e * eH e)
  let d := eD e
  ((List.range (ceilDiv (eF e) 64)).filter fun l =>
    runs.any fun r =>
      let x := r * 16 * d + t0 * d
      if eP4 e then hit l (x / 2) (n * d / 2) || hit l (scaleOff e + x / 32) (n * d / 32) else hit l x (n * d)).map (· * 64)

/-- Mirror rows t0 to t0 + n - 1 of a seam whose frame bytes are given by `line`: the frame lines, and the image with its leaf (R203, R204). -/
def mirrorRows (m : Mir) (p : Nat) (e : List Word) (g k t0 n tokens : Nat) (line : Nat → List Byte) :
    Option (List (Nat × List Byte) × List Word × Mir) := do
  let (a, fr, e, m) ← m.leaf p e g k
  let w0 := BitVec.ofNat 64 ((leaseGa m.s p + fr * 65536) / 65536 * 65536 + fPeer * 2 ^ 13 + tokens * 256)
  let m := m.put p a (bytesOfWords [w0, 0])
  some (joinLines ((rowLines e t0 n).map fun l => (fr * 65536 + l, line l)), e, m)

/-- Write a stream's mirror Ledger entry as it stands (R203, DEDUCED: at OPEN, PARK, RESUME, CLOSE and when its root changes). -/
def mirrorLedger (s : State) (p sid : Nat) : State :=
  let e := entryRaw s p sid
  if eCmode e = 0 ∨ (eCstate e ≠ 1 ∧ eCstate e ≠ 3) then s
  else
    let m := ({ s := s, lines := [] } : Mir).ledger p sid e
    (startTrail m.s p sid 0 none false [] (m.send p)).2

/-! ### Moves -/

/-- A leaf number: group × 65,536 + seam. -/
def leafNo (g k : Nat) : Nat := g * 65536 + k

/-- The move of a leaf. -/
def move? (s : State) (p sid leaf : Nat) : Option Move := s.seam.moves.find? fun m => m.part == p && m.sid == sid && m.leaf == leaf

/-- Forget a move. -/
def dropMove (s : State) (m : Move) : State := updSeam s fun (x : Seam) => { x with moves := x.moves.filter (· != m) }

/-- A move fails or is given up: the seam is back in its source state and the target frame is free (R191). -/
def undoMove (s : State) (m : Move) : State :=
  let e := entryRaw s m.part m.sid
  let s := dropMove s m
  let s := match poolOf s m.part m.dst m.frame with
    | some q => freeUnit s m.part q m.frame
    | none => s
  match leafAddr s m.part e (m.leaf / 65536) (m.leaf % 65536) with
  | some a =>
    let w := mapRaw s m.part a
    putMap s m.part a (setBits w.1 15 13 m.src, w.2)
  | none => s

/-- The state that a leaf's frame counts under: that of its source while it moves. -/
def frameState (s : State) (p sid leaf st : Nat) : Nat := if st = fMoving then ((move? s p sid leaf).map Move.src).getD fT1 else st

/-- The mark of a RESYNC whose contrail has lapsed because a seam of its stream was lost (R206). -/
def jLost : Nat := 8

/-- Residence seams of partition p in remote pool i become LOST (R377, Table 7.9); a stream that is SYNCING lapses (cause 3). -/
def loseSeams (s : State) (p i : Nat) : State :=
  let inPool := fun (s : State) ga => inRange ga (poolBase s p (.remote i)) (fg s F.SEAM_REMOTE_CFG_FRAMES p i * 65536)
  (liveStreams s p).foldl (fun s sid =>
    let e := entryRaw s p sid
    let hit := (liveLeaves s p e).filter fun (g, k, a) =>
      let w := (mapRaw s p a).1
      let st := lfState w
      (st == fPeer || (st == fMoving && ((move? s p sid (leafNo g k)).map Move.src == some fPeer))) && inPool s (lfFrame w)
    let s := hit.foldl (fun s (g, k, a) =>
      let s := match move? s p sid (leafNo g k) with
        | some m => undoMove s m
        | none => s
      let w := mapRaw s p a
      let s := putMap s p a (setBits (setBits w.1 15 13 fLost) 63 16 0, w.2)
      putEntry s p sid (countFrame (entryRaw s p sid) fPeer (-1))) s
    if !hit.isEmpty ∧ eCstate e = 3 then
      let s := lapse s p sid 3
      updSeam s fun (x : Seam) => { x with jobs := x.jobs.map fun (j : SeamJob) => if j.part = p ∧ j.sid = sid ∧ j.restore = false then { j with lapse := jLost } else j }
    else s) s

/-- The partner check's RESULT (R202): when it leaves 1, every stream that is ACTIVE or SYNCING lapses (cause 5). -/
def setResult (s : State) (p r : Nat) : State :=
  let was := fg s F.SEAM_CONTRAIL_CTL_RESULT p
  let s := fs s F.SEAM_CONTRAIL_CTL_RESULT r p
  if was = 1 ∧ r ≠ 1 then (liveStreams s p).foldl (fun s sid => lapse s p sid 5) s else s

/-- A partner check starts (R202): the lease header is read. -/
def startCheck (s : State) (p : Nat) : State :=
  let s := updSeam s fun (x : Seam) => { x with checks := x.checks.filter (· != p) ++ [p] }
  if remoteOn s p (trailPool s p) then (frameRead s p (leaseGa s p) 64 id).2 else s

/-- Remote pool i of partition p ends (R377): it stays unusable until its SEAM_REMOTE_CFG is written again, its residence seams are lost, and streams whose contrail
it holds lapse (cause 3). -/
def endPool (s : State) (p i : Nat) : State :=
  if !fb s F.SEAM_REMOTE_CFG_EN p i || s.seam.ended.contains (p * 4 + i) then s
  else
    let s := if fb s F.SEAM_REMOTE_CFG_KIND p i then
        (if trailPool s p = i then (liveStreams s p).foldl (fun s sid => lapse s p sid 3) s else s)
      else loseSeams s p i
    updSeam s fun (x : Seam) => { x with ended := x.ended ++ [p * 4 + i], remUsed := SMap.erase x.remUsed (p * 4 + i) }

/-- A partition's commands and moves are abandoned (R211, R195): its fence or reset. -/
def seamFence (s : State) (p : Nat) : State :=
  freeLate (updSeam s fun (x : Seam) => { x with queue := x.queue.filter fun c => c.part != p, jobs := x.jobs.filter fun j => j.part != p })

end Sys2Proof.Machine
end

