-- ==== Sys2Proof/Machine/Seam.lean ====
section
/-! DEFINITION. The SEAM and ASSAY instructions (R121, R464) and the commands of the Seam Engines: FETCH, APPEND and the CONTROL operations (chapter 7). -/

namespace Sys2Proof.Machine

/-! ### Issue (R121, R464) -/

/-- Whether bits of a block outside the given fields (word, hi, lo) are 0. -/
def onlyFields (ws : List Word) (fs : List (Nat × Nat × Nat)) : Bool :=
  (List.range 8).all fun k =>
    decide ((fs.foldl (fun (w : Word) f => if f.1 = k then setBits w f.2.1 f.2.2 0 else w) (dw ws k)) = 0)

/-- FETCH: the format checks made at issue (R192, R464). -/
def fetchFormat (s : State) (tl : Nat) (ws : List Word) : Bool :=
  onlyFields ws [(0, 63, 42), (0, 19, 0), (1, 45, 40), (1, 37, 32), (1, 31, 16), (1, 12, 0), (2, 20, 6), (3, 20, 6)] &&
  decide (db ws 0 63 62 ≤ 1) && decide (db ws 0 61 60 ≠ 3) && decide (db ws 0 43 42 ≠ 0) &&
  decide (1 ≤ db ws 1 12 0) && decide (db ws 1 12 0 ≤ 4096) && decide (db ws 1 37 32 ≤ db ws 1 45 40) &&
  (if db ws 0 63 62 = 0 then decide (db ws 3 20 0 = 0) else !outside s tl (db ws 3 20 0) (2 * db ws 1 12 0))

/-- APPEND: the format checks made at issue (R193, R464). -/
def appendFormat (ws : List Word) : Bool :=
  onlyFields ws [(0, 61, 52), (0, 19, 0), (1, 63, 32), (1, 28, 20), (1, 19, 0), (2, 20, 6)] &&
  decide (db ws 0 61 60 ≠ 3) && decide (1 ≤ db ws 1 63 32) && decide (1 ≤ db ws 1 28 20) && decide (db ws 1 28 20 ≤ 256)

/-- CONTROL from a task: the format checks made at issue (R196). Word 1 of an OPEN is checked when it is served (R183). -/
def controlFormat (s : State) (tl : Nat) (ws : List Word) : Bool :=
  let op := db ws 0 63 56
  if op = 0x01 then onlyFields ws [(0, 63, 56), (0, 19, 0), (1, 63, 0), (2, 63, 0)]
  else if op = 0x05 then onlyFields ws [(0, 63, 56), (0, 19, 0), (1, 2, 0)] && decide (db ws 1 1 0 ≤ 1)
  else if op = 0x07 then onlyFields ws [(0, 63, 56), (0, 19, 0), (1, 20, 6)] && !outside s tl (db ws 1 20 0) 128
  else decide (2 ≤ op) && decide (op ≤ 6) && onlyFields ws [(0, 63, 56), (0, 19, 0)]

/-- CONTROL from the host ring: the same, QUERY naming a global address in word 2. -/
def controlHostFormat (ws : List Word) : Bool :=
  let op := db ws 0 63 56
  if op = 0x01 then onlyFields ws [(0, 63, 56), (0, 19, 0), (1, 63, 0), (2, 63, 0)]
  else if op = 0x05 then onlyFields ws [(0, 63, 56), (0, 19, 0), (1, 2, 0)] && decide (db ws 1 1 0 ≤ 1)
  else if op = 0x07 then onlyFields ws [(0, 63, 56), (0, 19, 0), (2, 63, 6)]
  else decide (2 ≤ op) && decide (op ≤ 6) && onlyFields ws [(0, 63, 56), (0, 19, 0)]

/-- FP32 word that is finite. -/
def finiteF32 (x : Nat) : Bool := decide (x / 2 ^ 23 % 256 ≠ 255)

/-- QUERY: the format checks made at issue (R219, R220, R464). -/
def queryFormat (ws : List Word) : Bool :=
  let mode := db ws 0 63 62
  let scale := db ws 2 63 32
  let margin := db ws 2 31 0
  onlyFields ws [(0, 63, 39), (0, 19, 0), (1, 63, 32), (1, 29, 24), (1, 21, 16), (1, 12, 0), (2, 63, 0), (3, 48, 16), (4, 20, 6), (5, 20, 6), (6, 20, 6)] &&
  decide (mode ≠ 3) && decide (db ws 1 21 16 ≤ db ws 1 29 24) && decide (db ws 1 63 48 ≤ db ws 1 47 32) &&
  (if mode = 1 then decide (1 ≤ db ws 1 12 0) && decide (db ws 1 12 0 ≤ 4096) else decide (db ws 1 12 0 = 0)) &&
  (if mode = 2 then finiteF32 margin && decide (margin < 2 ^ 31) else decide (margin = 0)) &&
  finiteF32 scale && decide (0 < scale) && decide (scale < 2 ^ 31) &&
  decide ((db ws 1 29 24 + 1 - db ws 1 21 16) * (db ws 0 42 39 + 1) ≤ 256) &&
  decide (1 ≤ db ws 3 48 32) && decide (db ws 3 48 32 ≤ 65536)

/-- The issue of a SEAM or ASSAY instruction (R121): the block is read and checked, and the command submitted under the next tag. Copy B of a shadow run submits none
(R349); a command that would change state ends the run UNSUPPORTED (R350). -/
def cmdIssue (s : State) (c : CoreRef) (rd ra rb : BitVec 5) (kind : Nat) (format : State → Nat → List Word → Bool) (changes : Bool) : Ans :=
  runOp s c .both [kG ra.toNat, kG rb.toNat]
    (fun s _ =>
      let a := (coreAt s c).gr ra.toNat
      let b := (coreAt s c).gr rb.toNat
      chk (decide (a.toNat % 64 ≠ 0)) 0x0C a ++ chk (decide (b.toNat % 64 ≠ 0)) 0x0C b ++
      chk (outside s c.tile a.toNat 64) 0x0D a ++ chk (outside s c.tile b.toNat 64) 0x0D b)
    (fun s x =>
      let k := coreAt s c
      if 32 ≤ k.cmds.length then none
      else
        let area := (tile s c.tile).base + (k.gr rb.toNat).toNat
        let s := flushGather s c.tile c.mover
        some (withLoad s x c (k.gr ra.toNat).toNat 64 fun s bs =>
          let ws := wordsOf 8 bs
          if !format s c.tile ws then raise s x.slot c 0x19 k.pc 0 (some (db ws 0 19 0))
          else if x.task.shadow ≠ 0 ∧ changes = true ∧ inCopyB x.task c.tile = false then shadowStop s x.slot 5 0x7FF 0x7FF 0
          else
            let tag := k.cmdTag
            let cmd : SeamCmd :=
              { part := x.task.part, kind := kind, block := ws, origin := .task (coreKey c) x.slot x.task.epoch tag k.pc area,
                assay := none, leaves := [], sent := false }
            let s := if inCopyB x.task c.tile then s else updSeam s fun (y : Seam) => { y with queue := y.queue ++ [cmd] }
            retire (updCore s c fun k =>
              { k.setG rd.toNat (BitVec.ofNat 64 tag) (x.t + 2) with cmdTag := (tag + 1) % 65536, cmds := k.cmds ++ [tag] }) c x.t 1))
    (blockWait c fun k => (k.gr ra.toNat).toNat)

/-- SEAM_FETCH_ISSUE (R121, R192). -/
def execSeamFetchIssue (c : CoreRef) (rd ra rb : BitVec 5) (s : State) : Ans := cmdIssue s c rd ra rb 0 fetchFormat false

/-- SEAM_APPEND_ISSUE (R121, R193, R350). -/
def execSeamAppendIssue (c : CoreRef) (rd ra rb : BitVec 5) (s : State) : Ans := cmdIssue s c rd ra rb 1 (fun _ _ ws => appendFormat ws) true

/-- SEAM_CONTROL_ISSUE (R121, R196, R350). -/
def execSeamControlIssue (c : CoreRef) (rd ra rb : BitVec 5) (s : State) : Ans := cmdIssue s c rd ra rb 2 controlFormat true

/-- ASSAY_QUERY_ISSUE (R121, R219, R220). -/
def execAssayQueryIssue (c : CoreRef) (rd ra rb : BitVec 5) (s : State) : Ans := cmdIssue s c rd ra rb 3 (fun _ _ ws => queryFormat ws) false

/-! ### FETCH (R192) -/

/-- The (layer, head, kind) runs that a FETCH selects, in frame order (R192, R184). -/
def fetchRuns (e b : List Word) : List Nat :=
  let layers := if db b 0 51 44 = 0xFF then List.range (eG e) else [db b 0 51 44]
  let heads := rangeFrom (db b 1 37 32) (db b 1 45 40 + 1 - db b 1 37 32)
  let kinds := if db b 0 43 42 = 1 then [0] else if db b 0 43 42 = 2 then [1] else [0, 1]
  layers.flatMap fun j => heads.flatMap fun h => kinds.map fun c => runIx (eH e) j h c

/-- n rounded up to a multiple of 64. -/
def pad64 (n : Nat) : Nat := ceilDiv n 64 * 64

/-- The bytes that one seam delivers: its parts, padded (R192). -/
def seamBytes (e b : List Word) : Nat :=
  let els := (fetchRuns e b).length * 16 * eD e
  let out := db b 0 61 60
  if out = 1 then pad64 els
  else if out = 2 then pad64 (2 * els)
  else if eP4 e then pad64 (els / 2) + pad64 (els / 32)
  else pad64 els

/-- One seam as delivered, from the element and scale bytes of the written rows of each run (R186, R192). -/
def deliverSeam (e b : List Word) (runs : List (List Byte × List Byte)) : List Byte :=
  let n := 16 * eD e
  let out := db b 0 61 60
  if out = 0 then
    if eP4 e then
      let els := runs.flatMap fun r => padTo (n / 2) r.1
      let scs := runs.flatMap fun r => padTo (n / 32) r.2
      padTo (pad64 els.length) els ++ padTo (pad64 scs.length) scs
    else
      let els := runs.flatMap fun r => padTo n r.1
      padTo (pad64 els.length) els
  else
    let f := if out = 1 then e4m3 else bf16
    let w := if out = 1 then 1 else 2
    let els := runs.flatMap fun r => padTo (n * w) ((runVals e r.1 r.2).flatMap fun x => bytesOf w (f.encode 0 true 0 x).1)
    padTo (pad64 els.length) els

/-- How the reading of a seam ends. -/
inductive SeamRead where
  | data (runs : List (List Byte × List Byte))
  | bad
  | err
  | wait

/-- Read the written rows of the selected runs of a frame. -/
def readRuns (s : State) (p : Nat) (e : List Word) (frame rows : Nat) (ctx : Rec → Rec) : List Nat → SeamRead × State
  | [] => (.data [], s)
  | r :: rs =>
    let ((o, n), (o', n')) := runSpan e r rows
    match frameRead s p (frame + o) n ctx with
    | (.data els, s1) =>
      match (if n' = 0 then (FrameRead.data [], s1) else frameRead s1 p (frame + o') n' ctx) with
      | (.data scs, s2) =>
        match readRuns s2 p e frame rows ctx rs with
        | (.data rest, s3) => (.data ((els, scs) :: rest), s3)
        | x => x
      | (.bad, s2) => (.bad, s2)
      | (.err, s2) => (.err, s2)
      | (.wait, s2) => (.wait, s2)
    | (.bad, s1) => (.bad, s1)
    | (.err, s1) => (.err, s1)
    | (.wait, s1) => (.wait, s1)

/-- Effective heat at the present Tick of a leaf with this HEAT and HEAT_TICK (R200). -/
def effHeat (s : State) (p : Nat) (h : Nat × Nat) : Nat :=
  let k := (rd s .tgeTickNow).toNat % 2 ^ 24
  h.1 / 2 ^ ((k + 2 ^ 24 - h.2) % 2 ^ 24 / max 1 (fg s F.SEAM_TIER_CTL_HALF_LIFE p))

/-- A delivered seam is heated in its line of the TLB (R188, R200). -/
def heatLeaf (s : State) (p sid : Nat) (e : List Word) (g k : Nat) : State :=
  let tag := lineTag p sid e g k
  let h := min 255 (effHeat s p (leafHeat s tag k (leafRaw s p e g k)) + fg s F.SEAM_TIER_CTL_HEAT_ADD p)
  updSeam s fun (x : Seam) =>
    { x with heats := x.heats.filter (fun y => !(y.1 == tag && y.2.1 == k % 16)) ++ [(tag, k % 16, h, (rd s .tgeTickNow).toNat % 2 ^ 24)] }

/-- What a FETCH has gathered: bytes, seams delivered, seams delivered as zeros, seams to heat, leaf entries read, and how it ended early. -/
structure FetchAcc where
  out    : List Byte
  n      : Nat
  empty  : Nat
  heat   : List Nat
  leaves : List (Nat × Word × Word)
  stop   : Option Nat
  s      : State

/-- The leaf entry of a seam for a FETCH: the one it has read already (R211), or that of a walk. -/
def fetchLeaf (c : SeamCmd) (e : List Word) (acc : FetchAcc) (g k : Nat) : Option (Word × Word) × State :=
  match acc.leaves.find? fun l => l.1 == leafNo g k with
  | some l => (some l.2, acc.s)
  | none => walk acc.s c.part c.sid e g k (cmdCtx acc.s c)

/-- FETCH of one seam: stops are 1 uncorrectable, 2 an error completion, 3 a lost seam, 4 data that has not arrived. -/
def fetchSeam (c : SeamCmd) (e : List Word) (acc : FetchAcc) (k : Nat) : FetchAcc :=
  if acc.stop.isSome then acc
  else
    let p := c.part
    let g := db c.block 0 59 52
    let zero := fun (a : FetchAcc) => { a with out := a.out ++ List.replicate (seamBytes e c.block) 0, n := a.n + 1, empty := a.empty + 1 }
    if eSeams e ≤ k then zero acc
    else
      match fetchLeaf c e acc g k with
      | (none, s) => { acc with stop := some 1, s := s }
      | (some w, s) =>
        let acc := { acc with leaves := acc.leaves.filter (fun (l : Nat × Word × Word) => l.1 != leafNo g k) ++ [(leafNo g k, w)] }
        if lfState w.1 = fEmpty then zero { acc with s := s }
        else if lfState w.1 = fLost then { acc with stop := some 3, s := s }
        else
          match readRuns s p e (lfFrame w.1) (lfTokens w.1) (cmdCtx s c) (fetchRuns e c.block) with
          | (.data runs, s) =>
            { acc with out := acc.out ++ deliverSeam e c.block runs, n := acc.n + 1, s := s, heat := acc.heat ++ [k] }
          | (.bad, s) => { acc with stop := some 1, s := s }
          | (.err, s) => { acc with stop := some 2, s := s }
          | (.wait, s) => { acc with stop := some 4, s := s }

/-- FETCH's checks at service (R464). -/
def fetchInvalid (s : State) (k : CoreRef) (e b : List Word) : Bool :=
  decide (eGroups e ≤ db b 0 59 52) || (decide (db b 0 51 44 ≠ 0xFF) && decide (eG e ≤ db b 0 51 44)) || decide (eH e ≤ db b 1 45 40) ||
  outside s k.tile (db b 2 20 0) (db b 1 12 0 * seamBytes e b)

/-- The seams that a FETCH names: a range, or the list in the tile store; none when a word of the list is uncorrectable. -/
def fetchList (s : State) (slot : Nat) (k : CoreRef) (b : List Word) : Option (List Nat) × State :=
  let n := db b 1 12 0
  if db b 0 63 62 = 0 then (some (rangeFrom (db b 1 31 16) n), s)
  else
    let (bs, bad, s) := loadStore s slot k ((tile s k.tile).base + db b 3 20 0) (2 * n)
    if bad.isEmpty then (some ((List.range n).map fun i => ofBytes ((bs.drop (2 * i)).take 2)), s) else (none, s)

/-- FETCH of an OPEN or PARKED stream. -/
def serveFetch (s0 : State) (c : SeamCmd) (e : List Word) : State :=
  match issuer s0 c with
  | none => popCmd s0 c
  | some (slot, t, k) =>
    if fetchInvalid s0 k e c.block then faultCmd s0 c 0x19 0
    else
      match fetchList s0 slot k c.block with
      | (none, s) => memCmd s c
      | (some ks, s) =>
        let acc := ks.foldl (fetchSeam c e) { out := [], n := 0, empty := 0, heat := [], leaves := c.leaves, stop := none, s := s }
        if acc.stop = some 4 then holdLeaves acc.s c acc.leaves
        else
          let s := storeOut acc.s t k ((tile acc.s k.tile).base + db c.block 2 20 0) acc.out
          let s := acc.heat.foldl (fun s k => heatLeaf s c.part c.sid e (db c.block 0 59 52) k) s
          let s := putEntry s c.part c.sid (used s (entryRaw s c.part c.sid))
          match acc.stop with
          | some 1 => memCmd s c
          | some 2 => remoteCmd s c
          | st => completeCmd s c fun tag =>
              doneWords (if st = some 3 then cLost else cOk) tag acc.n acc.out.length acc.empty (eLength e)

/-- SEAM_FETCH (R182, R192). -/
def execSeamFetch (die : Nat) (s : State) : Ans :=
  finish (serve s die false refuseCmd (fun c => c.kind == 0) true fun s c e =>
    let st := eState e
    if st = sOpen ∨ st = sParked then serveFetch s c e
    else if st = sFree then refuseCmd s c cNotOpen (eLength e)
    else refuseCmd s c cBusy (eLength e))

/-! ### APPEND (R193 to R195) -/

/-- The decision of Table 7.12: the status, and whether rows are written. -/
def appendDecision (e b : List Word) : Nat :=
  let step := db b 1 63 32
  let last := eget e 3 63 32
  let pos := db b 1 19 0
  let fin := pos + db b 1 28 20
  let g := db b 0 59 52
  if step < last then cStale
  else if last < step then
    if eget e 2 61 53 ≠ eGroups e then cIncomplete
    else if pos = eLength e ∧ fin ≤ 1048576 then cOk
    else cPosition
  else if pos = eget e 2 52 32 ∧ fin = eLength e then
    (if eget e (11 + g / 64) (g % 64) (g % 64) = 1 then cRewrite else cOk)
  else cPosition

/-- The Ledger entry after a successful APPEND (Table 7.12). -/
def appendEntry (e b : List Word) : List Word :=
  let step := db b 1 63 32
  let g := db b 0 59 52
  if eget e 3 63 32 < step then
    let e := eset (eset e 2 52 32 (eLength e)) 2 20 0 (db b 1 19 0 + db b 1 28 20)
    let e := eset e 3 63 32 step
    let e := (((e.set 11 0).set 12 0).set 13 0).set 14 0
    eset (eset e (11 + g / 64) (g % 64) (g % 64) 1) 2 61 53 1
  else if eget e (11 + g / 64) (g % 64) (g % 64) = 1 then e
  else eset (eset e (11 + g / 64) (g % 64) (g % 64) 1) 2 61 53 (eget e 2 61 53 + 1)

/-- A seam that an APPEND writes: number, first row, rows, leaf address, frame, and its TOKENS before. -/
structure SeamPart where
  k      : Nat
  row    : Nat
  rows   : Nat
  leaf   : Nat
  frame  : Nat
  tokens : Nat

/-- The seams of positions pos to pos + n - 1 with the rows of each. -/
def appendSeams (pos n : Nat) : List (Nat × Nat × Nat) :=
  (rangeFrom (pos / 16) ((pos + n - 1) / 16 + 1 - pos / 16)).map fun k =>
    let lo := max pos (16 * k)
    let hi := min (pos + n) (16 * k + 16)
    (k, lo - 16 * k, hi - lo)

/-- Why an APPEND stops before it writes: a status, an uncorrectable word, an error completion, or data that has not arrived. -/
inductive AppendStop where
  | status (n : Nat)
  | bad
  | err
  | wait

/-- What must be read of a seam before anything is written: its walk, the sketch that is merged or the rows from which it is rebuilt (R198, R214). -/
def appendReads (s : State) (c : SeamCmd) (e : List Word) (rewrite : Bool) (k : Nat) : Option AppendStop × State :=
  match walk s c.part c.sid e (db c.block 0 59 52) k (cmdCtx s c) with
  | (none, s) => (some .bad, s)
  | (some w, s) =>
    let st := lfState w.1
    if st = fLost then (some (.status cLost), s)
    else if st = fEmpty then (none, s)
    else
      let (bad, s) := if lfTokens w.1 = 0 ∨ rewrite = true then (false, s)
        else
          let (_, b, s) := lread s c.part (lfSketch w.2) (eSketch e) (cmdCtx s c)
          (b, s)
      if bad then (some .bad, s)
      else if rewrite = false ∧ (st = fT1 ∨ (st = fMoving ∧ frameState s c.part c.sid (leafNo (db c.block 0 59 52) k) st = fT1)) then (none, s)
      else
        match frameRead s c.part (lfFrame w.1) (eF e) (cmdCtx s c) with
        | (.data _, s) => (none, s)
        | (.bad, s) => (some .bad, s)
        | (.err, s) => (some .err, s)
        | (.wait, s) => (some .wait, s)

/-- The bytes of a frame wherever it lies, as they stand. -/
def frameBytes (s : State) (p ga n : Nat) : List Byte × State :=
  match frameRead s p ga n id with
  | (.data bs, s) => (bs, s)
  | (_, s) => (List.replicate n 0, s)

/-- Reserve what a seam needs (R195): its map tables, a T1 frame and a sketch slot, linked with TOKENS 0; a frame that lies elsewhere is brought to T1, a move in
progress is given up (R190). None when a pool is exhausted. -/
def reserveSeam (s : State) (p sid : Nat) (e : List Word) (g k row rows : Nat) : Option (SeamPart × List Word × State) := do
  let s := match move? s p sid (leafNo g k) with
    | some m => undoMove s m
    | none => s
  let (a, e, s) ← ensureLeaf s p e g k
  let w := mapRaw s p a
  let st := lfState w.1
  if st = fEmpty then
    let (fr, s) ← allocUnit s p .t1
    let (sk, s) ← allocUnit s p .sketch
    let w0 := BitVec.ofNat 64 (fr + fT1 * 2 ^ 13)
    let w1 := BitVec.ofNat 64 (sk / 64 * 2 ^ 30 + (rd s .tgeTickNow).toNat % 2 ^ 24 * 64)
    some ({ k := k, row := row, rows := rows, leaf := a, frame := fr, tokens := 0 }, countFrame e fT1 1, putMap s p a (w0, w1))
  else if st = fT1 then some ({ k := k, row := row, rows := rows, leaf := a, frame := lfFrame w.1, tokens := lfTokens w.1 }, e, s)
  else
    let (fr, s) ← allocUnit s p .t1
    let (bs, s) := frameBytes s p (lfFrame w.1) (eF e)
    let s := lwrite s p fr bs
    let s := match poolOf s p st (lfFrame w.1) with
      | some q => freeUnit s p q (lfFrame w.1)
      | none => s
    let w0 := setBits (setBits w.1 15 13 fT1) 63 16 (fr / 65536)
    some ({ k := k, row := row, rows := rows, leaf := a, frame := fr, tokens := lfTokens w.1 }, countFrame (countFrame e st (-1)) fT1 1,
      putMap s p a (w0, w.2))

/-- Write one row of a seam's frame from the source bytes of its token: elements and scales of every run, with the SAT and NaN counts (R185); false when an uncorrectable
word kept bytes out (R198, R266). -/
def writeRow (s : State) (p : Nat) (e : List Word) (inp frame t : Nat) (src : List Byte) : Bool × State :=
  let d := eD e
  let w := inBytes inp
  (List.range (2 * eG e * eH e)).foldl (fun (acc : Bool × State) r =>
    let (ok, s) := acc
    let bs := (src.drop (r * d * w)).take (d * w)
    let (els, scs, sat, nan) := packRow (eP4 e) (inVals inp bs) (if inp = 2 then some bs else none)
    let n := r * 16 * d + t * d
    let (ok1, s) := lput s p (if eP4 e then frame + n / 2 else frame + n) els
    let (ok2, s) := lput s p (frame + scaleOff e + n / 32) scs
    (ok && ok1 && ok2, finc (finc s F.SEAM_PACK_STATS_SAT sat p) F.SEAM_PACK_STATS_NAN nan p)) (true, s)

/-- The key values of rows t0 to t0 + n - 1 of layer j and head h of a local frame. -/
def keyRows (s : State) (p : Nat) (e : List Word) (frame j h t0 n : Nat) : List (List Num) :=
  (rangeFrom t0 n).map fun t =>
    let x := runIx (eH e) j h 0 * 16 * eD e + t * eD e
    if eP4 e then runVals e (lraw s p (frame + x / 2) (eD e / 2)) (lraw s p (frame + scaleOff e + x / 32) (eD e / 32))
    else runVals e (lraw s p (frame + x) (eD e)) []

/-- Rewrite a seam's sketch from rows t0 to t0 + n - 1, over the earlier one when `merge` (Table 8.1). -/
def writeSketch (s : State) (p : Nat) (e : List Word) (sk frame t0 n : Nat) (merge : Bool) : State :=
  let d := eD e
  (List.range (eG e)).foldl (fun s j =>
    (List.range (eH e)).foldl (fun s h =>
      let a := sk + 2 * (j * eH e + h) * d
      let old := lraw s p a (2 * d)
      let codes := fun (l : List Byte) => l.map fun b => b.toNat
      let (lo, hi) := sketchRows (if merge then some (codes (old.take d), codes (old.drop d)) else none) (keyRows s p e frame j h t0 n)
      lwrite s p a ((lo ++ hi).map fun x => BitVec.ofNat 8 x)) s) s

/-- TOKENS of a seam once its rows are in. -/
def SeamPart.full (x : SeamPart) : Nat := max x.tokens (x.row + x.rows)

/-- Write the rows and then the sketch of a reserved seam (R195, R214); false when an uncorrectable word kept bytes of a row out. -/
def writeSeam (s : State) (p : Nat) (e : List Word) (inp : Nat) (rewrite : Bool) (src : Nat → List Byte) (x : SeamPart) : Bool × State :=
  let (ok, s) := (rangeFrom x.row x.rows).foldl (fun (acc : Bool × State) t =>
    let (ok, s) := writeRow acc.2 p e inp x.frame t (src (16 * x.k + t))
    (acc.1 && ok, s)) (true, s)
  let sk := lfSketch (mapRaw s p x.leaf).2
  (ok, if rewrite then writeSketch s p e sk x.frame 0 x.full false else writeSketch s p e sk x.frame x.row x.rows (decide (x.tokens ≠ 0)))

/-- Raise TOKENS of a written seam (R195). -/
def raiseTokens (s : State) (p : Nat) (x : SeamPart) : State :=
  let w := mapRaw s p x.leaf
  putMap s p x.leaf (setBits w.1 12 8 x.full, w.2)

/-- The lines of a frame that mirroring reads (R204): whether all could be read. -/
def linesRead (s : State) (p : Nat) (e : List Word) (x : SeamPart) : Bool × State :=
  (rowLines e x.row x.rows).foldl (fun (acc : Bool × State) l =>
    let (_, bad, s) := lread acc.2 p (x.frame + l) 64 fun r => r.ofPart acc.2 p
    (acc.1 && !bad, s)) (true, s)

/-- Mirror what an APPEND wrote (R204): the trail, whose step is unacknowledged. With the mirror pool exhausted the stream lapses (cause 4), and with a word that cannot be
read too (cause 2, Table 10.5). -/
def appendTrail (s : State) (p sid : Nat) (g step : Nat) (gseq : Option Nat) (xs : List SeamPart) : State :=
  let e := entryRaw s p sid
  if eCmode e = 0 then s
  else
    let sync := eCmode e == 2
    if eCstate e = 2 then
      if sync then
        let s := finc s F.SEAM_CONTRAIL_STATUS_ABANDONED 1 p
        match gseq with
        | some q => updGraph s q fun y => { y with unacked := true }
        | none => s
      else s
    else if eCstate e = 1 ∨ eCstate e = 3 then
      let root := eget e 9 43 12
      let res := xs.foldl (fun (acc : Option (List (Nat × List Byte) × List Word × Mir)) x => do
        let (ls, e, m) ← acc
        let line := fun l => lraw s p (x.frame + l) 64
        let (l, e, m) ← mirrorRows m p e g x.k x.row x.rows (lfTokens (mapRaw s p x.leaf).1) line
        some (ls ++ l, e, m)) (some ([], e, { s := s, lines := [] }))
      let s := if sync then match gseq with
          | some q => updGraph s q fun y => { y with appends := y.appends + 1 }
          | none => s
        else s
      let fail := fun (s : State) cause => lapse (recount (startTrail s p sid step gseq sync [] []).2 p sid) p sid cause
      let (ok, read) := xs.foldl (fun (acc : Bool × State) x =>
        let (ok, s) := linesRead acc.2 p e x
        (acc.1 && ok, s)) (true, s)
      if !ok then fail read 2
      else match res with
      | none => fail s 4
      | some (ls, e, m) =>
        let m := if eget e 9 43 12 ≠ root then m.ledger p sid e else m
        let s := { m.s with tge := s.tge }
        let s := putEntry s p sid e
        recount (startTrail s p sid step gseq sync ls (m.send p)).2 p sid
    else s

/-- An asynchronous append that completes while one of step n - 4 or earlier is unacknowledged lapses an ACTIVE stream (Table 7.19, cause 6). -/
def asyncLag (s : State) (p sid step : Nat) : State :=
  if eCmode (entryRaw s p sid) = 1 ∧ eCstate (entryRaw s p sid) = 1 ∧ s.seam.trails.any (fun t => t.part == p && t.sid == sid && t.step != 0 && !t.acked && decide (t.step + 4 ≤ step)) = true
  then lapse s p sid 6 else s

/-- APPEND to an OPEN stream (R194). -/
def serveAppend (s0 : State) (c : SeamCmd) (e : List Word) : State :=
  match issuer s0 c with
  | none => popCmd s0 c
  | some (slot, t, k) =>
    let p := c.part
    let b := c.block
    let g := db b 0 59 52
    let inp := db b 0 61 60
    let n := db b 1 28 20
    let pos := db b 1 19 0
    let tok := 2 * eG e * eH e * eD e * inBytes inp
    if decide (eGroups e ≤ g) || outside s0 k.tile (db b 2 20 0) (n * tok) then faultCmd s0 c 0x19 0
    else
      let st := appendDecision e b
      if st ≠ cOk ∧ st ≠ cRewrite then
        refuseCmd (putEntry s0 p c.sid (used s0 e)) c st (eLength e)
      else
        let rewrite := st == cRewrite
        let (src, bad, s) := loadStore s0 slot k ((tile s0 k.tile).base + db b 2 20 0) (n * tok)
        if !bad.isEmpty then memCmd s c (badOffset s0 slot k ((tile s0 k.tile).base + db b 2 20 0) (n * tok))
        else
          let seams := appendSeams pos n
          let (stop, s) := seams.foldl (fun (acc : Option AppendStop × State) x =>
            match acc.1 with
            | some _ => acc
            | none => appendReads acc.2 c e rewrite x.1) (none, s)
          match stop with
          | some (.status x) => refuseCmd s c x (eLength e)
          | some .bad => memCmd s c
          | some .err => remoteCmd s c
          | some .wait => holdLeaves s c (seams.map fun x => (leafNo g x.1, leafRaw s p e g x.1))
          | none =>
            let res := seams.foldl (fun (acc : Option (List SeamPart × List Word × State)) x => do
              let (xs, e, s) ← acc
              let (y, e, s) ← reserveSeam s p c.sid e g x.1 x.2.1 x.2.2
              some (xs ++ [y], e, s)) (some ([], e, s))
            match res with
            | none => refuseCmd s c cPoolEmpty (eLength e)
            | some (xs, e', s) =>
              let (ok, s) := xs.foldl (fun (acc : Bool × State) x =>
                let (ok, s) := writeSeam acc.2 p e inp rewrite (fun q => (src.drop ((q - pos) * tok)).take tok) x
                (acc.1 && ok, s)) (true, s)
              if !ok then memCmd (putEntry s p c.sid e') c
              else
                let s := xs.foldl (raiseTokens · p) s
                let e' := appendEntry (used s e') b
                let s := putEntry s p c.sid e'
                let s := appendTrail s p c.sid g (db b 1 63 32) (some t.gseq) xs
                let s := completeCmd s c fun tag => doneWords st tag n (n * (eF e / 16)) 0 (eLength e')
                asyncLag s p c.sid (db b 1 63 32)

/-- SEAM_APPEND (R182, R194). -/
def execSeamAppend (die : Nat) (s : State) : Ans :=
  finish (serve s die false refuseCmd (fun c => c.kind == 1) true fun s c e =>
    let st := eState e
    if st = sOpen then serveAppend s c e
    else if st = sFree then refuseCmd s c cNotOpen (eLength e)
    else if st = sParked then refuseCmd s c cParked (eLength e)
    else refuseCmd s c cBusy (eLength e))

/-! ### CONTROL (R196) -/

/-- Serve the next CONTROL of a die with an operation. -/
def serveControl (s : State) (die op : Nat) (f : State → SeamCmd → List Word → State) : Ans :=
  finish (serve s die false refuseCmd (fun c => c.kind == 2 && c.op == op) false f)

/-- Complete a CONTROL with OK, its stream as it is (Table 7.4). -/
def sameCmd (s : State) (c : SeamCmd) (e : List Word) : State := completeCmd s c fun tag => doneWords cOk tag 0 0 0 (eLength e)

/-- Complete a CONTROL with OK after its entry has been written. -/
def okCmd (s : State) (c : SeamCmd) (e : List Word) : State := sameCmd (putEntry s c.part c.sid e) c e

/-- Whether a word of a stream's map is found uncorrectable (R198). -/
def mapBad (s : State) (p : Nat) (e : List Word) (ctx : Rec → Rec) : Bool × State :=
  (mapTables s p e).foldl (fun (acc : Bool × State) a =>
    let (_, bad, s) := lread acc.2 p a 4096 ctx
    (acc.1 || bad, s)) (false, s)

/-- The mask of a stream's groups in DONE_MASK with every group done, and GROUPS_DONE (R180). -/
def allDone (e : List Word) : List Word :=
  let n := eGroups e
  let e := (List.range 4).foldl (fun (e : List Word) w =>
    e.set (11 + w) (BitVec.ofNat 64 (2 ^ (min 64 (n - 64 * w)) - 1))) e
  eset e 2 61 53 n

/-- The entry that OPEN makes (R196): geometry and modes from word 1 of its block, nothing held. -/
def openEntry (s : State) (c : SeamCmd) (e : List Word) : List Word :=
  let w1 := dw c.block 1
  let mode := if getBits w1 60 59 = 3 then fg s F.SEAM_CONTRAIL_CTL_MODE c.part else getBits w1 60 59
  let n := (List.replicate 16 (0 : Word)).set 0 (setBits (setBits (setBits (setBits w1 63 61 sOpen) 60 59 mode) 58 56 (if mode = 0 then 0 else 1)) 15 0 (eGen e + 1))
  let n := n.set 7 (BitVec.ofNat 64 (mer s)) |>.set 10 (dw c.block 2)
  used s (allDone n)

/-- Whether word 1 of an OPEN has a bit set outside the fields that R196 places there. -/
def openRest (w : Word) : Bool := decide (getBits w 63 61 ≠ 0) || decide (getBits w 58 56 ≠ 0) || decide (getBits w 53 48 ≠ 0) ||
  decide (getBits w 31 30 ≠ 0) || decide (getBits w 23 19 ≠ 0) || decide (getBits w 15 0 ≠ 0)

/-- CONTROL_OPEN (R183). -/
def execControlOpen (die : Nat) (s : State) : Ans :=
  serveControl s die 0x01 fun s c e =>
    let st := eState e
    if st = sFree then
      let n := openEntry s c e
      let w1 := dw c.block 1
      if openRest w1 || decide (2 ≤ getBits w1 55 54) || decide (65536 < eF n) || decide (poolUnit s c.part .sketch < eSketch n) then
        refuseCmd s c cGeometry (eLength e)
      else if eCmode n ≠ 0 ∧ fg s F.SEAM_CONTRAIL_CTL_RESULT c.part ≠ 1 then refuseCmd s c cRefused (eLength e)
      else mirrorLedger (okCmd (dropLines s c.part c.sid) c n) c.part c.sid
    else if st = sOpen ∨ st = sParked then refuseCmd s c cInUse (eLength e)
    else refuseCmd s c cBusy (eLength e)

/-- A RESYNC of the stream in progress. -/
def resyncing (s : State) (p sid : Nat) : Bool := s.seam.jobs.any fun j => j.part == p && j.sid == sid && !j.restore

/-- CONTROL_PARK (R182, R196): pins are released; promotions queued by RESUME are dropped. -/
def execControlPark (die : Nat) (s : State) : Ans :=
  serveControl s die 0x02 fun s c e =>
    let st := eState e
    if st = sFree then refuseCmd s c cNotOpen (eLength e)
    else if st = sOpen ∨ st = sParked then
      if resyncing s c.part c.sid then s
      else
        let s := updSeam s fun (x : Seam) => { x with promo := x.promo.filter fun q => !(q.1 == c.part && q.2.1 == c.sid) }
        if st = sParked then sameCmd s c e else mirrorLedger (okCmd s c (used s (eset e 0 63 61 sParked))) c.part c.sid
    else refuseCmd s c cBusy (eLength e)

/-- CONTROL_RESUME (R182, R196): the stream is OPEN and every frame outside T1 is queued for promotion. -/
def execControlResume (die : Nat) (s : State) : Ans :=
  serveControl s die 0x03 fun s c e =>
    let st := eState e
    if st = sFree then refuseCmd s c cNotOpen (eLength e)
    else if st = sOpen ∨ st = sParked then
      let (bad, s) := mapBad s c.part e (cmdCtx s c)
      if bad then memCmd s c
      else
        let out := (liveLeaves s c.part e).filter fun (g, k, a) =>
          let f := frameState s c.part c.sid (leafNo g k) (lfState (mapRaw s c.part a).1)
          f == fT2 || f == fPeer || f == fHost
        let q := out.map fun (g, k, _) => (c.part, c.sid, leafNo g k)
        let s := updSeam s fun (x : Seam) => { x with promo := x.promo.filter (fun y => !q.contains y) ++ q }
        if st = sOpen then sameCmd s c e else mirrorLedger (okCmd s c (used s (eset e 0 63 61 sOpen))) c.part c.sid
    else refuseCmd s c cBusy (eLength e)

/-- A free status value for a command whose end the spec gives no status for. -/
def freeStatus (s : State) : Nat × State :=
  let (w, s) := drawFree s
  (w.toNat % 256, s)

/-- CONTROL_CLOSE (R182, R211): the stream is CLOSING; a restore in progress is abandoned, its mirror still to be freed, and its command ends with a status that the spec does
not state. -/
def execControlClose (die : Nat) (s : State) : Ans :=
  serveControl s die 0x04 fun s c e =>
    let st := eState e
    if st = sFree ∨ st = sClosing then sameCmd s c e
    else if resyncing s c.part c.sid then s
    else
      let s := match s.seam.jobs.find? fun j => j.part == c.part && j.sid == c.sid with
        | some j =>
          let (x, s) := freeStatus s
          refuseCmd (updSeam s fun (y : Seam) => { y with jobs := y.jobs.filter (· != j), orphans := y.orphans ++ [(c.part, c.sid)] }) j.cmd x (eLength e)
        | none => s
      okCmd s c (used s (eset e 0 63 61 sClosing))

/-- Free everything that a stream holds in the module: frames, sketch slots, map blocks and moves. -/
def freeStream (s : State) (p sid : Nat) : State :=
  let s := (s.seam.moves.filter fun m => m.part == p && m.sid == sid).foldl undoMove s
  let e := entryRaw s p sid
  let s := (liveLeaves s p e).foldl (fun s (_, _, a) =>
    let w := mapRaw s p a
    let s := match poolOf s p (lfState w.1) (lfFrame w.1) with
      | some q => freeUnit (dropFrame s p (lfFrame w.1)) p q (lfFrame w.1)
      | none => s
    if lfSketch w.2 = 0 then s else freeUnit s p .sketch (lfSketch w.2)) s
  let s := (mapTables s p e).foldl (fun s a => freeUnit s p .map a) s
  dropLines (updSeam s fun (x : Seam) => { x with promo := x.promo.filter fun q => !(q.1 == p && q.2.1 == sid) }) p sid

/-- The mirror tables of a stream, as lease offsets, and its leaves with the frames they name. -/
def mirTables (s : State) (p : Nat) (e : List Word) : List Nat × List (Nat × Nat) :=
  let root := eget e 9 43 12 * 4096
  if root = 0 then ([], [])
  else
    let r := root - leaseLa s p
    let l2 := (List.range (eGroups e)).filterMap fun g => mirTable s p (mirEntry s p (r + 16 * g))
    let l3 := l2.flatMap fun t => (List.range 256).filterMap fun i => mirTable s p (mirEntry s p (t + 16 * i))
    (r :: l2 ++ l3, l3.flatMap fun t => (List.range 256).filterMap fun i =>
      let w := (mirEntry s p (t + 16 * i)).1
      if lfState w = fPeer then some (t + 16 * i, (lfFrame w - leaseGa s p) / 65536) else none)

/-- Free a stream's mirror (R182): its frames and map blocks, and its mirror Ledger entry is FREE. A stream that has lapsed sends nothing (R205). -/
def freeMirror (s : State) (p sid : Nat) : State :=
  let e := entryRaw s p sid
  if eCmode e = 0 then s
  else
    let (ts, ls) := mirTables s p e
    let m := ls.foldl (fun (m : Mir) l => m.mark p l.2 false) { s := s, lines := [] }
    let left := (SMap.get [] s.seam.blocks p).filter fun b => !ts.contains (b * 4096)
    let m := ((ts.map (· / 65536)).eraseDups).foldl (fun (m : Mir) fr => if left.any fun b => b / 16 == fr then m else m.mark p fr false) m
    let m := { m with s := updSeam m.s fun (x : Seam) => { x with blocks := SMap.set x.blocks p left } }
    let m := m.ledger p sid (List.replicate 16 0)
    if eCstate e = 1 ∨ eCstate e = 3 then (startTrail m.s p sid 0 none false [] (m.send p)).2 else m.s

/-- The entry of a stream that has become FREE: GEN stays, and nothing is held. -/
def freedEntry (e : List Word) : List Word :=
  let e := eset (eset e 0 63 61 sFree) 0 58 56 0
  (((e.set 1 0).set 5 0).set 6 0).set 9 0

/-- Complete a CONTROL QUERY that has written the 128 bytes of a Ledger entry (R196, Table 7.14). -/
def okQuery (s : State) (c : SeamCmd) (e : List Word) : State := completeCmd s c fun tag => doneWords cOk tag 0 128 0 (eLength e)

/-- A QUERY of the host ring writes a Ledger entry to a global address with the rights of the partition (R199): in the module or the host at once; to a peer as operations that
the command waits for. -/
def hostQuery (s : State) (c : SeamCmd) (e : List Word) : State :=
  let p := c.part
  let ga := dw c.block 2
  match resolve s (.engine p) p ga true with
  | .remote id la =>
    let why := Purpose.query p c.sid
    if c.sent then
      if s.xp.ops.any fun o => o.why == why then s
      else if s.seam.qfail.contains (p, c.sid) then refuseCmd s c cRemote (eLength e)
      else okQuery s c e
    else if (sendRefusal s p id).isSome then refuseCmd s c cRemote (eLength e)
    else
      let s := updSeam s fun (x : Seam) =>
        { x with qfail := x.qfail.filter (· != (p, c.sid)), queue := x.queue.map fun d => if d = c then { c with sent := true } else d }
      (issueOps s p id la 128 true (bytesOfWords e) 2 0 why).2
  | _ =>
    let ((st, _), s) := writeGlobal s (.engine p) p ga (bytesOfWords e)
    if st = stOK then okQuery s c e else refuseCmd s c cRemote (eLength e)

/-- CONTROL_QUERY (R196, R199, R400): the Ledger entry goes to the issuing tile's store, or to a global address with the rights of the partition. -/
def execControlQuery (die : Nat) (s : State) : Ans :=
  serveControl s die 0x07 fun s c e =>
    match c.origin with
    | .task _ _ _ _ _ _ =>
      match issuer s c with
      | some (_, t, k) => okQuery (storeOut s t k ((tile s k.tile).base + db c.block 1 20 0) (bytesOfWords e)) c e
      | none => okQuery s c e
    | .host _ _ =>
      let ga := dw c.block 2
      let inT1 := decide (ga.toNat + 128 ≤ t1Size s c.part)
      if confidential s c.part && !inT1 then refuseCmd s c cRemote (eLength e) else hostQuery s c e

end Sys2Proof.Machine
end

