-- ==== Sys2Proof/Machine/SeamJobs.lean ====
section
/-! DEFINITION. The Seam Engines' longer work: RESTORE and RESYNC (R206, R210), tiering and moves (R191, R201), the contrail's acknowledgements (R204, R205), leases
(R178), the partner check (R202), the host command ring (R199) and SEAM_CTL (R212). -/

namespace Sys2Proof.Machine

/-! ### RESYNC (R206) -/

/-- The frame bytes of every written seam below LENGTH: group, seam, TOKENS, bytes. -/
def readSeams (s : State) (p : Nat) (e : List Word) (ctx : Rec → Rec) :
    List (Nat × Nat × Nat) → Except FrameRead (List (Nat × Nat × Nat × List Byte)) × State
  | [] => (.ok [], s)
  | (g, k, a) :: rest =>
    let w := (mapRaw s p a).1
    if eSeams e ≤ k ∨ lfTokens w = 0 then readSeams s p e ctx rest
    else
      match frameRead s p (lfFrame w) (pad64 (eF e)) ctx with
      | (.data bs, s) =>
        match readSeams s p e ctx rest with
        | (.ok l, s) => (.ok ((g, k, lfTokens w, bs) :: l), s)
        | r => r
      | (f, s) => (.error f, s)

/-- Whether a stream holds a LOST seam below LENGTH. -/
def anyLost (s : State) (p : Nat) (e : List Word) : Bool :=
  (liveLeaves s p e).any fun (_, k, a) => decide (k < eSeams e) && lfState (mapRaw s p a).1 == fLost

/-- The stream becomes SYNCING. -/
def startSync (s : State) (p sid : Nat) (e : List Word) : State :=
  let s := if eCstate e = 2 then fs s F.SEAM_CONTRAIL_STATUS_LAPSED (fg s F.SEAM_CONTRAIL_STATUS_LAPSED p - 1) p else s
  putEntry s p sid (used s (eset e 0 58 56 3))

/-- CONTROL_RESYNC (R182, R206): a row that cannot be read lapses the contrail (Table 10.5); once every row is read the stream is SYNCING, and its rows, leaves, map and bitmap lines and mirror Ledger entry go to the lease. -/
def execControlResync (die : Nat) (s : State) : Ans :=
  serveControl s die 0x06 fun s c e =>
    let p := c.part
    let st := eState e
    if st = sFree then refuseCmd s c cNotOpen (eLength e)
    else if st ≠ sOpen ∧ st ≠ sParked then refuseCmd s c cBusy (eLength e)
    else if eCmode e = 0 then refuseCmd s c cNoMirror (eLength e)
    else if anyLost s p e then refuseCmd s c cLost (eLength e)
    else if resyncing s p c.sid then s
    else
      let (bad, s) := mapBad s p e (cmdCtx s c)
      if bad then memCmd s c
      else match readSeams s p e (cmdCtx s c) (liveLeaves s p e) with
      | (.error .wait, s) => holdLeaves s c ((liveLeaves s p e).map fun (g, k, a) => (leafNo g k, mapRaw s p a))
      | (.error _, s) => refuseCmd (lapse (startSync s p c.sid e) p c.sid 2) c cRemote (eLength e)
      | (.ok rows, s) =>
        let s := startSync (popCmd s c) p c.sid e
        let e := entryRaw s p c.sid
        let j : SeamJob := { part := p, sid := c.sid, cmd := c, restore := false, trail := 0, lapse := 0 }
        let add := fun (s : State) (id : Nat) => updSeam s fun (x : Seam) => { x with jobs := x.jobs ++ [{ j with trail := id }] }
        let res := rows.foldl (fun (acc : Option (List (Nat × List Byte) × List Word × Mir)) (r : Nat × Nat × Nat × List Byte) => do
          let (ls, e, m) ← acc
          let (g, k, tok, bs) := r
          let (l, e, m) ← mirrorRows m p e g k 0 tok tok fun o => (bs.drop o).take 64
          some (ls ++ l, e, m)) (some ([], e, { s := s, lines := [] }))
        match res with
        | none => lapse (add s 0) p c.sid 4
        | some (ls, e, m) =>
          let m := m.ledger p c.sid e
          let s := putEntry m.s p c.sid e
          let id := s.seam.nextId
          (startTrail (add s id) p c.sid 0 none false ls (m.send p)).2

/-- RESYNC_COMPLETE (R206): every row is mirrored and acknowledged, those of APPENDs accepted meanwhile too, and the stream is ACTIVE; or it has lapsed. -/
def execResyncComplete (p sid : Nat) (ok : Bool) (s : State) : Ans :=
  finish (match s.seam.jobs.find? fun j => j.part == p && j.sid == sid && !j.restore with
    | none => s
    | some j =>
      let s := if ok = false ∧ j.lapse = 0 then lapse s p sid 2 else s
      let why := if ok = false ∧ j.lapse = 0 then 2 else j.lapse
      let off := fun (s : State) => updSeam s fun (x : Seam) => { x with jobs := x.jobs.filter fun y => !(y.part == p && y.sid == sid && !y.restore) }
      let e := entryRaw s p sid
      if why ≠ 0 then refuseCmd (off s) j.cmd (if why = jLost then cLost else cRemote) (eLength e)
      else if (trail? s j.trail).any fun t => trailBusy s t || !t.later.isEmpty then s
      else if s.seam.trails.any fun t => t.part == p && t.sid == sid && t.step != 0 && !t.acked then s
      else
        let s := updSeam (off s) fun (x : Seam) => { x with trails := x.trails.filter fun t => t.id != j.trail }
        let s := recount (putEntry s p sid (eset e 0 58 56 1)) p sid
        refuseCmd s j.cmd cOk (eLength e))

/-! ### RESTORE (R210) -/

/-- CONTROL_RESTORE (R182, R210): the stream is RESTORING. -/
def execControlRestore (die : Nat) (s : State) : Ans :=
  serveControl s die 0x05 fun s c e =>
    let st := eState e
    if st = sOpen ∨ st = sParked then refuseCmd s c cInUse (eLength e)
    else if st ≠ sFree then refuseCmd s c cBusy (eLength e)
    else
      let s := putEntry (popCmd s c) c.part c.sid (used s (eset (eset e 0 63 61 sRestoring) 0 15 0 (eGen e + 1)))
      let j : SeamJob := { part := c.part, sid := c.sid, cmd := c, restore := true, trail := 0, lapse := 0 }
      updSeam s fun (x : Seam) => { x with jobs := x.jobs ++ [j] }

/-- Read pieces of the lease, by lease offset and length. -/
def readLease (s : State) (p : Nat) (ctx : Rec → Rec) : List (Nat × Nat) → Except FrameRead (List (List Byte)) × State
  | [] => (.ok [], s)
  | (o, n) :: rest =>
    match frameRead s p (leaseGa s p + o) n ctx with
    | (.data bs, s) =>
      match readLease s p ctx rest with
      | (.ok l, s) => (.ok (bs :: l), s)
      | r => r
    | (f, s) => (.error f, s)

/-- Go on with what a read gave. -/
def readThen {α β : Type} (x : Except FrameRead α × State) (f : α → State → Except FrameRead β × State) : Except FrameRead β × State :=
  match x with
  | (.ok a, s) => f a s
  | (.error e, s) => (.error e, s)

/-- What RESTORE reads of a mirror (R203): its Ledger entry, its tables by lease offset, the bitmap, the frames of its leaves (group, seam, TOKENS, bytes). -/
structure Mirror where
  entry  : List Word
  tables : List (Nat × List Byte)
  bitmap : List Byte
  seams  : List (Nat × Nat × Nat × List Byte)

/-- The valid table that entry i of a table's bytes names, as a lease offset. -/
def tableIn (s : State) (p : Nat) (bs : List Byte) (i : Nat) : Option Nat :=
  mirTable s p (nth (wordsOf 1 (bs.drop (16 * i))) 0 0, 0)

/-- Read a stream's mirror. A mirror that is not OPEN or PARKED has no tables. -/
def readMirror (s : State) (p sid : Nat) (ctx : Rec → Rec) : Except FrameRead Mirror × State :=
  readThen (readLease s p ctx [(65536 + sid * 128, 128)]) fun l s =>
    let e := wordsOf 16 (l.headD [])
    let root := eget e 1 43 12 * 4096
    let none_ : Mirror := { entry := e, tables := [], bitmap := [], seams := [] }
    if root = 0 ∨ (eState e ≠ sOpen ∧ eState e ≠ sParked) then (.ok none_, s)
    else
      let r := root - leaseLa s p
      readThen (readLease s p ctx [(r, 4096), ((1 + mirrorM s p) * 65536, pad64 (ceilDiv (leaseFrames s p) 8))]) fun l1 s =>
        let t1 := nth l1 0 []
        let l2 := (List.range (eGroups e)).filterMap fun g => (tableIn s p t1 g).map fun t => (g, t)
        readThen (readLease s p ctx (l2.map fun x => (x.2, 4096))) fun b2 s =>
          let l3 := (l2.zip b2).flatMap fun (x, bs) => (List.range 256).filterMap fun i => (tableIn s p bs i).map fun t => (x.1, i, t)
          readThen (readLease s p ctx (l3.map fun x => (x.2.2, 4096))) fun b3 s =>
            let leaves := (l3.zip b3).flatMap fun (x, bs) => (List.range 256).filterMap fun i =>
              let w := nth (wordsOf 1 (bs.drop (16 * i))) 0 0
              if lfState w = fPeer then some (x.1, x.2.1 * 256 + i, lfTokens w, lfFrame w - leaseGa s p) else none
            readThen (readLease s p ctx (leaves.map fun x => (x.2.2.2, pad64 (eF e)))) fun fr s =>
              (.ok { entry := e, tables := (r, t1) :: ((l2.map (·.2)).zip b2 ++ (l3.map fun x => x.2.2).zip b3), bitmap := nth l1 1 [],
                     seams := (leaves.zip fr).map fun (x, bs) => (x.1, x.2.1, x.2.2.1, bs) }, s)

/-- The rows that a group's mirror holds from position 0 on without a gap. -/
def groupRows (m : Mirror) (g : Nat) : Nat :=
  let own := m.seams.filter fun x => x.1 == g
  ((List.range 65536).foldl (fun (acc : Bool × Nat) k =>
    if acc.1 then acc
    else match own.find? fun x => x.2.1 == k with
      | some x => (decide (x.2.2.1 < 16), acc.2 + min 16 x.2.2.1)
      | none => (true, acc.2)) (false, 0)).2

/-- P of R210: the largest position such that every group's mirror holds every row below it. -/
def mirrorLen (m : Mirror) : Nat :=
  match List.range (eGroups m.entry) with
  | [] => 0
  | g :: gs => gs.foldl (fun a g => min a (groupRows m g)) (groupRows m g)

/-- The entry of a restored stream before its frames are counted (R210): geometry and modes of the mirror, and word 1 of the block for the state. -/
def restoredEntry (e : List Word) (m : Mirror) (park : Bool) (len : Nat) : List Word :=
  let w0 := setBits (setBits (setBits (dw m.entry 0) 63 61 (if park then sParked else sOpen)) 58 56 1) 15 0 (eGen e)
  let n := (List.replicate 16 (0 : Word)).set 0 w0
  let n := (((n.set 7 (dw e 7)).set 8 (dw e 8)).set 9 (BitVec.ofNat 64 (eget m.entry 1 43 12 * 4096))).set 10 (dw m.entry 10)
  allDone (eset (eset n 2 52 32 len) 2 20 0 len)

/-- Restore one seam: a frame of the target pool with the mirror's bytes, a sketch slot with the sketch rebuilt, and its leaf. -/
def restoreSeam (s : State) (p : Nat) (e : List Word) (t2 : Bool) (len : Nat) (x : Nat × Nat × Nat × List Byte) : Option (List Word × State) := do
  let (g, k, _, bs) := x
  let tok := min 16 (len - 16 * k)
  let (a, e, s) ← ensureLeaf s p e g k
  let (fr, s) ← allocUnit s p (if t2 then .t2 else .t1)
  let (sk, s) ← allocUnit s p .sketch
  let s := lwrite s p fr (bs.take (eF e))
  let s := writeSketch s p e sk fr 0 tok false
  let st := if t2 then fT2 else fT1
  let w0 := BitVec.ofNat 64 (fr + st * 2 ^ 13 + tok * 256)
  let w1 := BitVec.ofNat 64 (sk / 64 * 2 ^ 30 + (rd s .tgeTickNow).toNat % 2 ^ 24 * 64)
  some (countFrame e st 1, putMap s p a (w0, w1))

/-- CHILDREN of an image entry minus one; an entry whose table becomes empty is cleared, and its block freed (R187). -/
def Mir.unchild (m : Mir) (p off : Nat) : Bool × Mir :=
  let w := mirEntry m.s p off
  if getBits w.2 8 0 ≤ 1 then
    let b := ((mirTable m.s p w).getD 0) / 4096
    let left := (SMap.get [] m.s.seam.blocks p).filter (· != b)
    let m := { m with s := updSeam m.s fun (x : Seam) => { x with blocks := SMap.set x.blocks p left } }
    let m := if left.any fun y => y / 16 == b / 16 then m else m.mark p (b / 16) false
    (true, m.put p off (List.replicate 16 0))
  else (false, m.put p off (bytesOfWords [w.1, setBits w.2 8 0 (getBits w.2 8 0 - 1)]))

/-- Trim a mirror leaf to the restored length (R210): fewer TOKENS, or an EMPTY leaf whose frame is freed. -/
def trimLeaf (m : Mir) (p : Nat) (e : List Word) (len : Nat) (x : Nat × Nat × Nat × List Byte) : Mir :=
  let (g, k, tok, _) := x
  let root := eget e 9 43 12 * 4096 - leaseLa m.s p
  let a1 := root + 16 * g
  let a2 := ((mirTable m.s p (mirEntry m.s p a1)).getD 0) + 16 * (k / 256)
  let a3 := ((mirTable m.s p (mirEntry m.s p a2)).getD 0) + 16 * (k % 256)
  let w := mirEntry m.s p a3
  if 16 * k + tok ≤ len then m
  else if 16 * k < len then m.put p a3 (bytesOfWords [setBits w.1 12 8 (len - 16 * k), w.2])
  else
    let m := (m.mark p ((lfFrame w.1 - leaseGa m.s p) / 65536) false).put p a3 (List.replicate 16 0)
    let (gone, m) := m.unchild p a2
    if gone then (m.unchild p a1).2 else m

/-- The holder's image takes the tables, bitmap and Ledger entry of a mirror that has been read. -/
def loadImage (s : State) (p sid : Nat) (m : Mirror) : State :=
  let s := m.tables.foldl (fun s t => mirPut s p t.1 t.2) (mirPut s p ((1 + mirrorM s p) * 65536) m.bitmap)
  let s := mirPut s p (65536 + sid * 128) (bytesOfWords m.entry)
  let blocks := m.tables.map fun t => t.1 / 4096
  updSeam s fun (x : Seam) => { x with blocks := SMap.set x.blocks p ((SMap.get [] x.blocks p).filter (fun b => !blocks.contains b) ++ blocks) }

/-- Restore a stream from its mirror (R210): the entry and the state with the holder's image loaded, or none when a pool is exhausted. The mirror is not trimmed yet. -/
def restoreInto (s : State) (p sid : Nat) (e : List Word) (m : Mirror) (park t2 : Bool) : Option (List Word × State) :=
  let len := mirrorLen m
  let e0 := restoredEntry e m park len
  let keep := m.seams.filter fun x => decide (16 * x.2.1 < len)
  let res := keep.foldl (fun (acc : Option (List Word × State)) x => do
    let (e, s) ← acc
    restoreSeam s p e t2 len x) (some (e0, s))
  res.map fun (e1, s) => (e1, loadImage s p sid m)

/-- The leaves of a stream's mirror in the holder's image: group, seam, TOKENS. -/
def imageLeaves (s : State) (p : Nat) (e : List Word) : List (Nat × Nat × Nat × List Byte) :=
  let root := eget e 9 43 12 * 4096
  if root = 0 then []
  else
    let r := root - leaseLa s p
    (List.range (eGroups e)).flatMap fun g =>
      match mirTable s p (mirEntry s p (r + 16 * g)) with
      | none => []
      | some t => (List.range 256).flatMap fun i =>
        match mirTable s p (mirEntry s p (t + 16 * i)) with
        | none => []
        | some u => (List.range 256).filterMap fun j =>
          let w := (mirEntry s p (u + 16 * j)).1
          if lfState w = fPeer then some (g, i * 256 + j, lfTokens w, []) else none

/-- Trim a restored stream's mirror to its length (R210), and put its Ledger entry in force. -/
def trimMirror (s : State) (p sid : Nat) (e : List Word) : State :=
  let mir := (imageLeaves s p e).foldl (fun mr x => trimLeaf mr p e (eLength e) x) ({ s := s, lines := [] } : Mir)
  let mir := mir.ledger p sid e
  (startTrail (putEntry (dropLines mir.s p sid) p sid e) p sid 0 none false [] (mir.send p)).2

/-- A stream that was closed during RESTORE takes the mirror that the lease holds as its own, so that it is freed (R182). False while data of a peer is on its way; a mirror that
cannot be read stays where it is. -/
def adoptMirror (s : State) (p sid : Nat) : Bool × State :=
  if s.seam.orphans.contains (p, sid) = false then (true, s)
  else
    let off := fun (s : State) => (true, updSeam s fun (x : Seam) => { x with orphans := x.orphans.filter (· != (p, sid)) })
    if leaseFrames s p = 0 then off s
    else match readMirror s p sid fun r => r.ofPart s p with
      | (.error .wait, s) => (false, s)
      | (.error _, s) => off s
      | (.ok m, s) =>
        if m.tables.isEmpty then off s
        else
          let e := restoredEntry (entryRaw s p sid) m false 0
          off (putEntry (loadImage s p sid m) p sid (eset e 0 63 61 sClosing))

/-- STREAM_FREE_COMPLETE (R182): what a CLOSING stream holds is freed, once its appends are acknowledged or abandoned. -/
def execStreamFreeComplete (p sid : Nat) (s : State) : Ans :=
  let e := entryRaw s p sid
  finish (if fb s F.SEAM_CTL_EN p = false ∨ streamCount s p ≤ sid ∨ eState e ≠ sClosing then s
    else if s.seam.trails.any fun t => t.part == p && t.sid == sid && t.step != 0 && !t.acked then s
    else
      match adoptMirror s p sid with
      | (false, s) => s
      | (true, s) =>
        let s := freeStream (freeMirror s p sid) p sid
        let s := updSeam s fun (x : Seam) => { x with trails := x.trails.filter fun t => !(t.part == p && t.sid == sid) || t.step == 0 }
        let s := if eCstate e = 2 then fs s F.SEAM_CONTRAIL_STATUS_LAPSED (fg s F.SEAM_CONTRAIL_STATUS_LAPSED p - 1) p else s
        putEntry s p sid (freedEntry (entryRaw s p sid)))

/-- A RESTORE that fails leaves its stream FREE (R182). -/
def failRestore (s : State) (j : SeamJob) : State :=
  updSeam (putEntry s j.part j.sid (freedEntry (entryRaw s j.part j.sid))) fun (x : Seam) => { x with jobs := x.jobs.filter (· != j) }

/-- RESTORE_COMPLETE (R210): the stream is OPEN or PARKED at position P with its contrail ACTIVE, or FREE when the RESTORE fails. `ok` is false when its path reports an
error. Nothing happens while data of a peer is on its way. -/
def execRestoreComplete (p sid : Nat) (ok : Bool) (s : State) : Ans :=
  finish (match s.seam.jobs.find? fun j => j.part == p && j.sid == sid && j.restore with
    | none => s
    | some j =>
      let e := entryRaw s p sid
      if !ok then remoteCmd (failRestore s j) j.cmd
      else if leaseFrames s p = 0 then refuseCmd (failRestore s j) j.cmd cNoMirror 0
      else
        match readMirror s p sid (cmdCtx s j.cmd) with
        | (.error .wait, s) => s
        | (.error .bad, s) => memCmd (failRestore s j) j.cmd
        | (.error _, s) => remoteCmd (failRestore s j) j.cmd
        | (.ok m, s) =>
          if eState m.entry ≠ sOpen ∧ eState m.entry ≠ sParked then refuseCmd (failRestore s j) j.cmd cNoMirror 0
          else
            let b := dw j.cmd.block 1
            match restoreInto s p sid e m (bitOf b 2) (getBits b 1 0 == 1) with
            | none => refuseCmd (failRestore s j) j.cmd cPoolEmpty 0
            | some (e1, s) =>
              let s := updSeam s fun (x : Seam) => { x with jobs := x.jobs.filter (· != j) }
              refuseCmd (trimMirror s p sid e1) j.cmd cOk (mirrorLen m))

/-! ### Tiering and moves (R191, R200, R201) -/

/-- Whether a seam is pinned (R190): it holds a position of an OPEN stream from STEP_START on, written or still to be written by a group, or a command in progress has its leaf. -/
def pinned (s : State) (p sid : Nat) (e : List Word) (g k : Nat) : Bool :=
  (eState e == sOpen && decide (max (eget e 2 52 32) (16 * k) < min (eLength e) (16 * k + 16))) ||
  s.seam.jobs.any (fun j => j.part == p && j.sid == sid) || leafHeld s p sid (leafNo g k)

/-- The overflow pool in force (R201, R400), with the leaf state of its frames. -/
def overflowPool (s : State) (p : Nat) : Option (Pool × Nat) :=
  let x := fg s F.SEAM_TIER_CTL2_OVERFLOW p
  if x = 1 then (if confidential s p then none else some (.host, fHost))
  else if 4 ≤ x then (if fb s F.SEAM_REMOTE_CFG_KIND p (x - 4) then none else some (.remote (x - 4), fPeer))
  else none

/-- The move that Table 7.16 starts for a leaf: target pool and state. -/
def tierAction (s : State) (p sid : Nat) (e : List Word) (g k a : Nat) : Option (Pool × Nat) :=
  let w := mapRaw s p a
  let st := lfState w.1
  let heat := effHeat s p (leafHeat s (lineTag p sid e g k) k w)
  let queued := s.seam.promo.contains (p, sid, leafNo g k)
  let es := eState e
  if pinned s p sid e g k then none
  else if st = fT1 then
    (if (es = sOpen ∨ es = sParked) ∧ heat < fg s F.SEAM_TIER_CTL_DEMOTE_T1 p ∧ freePercent s p .t1 < fg s F.SEAM_TIER_CTL_T1_LOW p
     then some (.t2, fT2) else none)
  else if st = fT2 then
    if (es = sOpen ∨ queued = true) ∧ (fg s F.SEAM_TIER_CTL_PROMOTE p ≤ heat ∨ queued = true) ∧ fg s F.SEAM_TIER_CTL_T1_LOW p ≤ freePercent s p .t1 then
      some (.t1, fT1)
    else if es = sParked ∧ heat < fg s F.SEAM_TIER_CTL_DEMOTE_T2 p ∧ freePercent s p .t2 < fg s F.SEAM_TIER_CTL_T2_LOW p then overflowPool s p
    else none
  else if st = fPeer ∨ st = fHost then
    (if (es = sOpen ∨ queued = true) ∧ fg s F.SEAM_TIER_CTL_T2_LOW p ≤ freePercent s p .t2 then some (.t2, fT2) else none)
  else none

/-- Start a move (R191): the target frame is allocated and the leaf is MOVING; none when the pool is exhausted or the partition's move traffic of the Tick is spent. -/
def startMove (s : State) (p sid : Nat) (e : List Word) (g k a : Nat) (q : Pool) (dst : Nat) : State :=
  let spent := SMap.get 0 s.seam.moved p
  if fg s F.SEAM_TIER_CTL2_MOVE_MB_S p * period s < spent + eF e then s
  else
    match allocUnit s p q with
    | none => s
    | some (fr, s) =>
      let w := mapRaw s p a
      let m : Move := { part := p, sid := sid, leaf := leafNo g k, src := lfState w.1, dst := dst, frame := fr, sent := false, bad := false }
      let s := updSeam s fun (x : Seam) => { x with moves := x.moves ++ [m], moved := SMap.set x.moved p (spent + eF e) }
      putMap s p a (setBits w.1 15 13 fMoving, w.2)

/-- The leaf entries that a die's scanner covers, in order of partition, stream and seam: partition, stream, group, seam, address. -/
def scanList (s : State) (die : Nat) : List (Nat × Nat × Nat × Nat × Nat) :=
  (List.range 8).flatMap fun p =>
    if fb s F.SEAM_CTL_EN p && fb s F.SEAM_TIER_CTL2_EN p && !partFenced s p then
      ((liveStreams s p).filter fun sid => sid % 4 == die).flatMap fun sid =>
        (liveLeaves s p (entryRaw s p sid)).map fun (g, k, a) => (p, sid, g, k, a)
    else []

/-- TIERING_SCAN (R201): once in a Tick, up to 65,536 leaf entries from where the last scan of the die ended, going round. -/
def execTieringScan (die : Nat) (s : State) : Ans :=
  let now := (rd s .tgeTickNow).toNat
  finish (if SMap.find s.seam.scanned die = some now then s
    else
      let (k0, l0) := SMap.get (0, 0) s.seam.scanAt die
      let before := fun (x : Nat × Nat × Nat × Nat × Nat) =>
        let k := streamKey x.1 x.2.1
        decide (k < k0) || (k == k0 && decide (leafNo x.2.2.1 x.2.2.2.1 < l0))
      let l := scanList s die
      let l := (l.filter fun x => !before x) ++ l.filter before
      let todo := l.take 65536
      let fresh := !(s.seam.scanned.any fun x => x.2 == now)
      let s := updSeam s fun (x : Seam) => { x with scanned := SMap.set x.scanned die now, moved := if fresh then [] else x.moved,
                                                    scanAt := match l.drop 65536 with
                                                      | [] => SMap.erase x.scanAt die
                                                      | y :: _ => SMap.set x.scanAt die (streamKey y.1 y.2.1, leafNo y.2.2.1 y.2.2.2.1) }
      todo.foldl (fun s (p, sid, g, k, a) =>
        let e := entryRaw s p sid
        match tierAction s p sid e g k a with
        | some (q, dst) => startMove s p sid e g k a q dst
        | none => s) s)

/-- The leaf of a move that has succeeded names the target, and the source frame is freed once no FETCH has the old entry in hand (R191). The line of the TLB follows. -/
def endMove (s : State) (m : Move) (a : Nat) : State :=
  let p := m.part
  let w := mapRaw s p a
  let old := lfFrame w.1
  let s := dropMove s m
  let s := putMap s p a (setBits (setBits w.1 15 13 m.dst) 63 16 (m.frame / 65536), w.2)
  let s := freeSource s p m.sid m.leaf m.src old
  let s := putEntry s p m.sid (countFrame (countFrame (entryRaw s p m.sid) m.src (-1)) m.dst 1)
  updSeam s fun (x : Seam) => { x with promo := if m.dst = fT1 then x.promo.filter (· != (p, m.sid, m.leaf)) else x.promo }

/-- FRAME_MOVE_COMPLETE (R191): the copy is made and FRAME and STATE are rewritten, or the move fails and the seam stays in its source state. -/
def execFrameMoveComplete (p sid leaf : Nat) (ok : Bool) (s : State) : Ans :=
  finish (match move? s p sid leaf with
    | none => s
    | some m =>
      let e := entryRaw s p sid
      match leafAddr s p e (leaf / 65536) (leaf % 65536) with
      | none => undoMove s m
      | some a =>
        if !ok || m.bad then undoMove s m
        else if m.sent then (if s.xp.ops.any fun o => o.why == .frame p sid leaf then s else endMove s m a)
        else
          match frameRead s p (lfFrame (mapRaw s p a).1) (eF e) id with
          | (.wait, s) => s
          | (.data bs, s) =>
            if getBits (BitVec.ofNat 64 m.frame) 63 62 = 0 then endMove (lwrite s p m.frame bs) m a
            else
              match resolve s (.seam ((devId s p).getD 0)) p (BitVec.ofNat 64 m.frame) true with
              | .remote id la =>
                if (sendRefusal s p id).isSome then undoMove s m
                else
                  let s := (issueOps s p id la bs.length true bs 1 0 (.frame p sid leaf)).2
                  updSeam s fun (x : Seam) => { x with moves := x.moves.map fun y => if y = m then { y with sent := true } else y }
              | _ =>
                match writeGlobal s (.seam ((devId s p).getD 0)) p (BitVec.ofNat 64 m.frame) bs with
                | ((st, _), s) => if st = stOK then endMove s m a else undoMove s m
          | (_, s) => undoMove s m)

/-! ### Acknowledgements (R204, R205) -/

/-- CONTRAIL_ACK (R204): every write of an append has completed; `ok` is false when its path reports an error. -/
def execContrailAck (p id : Nat) (ok : Bool) (s : State) : Ans :=
  finish (match trail? s id with
    | none => s
    | some t =>
      if t.part ≠ p ∨ t.acked = true then s
      else if !ok then lapse s p t.sid 2
      else
        let s := trailNext s id
        match trail? s id with
        | none => s
        | some t => if trailBusy s t || !t.later.isEmpty then s else ackTrail s t)

/-- CONTRAIL_TIMEOUT (R205, R211): TIMEOUT_US has passed and the append is still unacknowledged. -/
def execContrailTimeout (p id : Nat) (s : State) : Ans :=
  finish (match trail? s id with
    | none => s
    | some t =>
      if t.part ≠ p ∨ t.acked = true ∨ t.step = 0 then s
      else
        let s := advanceToNs s (t.born + max 1 (fg s F.SEAM_CONTRAIL_CTL_TIMEOUT_US p) * 1000)
        if !trailBusy s t && t.later.isEmpty then ackTrail s t else lapse s p t.sid 1)

/-! ### Leases and the partner check (R178, R202) -/

/-- SEAM_LEASE_CFG_WRITE (R178, R212): a lease is granted, its header to be written, or ends. -/
def execSeamLeaseCfgWrite (f : Func) (p i : Nat) (v : Word) (s : State) : Ans :=
  finish (if !isPriv s f || decide (4 ≤ i) then s
    else
      let s := writeReg s .seamLeaseCfg v (-1) p i
      let on := fb s F.SEAM_LEASE_CFG_EN p i
      updSeam s fun (x : Seam) => { x with headers := x.headers.filter (· != (p, i)) ++ (if on then [(p, i)] else []) })

/-- LEASE_HEADER_WRITE (R178, Table 7.2). -/
def execLeaseHeaderWrite (p i : Nat) (s : State) : Ans :=
  finish (if !s.seam.headers.contains (p, i) then s
    else
      let w0 := fg s F.SEAM_LEASE_CFG_KIND p i * 2 ^ 62 + (devId s p).getD 0 * 2 ^ 44 + fg s F.SEAM_LEASE_CFG_HOLDER p i * 2 ^ 26 + partEpoch s p
      let ws : List Word := [BitVec.ofNat 64 w0, rd s .seamDomain, BitVec.ofNat 64 (fg s F.SEAM_LEASE_CFG_FRAMES p i), 0, 0, 0, 0, 0]
      let s := updSeam s fun (x : Seam) => { x with headers := x.headers.filter (· != (p, i)) }
      lwrite s p (fg s F.SEAM_LEASE_BASE_BASE p i * 65536) (bytesOfWords ws))

/-- SEAM_CONTRAIL_CTL_WRITE (R202): MODE 0b11 leaves MODE as it is; a partner check starts. -/
def execSeamContrailCtlWrite (f : Func) (p : Nat) (v : Word) (s : State) : Ans :=
  finish (if !mayAct s f p then s
    else
      let v := if fieldOf F.SEAM_CONTRAIL_CTL_MODE v = 3 then setBits v 62 61 (fg s F.SEAM_CONTRAIL_CTL_MODE p) else v
      startCheck (writeReg s .seamContrailCtl v (-1) p) p)

/-- SEAM_REMOTE_CFG_WRITE (R202, R377): a pool that had ended is usable again; for the contrail pool a partner check starts. -/
def execSeamRemoteCfgWrite (f : Func) (p i : Nat) (v : Word) (s : State) : Ans :=
  finish (if !mayAct s f p || decide (4 ≤ i) then s
    else
      let s := writeReg s .seamRemoteCfg v (-1) p i
      let s := updSeam s fun (x : Seam) =>
        { x with ended := x.ended.filter (· != p * 4 + i), epochs := SMap.erase x.epochs (p * 4 + i) }
      if trailPool s p = i then startCheck s p else s)

/-- RESULT for a lease header (Table 7.17, after the row for a pool that is not enabled). -/
def partnerResult (s : State) (p : Nat) (h : Option (List Word)) : Nat :=
  match h with
  | none => 2
  | some ws =>
    if db ws 0 63 62 ≠ 1 then 3
    else if some (db ws 0 43 26) ≠ devId s p then 4
    else if db ws 2 31 0 < 1 + mirrorM s p + ceilDiv (db ws 2 31 0) 524288 + 16 then 7
    else
      let d := rd s .seamDomain
      let same := (List.range 4).any fun i => decide (db ws 1 (16 * i + 15) (16 * i) ≠ 0) && db ws 1 (16 * i + 15) (16 * i) == getBits d (16 * i + 15) (16 * i)
      if !fb s F.SEAM_CONTRAIL_CTL_OVERRIDE p && same then 5 else 1

/-- PARTNER_CHECK_COMPLETE (R202): RESULT is set. The header is what the lease holds, or for a peer's lease whose read has not come back what the command reports. An
accepted lease's bitmap is the start of the holder's image. -/
def execPartnerCheckComplete (p : Nat) (hdr : LeaseHdr) (s : State) : Ans :=
  finish (if !s.seam.checks.contains p then s
    else
      let s := updSeam s fun (x : Seam) => { x with checks := x.checks.filter (· != p) }
      if !remoteOn s p (trailPool s p) then setResult s p 6
      else
        let (h, s) := match frameRead s p (leaseGa s p) 64 id with
          | (.data bs, s) => (some (wordsOf 8 bs), dropFrame s p (leaseGa s p))
          | (.wait, s) => (if hdr.ok then some hdr.words else none, s)
          | (_, s) => (none, s)
        let r := partnerResult s p h
        let s := setResult s p r
        if r ≠ 1 then s
        else
          let s := updSeam s fun (x : Seam) => { x with epochs := SMap.set x.epochs (p * 4 + trailPool s p) (db (h.getD []) 0 7 0) }
          let off := (1 + mirrorM s p) * 65536
          if s.seam.mirror.any fun (k, _) => inRange k (p * 2 ^ 44) (2 ^ 44) then s
          else
            match frameRead s p (leaseGa s p + off) (pad64 (ceilDiv (leaseFrames s p) 8)) id with
            | (.data bs, s) => mirPut s p off bs
            | (_, s) => s)

/-! ### SEAM_CTL and the host command ring (R199, R212) -/

/-- Whether two ranges share an address; an empty range shares none. -/
def rangesMeet (a b : Nat × Nat) : Bool := decide (max a.1 b.1 < min (a.1 + a.2) (b.1 + b.2))

/-- Whether some two ranges of a list overlap. -/
def anyOverlap : List (Nat × Nat) → Bool
  | [] => false
  | r :: rs => rs.any (rangesMeet r) || anyOverlap rs

/-- Remote pool i of partition p that is in use breaks Table 7.1: its base is no address of a peer, it runs past the address space of the partition it names, or a residence pool is
too small to hold its bitmap. -/
def remoteBad (s : State) (p i : Nat) : Bool :=
  let b := rd s .seamRemoteBase p i
  let n := fg s F.SEAM_REMOTE_CFG_FRAMES p i
  fb s F.SEAM_REMOTE_CFG_EN p i &&
    (decide (getBits b 63 62 ≠ 1) || decide (2 ^ 44 < b.toNat % 2 ^ 44 + n * 65536) ||
     (!fb s F.SEAM_REMOTE_CFG_KIND p i && decide (n < poolReserved n 65536)))

/-- The checks that refuse a write of 1 to EN (R212, Table 7.1). -/
def poolsBad (s : State) (p : Nat) : Bool :=
  let rs := poolRanges s p
  let ledger := (ledgerBase s p, (sectionsOf s p).length * 2 ^ 24)
  let t2 := nth rs 1 (0, 0)
  let inT1 := fun (r : Nat × Nat) => r.2 == 0 || decide (r.1 + r.2 ≤ t1Size s p)
  let below := fun (r : Nat × Nat) => r.2 == 0 || decide (r.1 + r.2 ≤ ledgerBase s p)
  let slot := fg s F.SEAM_POOL_SKETCH_SLOT p
  let host := (rd s .seamHostBase p).toNat
  let far := (List.range 4).filterMap fun i =>
    if fb s F.SEAM_REMOTE_CFG_EN p i then some ((rd s .seamRemoteBase p i).toNat, fg s F.SEAM_REMOTE_CFG_FRAMES p i * 65536) else none
  anyOverlap (ledger :: rs) || anyOverlap far || (List.range 4).any (remoteBad s p) || !below (nth rs 0 (0, 0)) || !inT1 (nth rs 2 (0, 0)) || !inT1 (nth rs 3 (0, 0)) ||
  !(t2.2 == 0 || (decide (t2Base ≤ t2.1) && decide (t2.1 + t2.2 ≤ t2Base + t2Size s p))) ||
  decide (5 ≤ slot) || decide ((nth rs 3 (0, 0)).1 % (512 * 2 ^ slot) ≠ 0) ||
  (decide (fg s F.SEAM_HOST_FRAMES_FRAMES p ≠ 0) && (decide (host / 2 ^ 62 ≠ 2) || decide (3 * 2 ^ 62 < host + fg s F.SEAM_HOST_FRAMES_FRAMES p * 65536))) ||
  [Pool.t1, .t2, .map, .sketch, .host].any fun q => decide (poolUnits s p q < poolReserved (poolUnits s p q) (poolUnit s p q))

/-- SEAM_CTL_WRITE (R212). -/
def execSeamCtlWrite (f : Func) (p : Nat) (v : Word) (s : State) : Ans :=
  finish (if !mayAct s f p then s
    else
      let on := fieldOf F.SEAM_CTL_EN v
      let was := fg s F.SEAM_CTL_EN p
      let s := writeReg s .seamCtl (setBits v 63 63 was) (-1) p
      if on = was then s
      else if on = 0 then (if (liveStreams s p).isEmpty then fs s F.SEAM_CTL_EN 0 p else s)
      else if poolsBad s p then fs s F.SEAM_CTL_CFG_ERR 1 p
      else fs s F.SEAM_CTL_EN 1 p)

/-- Entries of the host command ring. -/
def hqSize (s : State) (p : Nat) : Nat := 2 ^ fg s F.SEAM_HQ_CTL_SIZE_LOG2 p

/-- SEAM_HQ_TAIL_WRITE (R199, Table 7.22). -/
def execSeamHqTailWrite (f : Func) (p : Nat) (v : Word) (s : State) : Ans :=
  finish (if !mayAct s f p || decide (hqSize s p ≤ fieldOf F.SEAM_HQ_TAIL_TAIL v) then s else fs s F.SEAM_HQ_TAIL_TAIL (fieldOf F.SEAM_HQ_TAIL_TAIL v) p)

/-- SEAM_HQ_CTL_WRITE (Table 7.22, R400): EN stays 0 for a size out of range, and for a confidential partition whose ring lies outside its Tier 1. -/
def execSeamHqCtlWrite (f : Func) (p : Nat) (v : Word) (s : State) : Ans :=
  finish (if !mayAct s f p then s
    else
      let z := fieldOf F.SEAM_HQ_CTL_SIZE_LOG2 v
      let base := fg s F.SEAM_HQ_BASE_BASE p * 128
      let bad := decide (z < 4) || decide (16 < z) || (confidential s p && !decide (base + 128 * 2 ^ z ≤ t1Size s p))
      writeReg s .seamHqCtl (if bad then setBits v 31 31 0 else v) (-1) p)

/-- The ring stops on a refused or failed fetch (R199). -/
def hqStop (s : State) (p : Nat) : State := fs (fs s F.SEAM_HQ_CTL_EN 0 p) F.SEAM_CTL_HQ_FETCH_ERR 1 p

/-- SEAM_HQ_ENTRY_FETCH (R199, R463): the entry at the head is fetched and its command started; a block that breaks its format completes with a status that the spec does not state. -/
def execSeamHqEntryFetch (p : Nat) (s : State) : Ans :=
  let head := fg s F.SEAM_HQ_HEAD_HEAD p
  finish (if !fb s F.SEAM_HQ_CTL_EN p || partFenced s p || !awake s || head == fg s F.SEAM_HQ_TAIL_TAIL p then s
    else
      match engineRead s p (hqEntry s p head) 64 with
      | (.wait, s) => s
      | (.refused _ _, s) => hqStop s p
      | (.data bs, s) =>
        let s := fs s F.SEAM_HQ_HEAD_HEAD ((head + 1) % hqSize s p) p
        let c : SeamCmd := { part := p, kind := 2, block := wordsOf 8 bs, origin := .host head false, assay := none, leaves := [], sent := false }
        if !fb s F.SEAM_CTL_EN p then refuseCmd s c cNotEnabled 0
        else if controlHostFormat c.block then updSeam s fun (x : Seam) => { x with queue := x.queue ++ [c] }
        else
          let (st, s) := freeStatus s
          refuseCmd s c st 0)

end Sys2Proof.Machine
end

