-- ==== Sys2Proof/Machine/Assay.lean ====
section
/-! DEFINITION. The Assay units (chapter 8): the score bound, selection, the report and its counters. -/

namespace Sys2Proof.Machine

/-! ### The score bound (R216) -/

/-- FP32 +∞. -/
def posInf : BitVec 32 := 0x7F800000
/-- FP32 -∞. -/
def negInf : BitVec 32 := 0xFF800000

/-- Round to FP32 in a direction: 2 down, 3 up. -/
def dirRound (rm : Nat) (x : Num) : BitVec 32 := (toF32 rm false x).1

/-- The larger of two FP32 values that are not NaN. -/
def f32Max (a b : BitVec 32) : BitVec 32 := if Num.lt true (f32 a) (f32 b) then b else a
/-- The smaller. -/
def f32Min (a b : BitVec 32) : BitVec 32 := if Num.lt true (f32 b) (f32 a) then b else a

/-- A number that is not finite. -/
def Num.nonfinite : Num → Bool
  | .fin _ _ _ => false
  | _ => true

/-- The terms of one element: tu and tl. -/
def boundTerm (q : Num) (lo hi : Nat) : BitVec 32 × BitVec 32 :=
  if lo = 0x7F ∨ hi = 0x7F ∨ q.nonfinite = true then (posInf, negInf)
  else
    let a := (Num.mul q (e4m3.decode lo)).1
    let b := (Num.mul q (e4m3.decode hi)).1
    (f32Max (dirRound 3 a) (dirRound 3 b), f32Min (dirRound 2 a) (dirRound 2 b))

/-- A sum in element order, every step rounded in a direction. -/
def dirSum (rm : Nat) : List (BitVec 32) → BitVec 32
  | [] => 0
  | x :: xs => xs.foldl (fun a y => dirRound rm (Num.add rm (f32 a) (f32 y)).1) x

/-- U and L of a query vector and one sketch. -/
def scoreBound (scale : BitVec 32) (q : List Num) (lo hi : List Nat) : BitVec 32 × BitVec 32 :=
  let ts := q.zipIdx.map fun (x, i) => boundTerm x (nth lo i 0) (nth hi i 0)
  (dirRound 3 (Num.mul (f32 scale) (f32 (dirSum 3 (ts.map (·.1))))).1,
   dirRound 2 (Num.mul (f32 scale) (f32 (dirSum 2 (ts.map (·.2))))).1)

/-! ### Selection (R221 to R223) -/

/-- What the unit has read of a candidate: seam, TOKENS, and for each key/value head of the QUERY the bounds of its query heads and whether the sketch is unbounded. -/
structure Cand where
  k      : Nat
  tokens : Nat
  heads  : List (List (BitVec 32 × BitVec 32) × Bool)

/-- The selection score of head m (R217): the largest U. -/
def Cand.score (c : Cand) (m : Nat) : BitVec 32 := ((nth c.heads m ([], false)).1.map (·.1)).foldl f32Max negInf

/-- The seams of a list of head m before truncation (R222), by mode: 0 EXACT, 1 TOPN, 2 MARGIN. -/
def selectHead (mode n : Nat) (ref : Bool) (margin : BitVec 32) (forced : List Nat) (cs : List Cand) (m : Nat) : List Nat :=
  let free := cs.filter fun c => !forced.contains c.k
  let picked :=
    if mode = 0 then free
    else if mode = 1 then
      (sortBy (fun (a b : Cand) => Num.lt false (f32 (b.score m)) (f32 (a.score m)) || (Num.eqv (f32 (b.score m)) (f32 (a.score m)) && decide (a.k < b.k))) free).take n
    else
      let r := if ref then (cs.map fun c => c.score m).foldl f32Max negInf
        else (cs.flatMap fun c => (nth c.heads m ([], false)).1.map (·.2)).foldl f32Max negInf
      let t := (Num.add 0 (f32 r) (f32 margin).neg).1
      free.filter fun c => !Num.lt false (f32 (c.score m)) t
  (cs.filter fun c => forced.contains c.k || picked.any fun x => x.k == c.k).map Cand.k

/-- Truncation (R223): the seams kept of a list, given the score of a seam. -/
def truncateList (cap : Nat) (exact : Bool) (low high : List Nat) (score : Nat → BitVec 32) (l : List Nat) : List Nat :=
  let free := l.filter fun k => !low.contains k && !high.contains k
  let o1 := sortBy (fun a b =>
    if exact then decide (b < a)
    else Num.lt false (f32 (score a)) (f32 (score b)) || (Num.eqv (f32 (score a)) (f32 (score b)) && decide (b < a))) free
  let o2 := (l.filter low.contains).reverse
  let o3 := l.filter fun k => high.contains k && !low.contains k
  let gone := (o1 ++ o2 ++ o3).take (l.length - cap)
  l.filter fun k => !gone.contains k

/-! ### The report (R224, R227, R228) -/

/-- log2 of TOK_EXCL from the special function, rounded up to a multiple of 2^-8. -/
def logTokens (n : Nat) : Num :=
  let x := (sfuLog2 (toF32 0 false (.fin false n 0)).1).1
  match f32 x with
  | .fin neg m e => let (u, _) := roundAt neg m e (-8) 3 0; .fin neg u (-8)
  | y => y

/-- The bucket of a record (Table 8.7). -/
def bucket (rsel bx : BitVec 32) (excl : Nat) : Nat :=
  if excl = 0 then 0
  else if (f32 rsel).nonfinite || (f32 bx).nonfinite then 7
  else
    let t := (Num.add 0 (Num.add 0 (f32 bx) (f32 rsel).neg).1 (logTokens excl)).1
    let below := fun (n : Nat) => Num.lt false t (.fin true n 0)
    if below 20 then 1 else if below 16 then 2 else if below 12 then 3 else if below 4 then 4 else if below 0 then 5 else 6

/-- The record of a query head (Table 8.4): words, bucket, and NONFINITE. -/
def headRecord (exact : Bool) (cs : List Cand) (list : List Nat) (m i : Nat) (nonfin : Bool) : List Word × Nat :=
  let out := cs.filter fun c => !list.contains c.k
  let val := fun (c : Cand) => nth (nth c.heads m ([], false)).1 i (negInf, negInf)
  let rsel := if exact then negInf else ((cs.filter fun c => list.contains c.k).map fun c => (val c).2).foldl f32Max negInf
  let bx := if exact then (if out.isEmpty then negInf else posInf) else (out.map fun c => (val c).1).foldl f32Max negInf
  let excl := (out.map Cand.tokens).foldl (· + ·) 0
  let b := bucket rsel bx excl
  ([BitVec.ofNat 64 (rsel.toNat * 2 ^ 32 + bx.toNat), BitVec.ofNat 64 (excl * 2 ^ 32 + b * 2 ^ 24 + nonfin.toNat)], b)

/-! ### Serving a QUERY (R218 to R225) -/

/-- The geometry of a QUERY: key/value heads K, query heads NQ, query stride, lists, list stride, report bytes. -/
structure QGeom where
  k       : Nat
  nq      : Nat
  qstride : Nat
  lists   : Nat
  lstride : Nat
  report  : Nat

/-- The geometry of a QUERY block for a stream (R219, R224). -/
def qGeom (e b : List Word) : QGeom :=
  let k := db b 1 29 24 + 1 - db b 1 21 16
  let nq := k * (db b 0 42 39 + 1)
  let lists := if db b 0 61 61 = 1 then 1 else k
  { k := k, nq := nq, qstride := pad64 (eD e * (if db b 0 43 43 = 1 then 4 else 2)), lists := lists, lstride := pad64 (2 * db b 3 48 32),
    report := pad64 (8 * lists) + 16 * nq }

/-- The checks at service (R220, R464). -/
def queryInvalid (s : State) (k : CoreRef) (e b : List Word) : Bool :=
  let g := qGeom e b
  let q := (db b 4 20 0, g.nq * g.qstride)
  let l := (db b 5 20 0, g.lists * g.lstride)
  let r := (db b 6 20 0, g.report)
  decide (eGroups e ≤ db b 0 59 52) || decide (eG e ≤ db b 0 51 44) || decide (eH e ≤ db b 1 29 24) ||
  [q, l, r].any (fun x => outside s k.tile x.1 x.2) || anyOverlap [q, l, r]

/-- The leaves of the range of a QUERY: candidates (seam, TOKENS, sketch slot) and the number LOST; none when a word is uncorrectable. -/
def queryLeaves (s : State) (c : SeamCmd) (e : List Word) : Option (List (Nat × Nat × Nat) × Nat) × State :=
  let first := db c.block 1 63 48
  let n := min (db c.block 1 47 32 + 1) (eSeams e) - first
  let (ok, l, lost, s) := (rangeFrom first n).foldl (fun (acc : Bool × List (Nat × Nat × Nat) × Nat × State) k =>
    let (ok, l, lost, s) := acc
    if !ok then acc
    else
      match walk s c.part c.sid e (db c.block 0 59 52) k (cmdCtx s c) with
      | (none, s) => (false, l, lost, s)
      | (some w, s) =>
        let st := lfState w.1
        if st = fEmpty then (true, l, lost, s)
        else if st = fLost then (true, l, lost + 1, s)
        else (true, l ++ [(k, lfTokens w.1, lfSketch w.2)], lost, s)) (true, [], 0, s)
  (if ok then some (l, lost) else none, s)

/-- Score a candidate over the heads of a QUERY (R216, R217); none when a word of its sketch is uncorrectable. -/
def scoreCand (s : State) (c : SeamCmd) (e : List Word) (qs : List (List Num)) (x : Nat × Nat × Nat) : Option Cand × State :=
  let d := eD e
  let per := db c.block 0 42 39 + 1
  let scale := BitVec.ofNat 32 (db c.block 2 63 32)
  let (ok, hs, s) := (List.range (qGeom e c.block).k).foldl (fun (acc : Bool × List (List (BitVec 32 × BitVec 32) × Bool) × State) m =>
    let (ok, hs, s) := acc
    let a := x.2.2 + 2 * (db c.block 0 51 44 * eH e + db c.block 1 21 16 + m) * d
    let (bs, bad, s) := lread s c.part a (2 * d) (cmdCtx s c)
    let lo := (bs.take d).map (·.toNat)
    let hi := (bs.drop d).map (·.toNat)
    let us := ((qs.drop (m * per)).take per).map fun q => scoreBound scale q lo hi
    (ok && !bad, hs ++ [(us, (lo ++ hi).contains 0x7F)], s)) (true, [], s)
  (if ok then some { k := x.1, tokens := x.2.1, heads := hs } else none, s)

/-- Read the query vectors; none when a word of the store is uncorrectable. -/
def queryVectors (s : State) (slot : Nat) (k : CoreRef) (e b : List Word) : Option (List (List Num)) × State :=
  let g := qGeom e b
  let w := if db b 0 43 43 = 1 then 4 else 2
  let (bs, bad, s) := loadStore s slot k ((tile s k.tile).base + db b 4 20 0) (g.nq * g.qstride)
  if !bad.isEmpty then (none, s)
  else
    (some ((List.range g.nq).map fun i =>
      (List.range (eD e)).map fun j =>
        let x := ofBytes ((bs.drop (i * g.qstride + j * w)).take w)
        if w = 4 then fp32.decode x else bf16.decode x), s)

/-- The lists of a QUERY, each with whether it was truncated (R222, R223). -/
def queryLists (mode : Nat) (e b : List Word) (cs : List Cand) : List (List Nat × Bool) :=
  let g := qGeom e b
  let ks := cs.map Cand.k
  let low := ks.take (db b 3 31 24)
  let high := ks.drop (ks.length - db b 3 23 16)
  let cap := db b 3 48 32
  let margin := BitVec.ofNat 32 (db b 2 31 0)
  let sel := (List.range g.k).map fun m => selectHead mode (db b 1 12 0) (decide (db b 0 60 60 = 1)) margin (low ++ high) cs m
  let score := fun (m k : Nat) => ((cs.find? fun c => c.k == k).map fun c => c.score m).getD negInf
  if db b 0 61 61 = 1 then
    let u := ks.filter fun k => sel.any fun l => l.contains k
    let l := truncateList cap (mode == 0) low high (fun k => ((List.range g.k).map fun m => score m k).foldl f32Max negInf) u
    [(l, decide (l.length < u.length))]
  else sel.zipIdx.map fun (u, m) =>
    let l := truncateList cap (mode == 0) low high (score m) u
    (l, decide (l.length < u.length))

/-- The counters of a served QUERY (R228, Table 8.7). -/
def queryCount (s : State) (p scored unbounded lost nonfin : Nat) (cands : Nat) (lists : List (List Nat × Bool)) (buckets : List Nat) : State :=
  let s := finc s F.ASSAY_QUERIES_COUNT 1 p
  let s := finc s F.ASSAY_SCORED_COUNT scored p
  let s := finc s F.ASSAY_LISTED_COUNT ((lists.map fun l => l.1.length).foldl (· + ·) 0) p
  let s := finc s F.ASSAY_EXCLUDED_COUNT ((lists.map fun l => cands - l.1.length).foldl (· + ·) 0) p
  let s := finc s F.ASSAY_EVENTS_TRUNC (countIf (·.2) lists) p
  let s := finc s F.ASSAY_EVENTS_NONFINITE nonfin p
  let s := finc s F.ASSAY_EVENTS_UNBOUNDED unbounded p
  let s := finc s F.ASSAY_EVENTS_LOST lost p
  buckets.foldl (fun s b => finc s F.ASSAY_HIST_COUNT 1 p b) s

/-- Whether FORCE_EXACT applies to a QUERY (R222): as it stood when the QUERY was accepted (Table 8.6). -/
def forceExact (s : State) (c : SeamCmd) : Bool :=
  match c.assay with
  | some m => m.1
  | none => fb s F.ASSAY_CTL_FORCE_EXACT c.part

/-- The audit mark of the next QUERY of partition p (R228): every AUDIT_EVERY-th one. -/
def auditMark (s : State) (p : Nat) : Bool × State :=
  let n := fg s F.ASSAY_CTL_AUDIT_EVERY p
  let k := SMap.get 0 s.seam.audits p + 1
  if n = 0 then (false, s)
  else if n ≤ k then (true, updSeam s fun (x : Seam) => { x with audits := SMap.set x.audits p 0 })
  else (false, updSeam s fun (x : Seam) => { x with audits := SMap.set x.audits p k })

/-- The mark that a QUERY carries: decided when ASSAY_CTL was written after it was accepted, or the next one now. -/
def markOf (s : State) (c : SeamCmd) : Bool × State :=
  match c.assay with
  | some m => (m.2, s)
  | none => auditMark s c.part

/-- Word 4 of the completion area of a QUERY (Table 8.5). -/
def queryMarks (s : State) (c : SeamCmd) (trunc audit : Bool) : Word :=
  BitVec.ofNat 64 ((forceExact s c).toNat * 4 + trunc.toNat * 2 + audit.toNat)

/-- A QUERY that is not served completes with a status; its other words are 0 but for the marks that every QUERY carries (R222, R228), and it counts as completed. -/
def refuseQuery (audit : Bool) (s : State) (c : SeamCmd) (status _len : Nat) : State :=
  completeCmd (finc s F.ASSAY_QUERIES_COUNT 1 c.part) c fun tag =>
    [BitVec.ofNat 64 (status * 2 ^ 56 + tag % 65536 * 2 ^ 32), 0, 0, 0, queryMarks s c false audit, 0, 0, BitVec.ofNat 64 (2 ^ 63)]

/-- QUERY of an OPEN or PARKED stream. -/
def serveQuery (audit : Bool) (s : State) (c : SeamCmd) (e : List Word) : State :=
  match issuer s c with
  | none => popCmd s c
  | some (slot, t, k) =>
    let b := c.block
    let p := c.part
    let g := qGeom e b
    if queryInvalid s k e b then faultCmd s c 0x19 0
    else
      let mode := if forceExact s c then 0 else db b 0 63 62
      match queryVectors s slot k e b with
      | (none, s') => memCmd s' c (badOffset s slot k ((tile s k.tile).base + db b 4 20 0) (g.nq * g.qstride))
      | (some qs, s) =>
        match queryLeaves s c e with
        | (none, s) => memCmd s c
        | (some (ls, lost), s) =>
          let (ok, cs, s) := ls.foldl (fun (acc : Bool × List Cand × State) x =>
            let (ok, cs, s) := acc
            if mode = 0 then (ok, cs ++ [{ k := x.1, tokens := x.2.1, heads := [] }], s)
            else match scoreCand s c e qs x with
              | (some y, s) => (ok, cs ++ [y], s)
              | (none, s) => (false, cs, s)) (true, [], s)
          if !ok then memCmd s c
          else
            let lists := queryLists mode e b cs
            let per := db b 0 42 39 + 1
            let nonfin := qs.map fun q => q.any Num.nonfinite
            let recs := (List.range g.nq).map fun i =>
              let m := i / per
              headRecord (mode == 0) cs (nth lists (if g.lists = 1 then 0 else m) ([], false)).1 m (i % per) (nth nonfin i false)
            let base := (tile s k.tile).base
            let s := lists.zipIdx.foldl (fun s (l, m) =>
              storeOut s t k (base + db b 5 20 0 + m * g.lstride) (l.1.flatMap fun x => bytesOf 2 x)) s
            let entry := fun (l : List Nat × Bool) => BitVec.ofNat 64 (cs.length * 2 ^ 32 + l.2.toNat * 2 ^ 17 + l.1.length)
            let rep := padTo (pad64 (8 * g.lists)) (bytesOfWords (lists.map entry)) ++ bytesOfWords (recs.flatMap (·.1))
            let s := storeOut s t k (base + db b 6 20 0) rep
            let weight := (if 128 < eD e then 2 else 1) * (if 8 < per then 2 else 1)
            let scored := if mode = 0 then 0 else cs.length * g.k * weight
            let unb := (cs.map fun x => countIf (·.2) x.heads).foldl (· + ·) 0
            let s := queryCount s p scored unb lost (countIf id nonfin) cs.length lists (recs.map (·.2))
            let s := putEntry s p c.sid (used s (entryRaw s p c.sid))
            completeCmd s c fun tag =>
              [BitVec.ofNat 64 ((if lost = 0 then cOk else cLost) * 2 ^ 56 + tag % 65536 * 2 ^ 32 + g.lists), BitVec.ofNat 64 scored,
               BitVec.ofNat 64 (cs.length * 2 ^ 32 + lost), BitVec.ofNat 64 (eLength e),
               queryMarks s c (lists.any (·.2)) audit, 0, 0, BitVec.ofNat 64 (2 ^ 63)]

/-- ASSAY_QUERY (R218). -/
def execAssayQuery (die : Nat) (s : State) : Ans :=
  finish (match nextCmd s die true with
    | none => s
    | some c =>
      let (audit, s) := if c.fromTask && (issuer s c).isNone then (false, s) else markOf s c
      serve s die true (refuseQuery audit) (fun c => c.kind == 3) true fun s c e =>
        let st := eState e
        if st = sOpen ∨ st = sParked then serveQuery audit s c e
        else if st = sFree then refuseQuery audit s c cNotOpen (eLength e)
        else refuseQuery audit s c cBusy (eLength e))

/-- The QUERYs of partition p that wait, as they were accepted: FORCE_EXACT and the audit marks that they take (Table 8.6). -/
def settleQueries (s : State) (p : Nat) : State :=
  (s.seam.queue.filter fun c => c.part == p && c.kind == 3 && c.assay.isNone).foldl (fun s c =>
    let (m, s) := auditMark s p
    updSeam s fun (x : Seam) => { x with queue := x.queue.map fun d => if d = c then { c with assay := some (forceExact s c, m) } else d }) s

/-- ASSAY_CTL_WRITE (R228, R231): QUERYs accepted before use the values before, and the audit count starts again. -/
def execAssayCtlWrite (f : Func) (p : Nat) (v : Word) (s : State) : Ans :=
  finish (if !isPriv s f then s
    else updSeam (writeReg (settleQueries s p) .assayCtl v (-1) p) fun (x : Seam) => { x with audits := SMap.set x.audits p 0 })

end Sys2Proof.Machine
end

