-- ==== Sys2Proof/Machine/Integrity.lean ====
section
/-! DEFINITION. The commands of result integrity (chapter 14): shadow runs and the Prospector. -/

namespace Sys2Proof.Machine

/-- A run of a partition that is fenced ends ABANDONED (Table 14.6, R361). -/
def shadowAbandon (s : State) (p : Nat) : State := if (SMap.find s.shadows p).isSome then shadowFinish s p 8 0x7FF 0x7FF 0 [] 0 else s

/-- SHADOW_GO (R347, R348, R361). -/
def execShadowGo (f : Func) (p : Nat) (v : BitVec 64) (s : State) : Ans :=
  finish (if isPriv s f && decide (p < 8) && decide (fieldOf F.GUARD_SHADOW_CTL_GO v = 1) then
      if (SMap.find s.shadows p).isSome then fs s F.GUARD_SHADOW_STATUS_BUSY_ERR 1 p
      else
        let x : ShadowRun := { gseq := none, block := [], ended := none }
        let s := fs { s with shadows := SMap.set s.shadows p x } F.GUARD_SHADOW_STATUS_STATE 1 p
        if partFenced s p then shadowAbandon s p else shadowBegin s p x
    else s)

/-- Whether tiles a and b are a pair of a shadow task (R348): a in copy A, b at the same place of copy B. -/
def isPair (t : Task) (a b : Nat) : Bool :=
  match t.place a with
  | some (r, c, copy) => copy == 0 && t.tiles.contains a && t.tileAt r c 1 == b
  | none => false

/-- SHADOW_DIVERGE (R349, R352): the first difference stops both copies and the run ends DIVERGED, its record naming both tiles and the schedule cycle. -/
def execShadowDiverge (p a b : Nat) (cycle : BitVec 32) (s : State) : Ans :=
  finish (match s.tasks.find? fun (_, t) => t.part == p && t.shadow != 0 && t.started && isPair t a b with
    | none => s
    | some (slot, _) =>
      let r := taskCtx s slot (tileCtx s a false { blankRec s 0x07 0 0 with aux := BitVec.ofNat 64 b, aux2 := cycle.setWidth 64 })
      shadowStop (emit s r) slot 2 a b cycle.toNat)

/-- The numbers that elements of a format spell, first element first. -/
def elements (fmt : Nat) (bs : List Byte) : List Num :=
  let w := fmtBits fmt / 8
  (List.range (bs.length / w)).map fun i => valueOf fmt (ofBytes ((bs.drop (i * w)).take w))

/-- |x - y|, 0 for two infinities of one sign. -/
def difference (x y : Num) : Num := if Num.eqv x y then .fin false 0 0 else (Num.add 0 x y.neg).1.abs

/-- Whether an original element x and a shadow element y match (R351). -/
def elementsMatch (fmt : Nat) (abs rel : Num) (x y : Num) : Bool :=
  (x.isNan && y.isNan) || Num.eqv x y ||
  (match x, y with
   | .fin _ _ _, .fin _ _ _ =>
     let bound := if fmt = 7 ∨ fmt = 9 then abs else (Num.add 0 abs (Num.mul rel x.abs).1).1
     !Num.lt false bound (difference x y)
   | _, _ => false)

/-- What the comparison of a range found: elements that do not match, the first of them, and the largest difference. -/
structure RangeDiff where
  bad   : Nat
  first : Nat
  top   : Num
deriving DecidableEq, Repr

/-- Compare two lists of elements, from element i on. -/
def compareFrom (fmt : Nat) (abs rel : Num) : Nat → List Num → List Num → RangeDiff → RangeDiff
  | i, x :: xs, y :: ys, d =>
    let d := if elementsMatch fmt abs rel x y then d else { d with bad := d.bad + 1, first := if d.bad = 0 then i else d.first }
    let d := if x.isNan || y.isNan then d else { d with top := if Num.lt false d.top (difference x y) then difference x y else d.top }
    compareFrom fmt abs rel (i + 1) xs ys d
  | _, _, _, d => d

/-- Nothing compared. -/
def RangeDiff.none : RangeDiff := { bad := 0, first := 0xFFFFFFFF, top := .fin false 0 0 }

/-- Compare range r of a request block (R351); none while data of a peer is awaited. A range that cannot be read counts every element as not matching (DESIGN CHOICE). -/
def compareRange (s : State) (p : Nat) (ws : List Word) (r : Nat) : Option RangeDiff × State :=
  let n := 64 * db ws (6 + 4 * r) 27 0
  let fmt := db ws (6 + 4 * r) 63 60
  let tol := fun hi lo => fp32.decode (db ws (7 + 4 * r) hi lo)
  let all : RangeDiff := { RangeDiff.none with bad := n / (fmtBits fmt / 8), first := 0 }
  if n = 0 then (some RangeDiff.none, s)
  else match engineRead s p (dw ws (4 + 4 * r)) n with
    | (.wait, s) => (none, s)
    | (.refused _ _, s) => (some all, s)
    | (.data xs, s') =>
      match engineRead s' p (dw ws (5 + 4 * r)) n with
      | (.wait, _) => (none, (engineRead s p (dw ws (5 + 4 * r)) n).2)
      | (.refused _ _, s) => (some all, s)
      | (.data ys, s) => (some (compareFrom fmt (tol 63 32) (tol 31 0) 0 (elements fmt xs) (elements fmt ys) RangeDiff.none), s)

/-- SHADOW_COMPARE_COMPLETE (R351, R352). MAX_DIFF is rounded to nearest even (DESIGN CHOICE). -/
def execShadowCompareComplete (p : Nat) (s : State) : Ans :=
  finish (match SMap.find s.shadows p with
    | none => s
    | some x =>
      if (x.gseq.bind fun q => node? s q 0).map (·.state) = some .done then
        let (rs, s) := (List.range 4).foldl (fun (acc, s) r =>
          let (d, s) := compareRange s p x.block r
          (acc ++ [d], s)) (([] : List (Option RangeDiff)), s)
        if rs.any Option.isNone then s
        else
          let ds := rs.filterMap id
          let top := ds.foldl (fun (m : Num) d => if Num.lt false m d.top then d.top else m) (.fin false 0 0)
          let res := if ds.any fun d => decide (d.bad ≠ 0) then 1 else 0
          shadowFinish s p res 0x7FF 0x7FF 0 (ds.map fun d => (d.bad, d.first)) (toF32 0 false top).1.toNat
      else s)

/-! ### The Prospector -/

/-- The patrol of a die. -/
def patrol (s : State) (d : Nat) : Patrol := SMap.get Patrol.fresh s.patrols d

/-- Replace the patrol of a die. -/
def setPatrol (s : State) (d : Nat) (x : Patrol) : State := { s with patrols := SMap.set s.patrols d x }

/-- INTERVAL_S in ns; 0 acts as 1. -/
def patrolStep (s : State) : Nat := max 1 (fg s F.GUARD_PROSPECT_CTL_INTERVAL_S) * 1000000000

/-- When the tile at POSITION falls due: S + k × INTERVAL_S (R353). -/
def dueTime (s : State) (d : Nat) : Int := (patrol s d).start + (fg s F.GUARD_PROSPECT_DIE_POSITION d * patrolStep s : Nat)

/-- PROSPECT_DUE (R353). -/
def execProspectDue (die : Nat) (s : State) : Ans :=
  finish (if fb s F.GUARD_PROSPECT_CTL_EN && decide (die < 4) && (patrol s die).due.isNone then
      let t := (dueTime s die).toNat
      setPatrol (advanceToNs s t) die { patrol s die with due := some t }
    else s)

/-- EN of the patrol changes (R353): each die resumes at its position, whose tile falls due now, or keeps its position with nothing due. -/
def patrolSwitch (s : State) (on : Bool) : State :=
  (List.range 4).foldl (fun s d =>
    let k := fg s F.GUARD_PROSPECT_DIE_POSITION d
    if on then setPatrol s d { patrol s d with start := (mer s : Int) - (k * patrolStep s : Nat), due := some (mer s) }
    else
      let s := setPatrol s d { patrol s d with due := none }
      fs (fs s F.GUARD_PROSPECT_DIE_DEFERRED 0 d) F.GUARD_PROSPECT_FORCE_DEFER_S 0 d) s

/-- PROSPECT_CTL_WRITE (R353, Table 14.12). -/
def execProspectCtlWrite (f : Func) (v : BitVec 64) (s : State) : Ans :=
  finish (if isPriv s f then
      let was := fb s F.GUARD_PROSPECT_CTL_EN
      let s := writeReg s .guardProspectCtl v (-1)
      let now := fb s F.GUARD_PROSPECT_CTL_EN
      if was == now then s else patrolSwitch s now
    else s)

/-- PROSPECT_NOMINATE (R356). -/
def execProspectNominate (f : Func) (v : BitVec 64) (s : State) : Ans :=
  finish (if isPriv s f then nominate s (fieldOf F.GUARD_PROSPECT_NOMINATE_TILE v) else s)

/-- PROSPECT_TEST_END (R355): 40 ms after the claim the test passes, leaving the store zero, or the tile is fenced with a LATENT_FAULT record. -/
def execProspectTestEnd (die : Nat) (pass mem : Bool) (off : BitVec 21) (s : State) : Ans :=
  finish (match (patrol s die).test with
    | none => s
    | some (n, b) =>
      let s := advanceToNs s (b + 40000000)
      if pass then
        let x := patrol s die
        let s := endTest (zeroBytes s (keyTile n 0) 0x180000) die
        let s := updTile s n fun t => { t with claimed := true }
        setPatrol s die { x with test := none, back := x.back ++ [(n, b + 40200000)] }
      else
        let r := { blankRec s 0x06 (if mem then 2 else 1) 2 with unit := 0x1, unitIx := n, aux := if mem then off.setWidth 64 else 0 }
        let s := emit s (tileCtx s n false r)
        fenceTile (finc s F.GUARD_PROSPECT_DIE_FAILS 1 die) n 0x02 0)

end Sys2Proof.Machine
end

