-- ==== Sys2Proof/Machine/Glb.lean ====
section
/-! DEFINITION. The section map and its apply (R17 to R20, R172, R399). -/

namespace Sys2Proof.Machine

/-- Field of section k in a section map (Table 1.3). -/
def mapField (m : Word) (k : Nat) : Nat := getBits m (4 * k + 3) (4 * k)

/-- The sections whose field in a map differs from the assignment in force. -/
def changing (s : State) (m : Word) : List Nat := (List.range 8).filter fun k => mapField m k != sectionPart s k

/-- Whether partition p is held in partition reset (R17, R373). -/
def partHeld (s : State) (p : Nat) : Bool := bitOf (rd s .guardResetStatus) p

/-- The partitions that gain or lose a section under a map. -/
def movedParts (s : State) (m : Word) : List Nat :=
  (List.range 8).filter fun p => (changing s m).any fun k => mapField m k == p || sectionPart s k == p

/-- The result of the checks of Table 1.6 on a map: 0 when the assignment takes effect, else the RESULT code. A partition that holds no section has nothing in service, and
counts as held (DEDUCED). -/
def applyCheck (s : State) (m : Word) : Nat :=
  if (List.range 8).any fun k => decide (8 ≤ mapField m k) && decide (mapField m k ≠ 15) then 4
  else if !(movedParts s m).all (fun p => partHeld s p || !partExists s p) then 3
  else if (movedParts s m).any fun p => fb s F.SEAM_CTL_EN p then 5
  else 0

/-- Set GLB_SECTION_STATUS.RESULT. -/
def setApplyResult (s : State) (r : Nat) : State := fs s F.GLB_SECTION_STATUS_RESULT r

/-- Whether a re-placement is in progress on any die. -/
def replacing (s : State) : Bool := s.dies.any fun d => d.repl.isSome

/-- An apply starts: the checks of Table 1.6 are made, and the assignment that passed them is the one that takes effect. -/
def startApply (s : State) : State :=
  let m := rd s .glbSectionMap
  match applyCheck s m with
  | 0 => setApplyResult { s with apply := some (some m) } 1
  | r => setApplyResult { s with apply := none } r

/-- SECTION_APPLY_GO (R18, R172). -/
def execSectionApplyGo (f : Func) (v : Word) (s : State) : Ans :=
  finish (if !isPriv s f || fieldOf F.GLB_SECTION_APPLY_GO v = 0 || s.apply.isSome then s
         else if replacing s then setApplyResult { s with apply := some none } 1
         else startApply s)

/-- SECTION_APPLY_START (R172): the apply that waited starts once no re-placement is in progress. -/
def execSectionApplyStart (s : State) : Ans :=
  finish (if s.apply = some none ∧ replacing s = false then startApply s else s)

/-- Erase the keys of a partition: its session slots become FREE and it is no longer confidential (R20, R398). -/
def releaseKeys (s : State) (p : Nat) : State :=
  let s := (List.range 64).foldl (fun s k => clr s .secSlot p k) s
  let s := { s with ke := { s.ke with
    sess := SMap.keep s.ke.sess fun k _ => k / 64 != p, paks := SMap.erase s.ke.paks p, memKeys := SMap.erase s.ke.memKeys p } }
  fs (fs s F.SEC_PART_CTL_STATE 0 p) F.SEC_PART_CTL_CONF 0 p

/-- What an apply does to one partition, which existed before it or not (R20, R295, R390): one that ceases releases its device ID and keys; one that is created takes a new epoch and a PAK. -/
def settlePart (s : State) (p : Nat) (before : Bool) : State :=
  let after := partExists s p
  if before && !after then releaseKeys (fs s F.PORT_DEVID_VALID 0 p) p
  else if !before && after then makePak (bumpPartEpoch s p) p
  else s

/-- Bytes of a tile store (Table 1.8). -/
def storeBytes : Nat := 0x180000

/-- Zero the whole store of a tile with valid check bits (R133); it now serves partition p. -/
def zeroStore (s : State) (n p : Nat) : State :=
  updTile (zeroBytes s (keyTile n 0) storeBytes) n fun t => { t with lastPart := some p }

/-- The physical tiles that serve the logical columns of section k. -/
def sectionTiles (s : State) (k : Nat) : List Nat :=
  (rangeFrom (8 * (k % 2)) 8).flatMap fun l =>
    match (diePlace s (k / 2)).map[l]? with
    | some c => (List.range 16).map fun r => tileAt (k / 2) r c
    | none => []

/-- MEM_DEV_CRYPT of every device (Table 10.14, R399): the partition of its section, when that partition has a memory key. -/
def showCrypt (s : State) : State :=
  (List.range 24).foldl (fun s dev =>
    let p := sectionPart s (if dev < 8 then dev else (dev - 8) / 2)
    let on := (SMap.find s.ke.memKeys p).isSome
    let i := if dev < 8 then 0 else 1
    let j := if dev < 8 then dev else dev - 8
    fs (fs s F.MEM_DEV_CRYPT_EN on.toNat i j) F.MEM_DEV_CRYPT_PARTITION (if on then p else 0) i j) s

/-- SECTION_APPLY_COMPLETE (R18 to R20, R133): the assignment that the checks passed comes into force. -/
def execSectionApplyComplete (s : State) : Ans :=
  finish (match s.apply with
    | some (some m) =>
      let was := (List.range 8).map (partExists s)
      let s1 := setApplyResult (wr { s with apply := none } .glbSectionActive m) 2
      let s1 := (changing s m).foldl (fun s k =>
        if mapField m k < 8 then (sectionTiles s k).foldl (fun s n => zeroStore s n (mapField m k)) s else s) s1
      let s2 := (List.range 8).foldl (fun s p => settlePart s p (nth was p false)) s1
      showCrypt { s2 with tge := { s2.tge with noFit := [] } }
    | _ => s)

end Sys2Proof.Machine
end

