-- ==== Sys2Proof/Machine/HostOps.lean ====
section
/-! DEFINITION. DMA rings (R330 to R334) and the lines of BAR2 accesses (R326, R327). -/

namespace Sys2Proof.Machine

/-! ### DMA rings -/

/-- The partition with whose rights ring r acts (R330). -/
def ringPart (s : State) (r : Nat) : Nat := if r < 64 then r / 8 else fg s F.HOST_DMA_CTL_PART r

/-- The function that ring r signals (R330, R333). -/
def ringFn (s : State) (r : Nat) : Nat := if r < 64 then ownerFn s (r / 8) else 0

/-- As whom ring r accesses memory (R330): host memory is reached with the requester ID of the owning function, or of the PF. -/
def ringWho (s : State) (r : Nat) : Requester := if r < 64 then .engine (r / 8) else .pf (ringPart s r)

/-- Whether an address lies in host memory (R22). -/
def hostAddr (ga : Word) : Bool := decide (getBits ga 63 62 = 2)

/-- Whether a function may act on ring r. -/
def mayRing (s : State) (f : Func) (r : Nat) : Bool := decide (r < 72) && (if r < 64 then mayAct s f (r / 8) else isPriv s f)

/-- Descriptors of ring r. -/
def ringSize (s : State) (r : Nat) : Nat := 2 ^ fg s F.HOST_DMA_CTL_SIZE_LOG2 r

/-- The descriptors of ring r in progress, oldest first. -/
def dmaProg (s : State) (r : Nat) : List DmaDesc := SMap.get [] s.dmas r

/-- Replace the descriptors of ring r in progress; BUSY follows. -/
def setDma (s : State) (r : Nat) (ds : List DmaDesc) : State :=
  fs { s with dmas := if ds.isEmpty then SMap.erase s.dmas r else SMap.set s.dmas r ds } F.HOST_DMA_STATUS_BUSY (!ds.isEmpty).toNat r

/-- Change the descriptor of ring r with an index. -/
def updDma (s : State) (r ix : Nat) (f : DmaDesc → DmaDesc) : State :=
  setDma s r ((dmaProg s r).map fun d => if d.ix = ix then f d else d)

/-- Whether a descriptor breaks Table 13.7. -/
def dmaBad (ws : List Word) : Bool :=
  decide (db ws 0 63 60 ≠ 1) || decide (db ws 0 56 42 ≠ 0) || decide (db ws 0 31 0 % 64 ≠ 0) || decide (db ws 0 31 0 < 64) ||
  decide (db ws 1 5 0 ≠ 0) || decide (db ws 2 5 0 ≠ 0) || decide (db ws 3 63 32 ≠ 0) || decide (dw ws 5 ≠ 0) || decide (dw ws 6 ≠ 0)

/-- DESC_INVALID (Table 13.8). -/
def stDescInvalid : Nat := 0x30

/-- LENGTH of a descriptor. -/
def DmaDesc.len (d : DmaDesc) : Nat := db d.words 0 31 0

/-- The peer target of an address, when it lies on another module. -/
def peerOf (s : State) (p : Nat) (ga : Word) (write : Bool) : Option (Nat × Nat) :=
  match resolve s (.engine p) p ga write with
  | .remote id la => some (id, la)
  | _ => none

/-- Read up to n lines from an address of partition p: the bytes of the lines before the first failure, and its status. -/
def dmaGather (s : State) (who : Requester) (p : Nat) : Nat → Nat → List Byte × Nat × State
  | 0, _ => ([], stOK, s)
  | n + 1, ga =>
    match readGlobal s who p (BitVec.ofNat 64 ga) 64 with
    | (.data bs [], s) =>
      let (rest, st, s) := dmaGather s who p n (ga + 64)
      (bs ++ rest, st, s)
    | (.data _ _, s) => ([], stUncorrectable, s)
    | (.refused st _, s) => ([], st, s)
    | (.peer _ _, s) => ([], stPeerTimeout, s)

/-- Write n lines to an address of partition p until one fails: the lines written and the status. -/
def dmaScatter (s : State) (who : Requester) (p : Nat) : Nat → Nat → List Byte → Nat × Nat × State
  | 0, _, _ => (0, stOK, s)
  | n + 1, ga, bs =>
    match writeGlobal s who p (BitVec.ofNat 64 ga) (bs.take 64) with
    | ((st, _), s) =>
      if st = stOK then
        let (k, st, s) := dmaScatter s who p n (ga + 64) (bs.drop 64)
        (k + 1, st, s)
      else (0, st, s)

/-- Deliver source bytes, read with a status, to a descriptor's destination: a peer's lines leave as operations of the descriptor. -/
def dmaDeliver (s : State) (r : Nat) (d : DmaDesc) (bs : List Byte) (st : Nat) : State :=
  let p := ringPart s r
  let done := fun (s : State) (st a : Nat) => updDma s r d.ix fun d => { d with sent := true, st := st, errAt := a }
  match peerOf s p (dw d.words 2) true with
  | some (id, la) =>
    match sendRefusal s p id with
    | some e => done s e 0
    | none => (issueOps (done s st bs.length) p id la bs.length true bs 3 0 (.dma r d.ix)).2
  | none =>
    let (k, w, s) := dmaScatter s (ringWho s r) p (bs.length / 64) (dw d.words 2).toNat bs
    if w ≠ stOK then done s w (64 * k) else done s st bs.length

/-- Move a descriptor's data as far as it can be moved now. `final` is set at its completion, when local data moves; `cut` limits the lines that move before the host side fails
with HOST_ABORT. -/
def dmaMove (s : State) (r : Nat) (d : DmaDesc) (final : Bool) (cut : Option Nat) : State :=
  if d.sent then s
  else
    let p := ringPart s r
    let src := dw d.words 1
    match peerOf s p src false with
    | some (id, la) =>
      if cut.isSome then updDma s r d.ix fun d => { d with sent := true, st := stHostAbort, errAt := 0 }
      else match peerRead s p id la d.len 3 with
      | (.wait, s) => s
      | (.refused st a, s) => updDma s r d.ix fun d => { d with sent := true, st := st, errAt := a - la }
      | (.data bs, s) => dmaDeliver (dropArrived s id la d.len) r d bs stOK
    | none =>
      if !final && (hostAddr src || (peerOf s p (dw d.words 2) true).isNone) then s
      else
        let n := d.len / 64
        let (bs, st, s) := dmaGather s (ringWho s r) p ((cut.map (min n)).getD n) src.toNat
        dmaDeliver s r d bs (if cut.isSome ∧ st = stOK then stHostAbort else st)

/-- A descriptor's host side fails before its data has moved (R334): a free number of its lines moved first. -/
def dmaAbort (s : State) (r : Nat) (d : DmaDesc) : State :=
  let (w, s) := drawFree s
  dmaMove s r d true (some (w.toNat % max 1 (d.len / 64)))

/-- Whether data that a descriptor has still to move meets a row that a soft repair holds (R268). -/
def dmaHeld (s : State) (r : Nat) (d : DmaDesc) : Bool :=
  let p := ringPart s r
  !d.sent && (meetsHeld s (ringWho s r) p (dw d.words 1) d.len false || meetsHeld s (ringWho s r) p (dw d.words 2) d.len true)

/-- Every ring moves what it can, after data has come from a peer. -/
def dmaPump (s : State) : State :=
  s.dmas.foldl (fun s (r, ds) => ds.foldl (fun s d => dmaMove s r d false none) s) s

/-- An operation of a descriptor is answered: its first failure in address order is kept. -/
def dmaOpDone (s : State) (o : RemOp) (r ix st : Nat) : State :=
  if st = stOK then s
  else updDma s r ix fun d =>
    let a := o.la - (dw d.words 2).toNat % 2 ^ 44
    if d.st = stOK ∨ a < d.errAt then { d with st := st, errAt := a } else d

/-- Ring r stops (R333, R324). -/
def ringStop (s : State) (r : Nat) : State := fs s F.HOST_DMA_CTL_EN 0 r

/-- Ring r stops with an error at an index (R333). -/
def ringFail (s : State) (r ix : Nat) : State := fs (fs (ringStop s r) F.HOST_DMA_STATUS_ERR 1 r) F.HOST_DMA_STATUS_FAIL_INDEX ix r

/-- Abandon the descriptors of ring r in progress: no write-back, no gate post (R324). -/
def ringAbandon (s : State) (r : Nat) : State :=
  let s := setDma (ringStop s r) r []
  updXp s fun x => { x with ops := x.ops.filter fun o => match o.why with | .dma q _ => q != r | _ => true }

/-- The global address of descriptor ix of ring r. -/
def descAddr (s : State) (r ix : Nat) : Nat := (rd s .hostDmaBase r).toNat + 64 * ix

/-- Whether the ring's memory is host memory or the partition's Tier 1 (R331). -/
def ringBaseOk (s : State) (r : Nat) : Bool :=
  let b := rd s .hostDmaBase r
  hostAddr b || decide (b.toNat < t1Size s (ringPart s r))

/-! ### BAR2 (R326, R327) -/

/-- The partition that a function's BAR2 reaches. -/
def bar2Part (s : State) : Func → Option Nat
  | .pf => if partExists s (pfPart s) then some (pfPart s) else none
  | .vf i => vfPart s i
  | .overman => none

/-- The size of a function's BAR2. -/
def bar2Bytes (s : State) (fn : Nat) : Nat := 2 ^ SMap.get 36 s.bar2 fn

/-- PCI Express completion statuses: success, Unsupported Request, Completer Abort. -/
def cplOk : Nat := 0
/-- Unsupported Request. -/
def cplUr : Nat := 1
/-- Completer Abort. -/
def cplCa : Nat := 4

/-- Whether the memory controller of a device is being reset (Table 15.4). -/
def devHeld (s : State) (dev : Nat) : Bool := engineFenced s (if dev < 8 then 5 else 6) (devIx dev).2

/-- What a BAR2 line meets before it is moved: a completion status, or its target. -/
def bar2Judge (s : State) (f : Func) (la : Nat) (write : Bool) : Except Nat Target :=
  match bar2Part s f with
  | none => .error cplUr
  | some p =>
    if s.d3hot.contains (fnOf f) || inDeviceReset s || dormant s then .error cplUr
    else if min (bar2Bytes s (fnOf f)) 0x40000000000 ≤ la then .error cplUr
    else if confOn s p then .error cplUr
    else if partFenced s p then .error cplCa
    else match resolveLocal s (.host f) p la write with
      | .refused st => .error (if st = stTileFenced then cplCa else cplUr)
      | .mem d o => if devHeld s d then .error cplCa else .ok (.mem d o)
      | .store n o => .ok (.store n o)
      | _ => .error cplUr

/-- Set a bit of a function's AER uncorrectable error status (Table 13.1). -/
def aerSet (s : State) (fn bit : Nat) : State := updCfg s fn fun c => { c with aer := c.aer ||| 1#32 <<< bit }

/-- Completion Timeout, Completer Abort and Unsupported Request in the AER uncorrectable error status. PRESUMED: the bits of PCI Express (log entry 83). -/
def aerTimeout : Nat := 14
/-- Completer Abort. -/
def aerCa : Nat := 15
/-- Unsupported Request. -/
def aerUr : Nat := 20

/-- The HOST_ACCESS record and count of a refused line (R326); a discarded write is reported through AER too. -/
def bar2Refused (s : State) (f : Func) (off : Nat) (write : Bool) (st : Nat) : State :=
  let fn := fnOf f
  let s := finc s (if write then F.HOST_BAR2_STATUS_REFUSED_WR else F.HOST_BAR2_STATUS_REFUSED_RD) 1 0 0 fn
  let s := if write then aerSet s fn (if st = cplCa then aerCa else aerUr) else s
  emit s { blankRec s 0x10 (if st = cplCa then 2 else if write then 1 else 0) 0 with
    unit := 0xA, unitIx := fn, aux := BitVec.ofNat 64 off }

/-- Whether an access through BAR2 can be served now: the link is up (R322), and no row that it meets is held by a soft repair (R268). -/
def bar2Served (s : State) (f : Func) (off n : Nat) (write : Bool) : Bool :=
  hostUp s && !(bar2Part s f).any fun p => meetsHeld s (.host f) p (BitVec.ofNat 64 off) n write

/-- Read one line (or a part of one) through BAR2: the completion's status and data, which leave while the link is up (R322). -/
def bar2Line (s : State) (f : Func) (off n : Nat) : State :=
  let answer := fun (s : State) (st : Nat) (bs : List Byte) => if hostUp s then { s with outs := s.outs ++ [.completion (fnOf f) st bs] } else s
  match bar2Judge s f off false with
  | .error st => answer (bar2Refused s f off false st) st []
  | .ok t =>
    match readTarget s (.requester ((bar2Part s f).getD 0)) t off n id with
    | (.data bs [], s) => answer s cplOk bs
    | (.data _ _, s) => answer (bar2Refused s f off false cplCa) cplCa []
    | (_, s) => answer (bar2Refused s f off false cplUr) cplUr []

/-- Write one line (or a part of one) through BAR2. -/
def bar2Put (s : State) (f : Func) (off : Nat) (bs : List Byte) : State :=
  match bar2Judge s f off true with
  | .error st => bar2Refused s f off true st
  | .ok t =>
    let (st, s) := writeTarget s (.host f) t bs
    if st = stOK then s else bar2Refused s f off true (if st = stUncorrectable then cplCa else cplUr)

end Sys2Proof.Machine
end

