-- ==== Sys2Proof/Machine/LinkOps.lean ====
section
/-! DEFINITION. States of a fabric port and what entering them does (R281, R284 to R291, R302). -/

namespace Sys2Proof.Machine

/-- Codes of Table 11.4. -/
def lDisabled : Nat := 0
/-- DETECT. -/
def lDetect : Nat := 1
/-- EQUALIZE. -/
def lEqualize : Nat := 2
/-- LANE_CHECK. -/
def lCheck : Nat := 3
/-- CONFIG. -/
def lConfig : Nat := 4
/-- ALIGN. -/
def lAlign : Nat := 5
/-- RETRAIN. -/
def lRetrain : Nat := 7
/-- HELD. -/
def lHeld : Nat := 8
/-- STANDBY. -/
def lStandby : Nat := 9
/-- PAUSE. -/
def lPause : Nat := 10

/-- The state of a port. -/
def portState (s : State) (n : Nat) : Nat := fg s F.PORT_LINK_STATUS_STATE n

/-- A port takes a state. -/
def setPort (s : State) (n st : Nat) : State := updLink (fs s F.PORT_LINK_STATUS_STATE st n) n fun k => { k with since := mer s }

/-- Lanes of a mask. -/
def laneCount (m : Nat) : Nat := countIf (fun l => m / 2 ^ l % 2 == 1) (List.range 8)

/-- Lanes of a list of lanes that satisfy a test, as a mask. -/
def laneMask (p : Nat → Bool) : Nat := ((List.range 8).filter p).foldl (fun a l => a + 2 ^ l) 0

/-- Lane l of a mask. -/
def laneIn (m l : Nat) : Bool := decide (m / 2 ^ l % 2 = 1)

/-- A record of a link event (R291), with the interrupt. -/
def linkRecord (s : State) (cls n action : Nat) : State :=
  signalLink (emit s { blankRec s cls (portState s n) action with unit := 7, unitIx := n, aux := rd s .portLinkStatus n })

/-- A port enters RETRAIN (R281, R284, R292): a width proposal lapses. -/
def enterRetrain (s : State) (n action : Nat) : State :=
  let s := setPort s n lRetrain
  let s := updLink s n fun k => { k with proposal := none }
  linkRecord (finc s F.PORT_EVENTS_RETRAINS 1 n) 0x0D n action

/-- Send an outstanding operation again at once, on another plane while there is one (R302). -/
def resendOp (s : State) (o : RemOp) : State := updOp (sendOp s o) o.id fun x => { x with sends := o.sends }

/-- A port's replay buffer is discarded (R289): requests in its blocks, and those that still waited, are resent on other planes (R302). -/
def dropBlocks (s : State) (n : Nat) : State :=
  let k := link s n
  let pks := ((k.held.flatMap fun x => x.2.1.packets) ++ k.txq.map (·.1)).eraseDups
  let s := updLink s n fun k => { k with held := [], txq := [], ctl := [], rxq := [], nak := false, txSeq := 0, rxSeq := 0 }
  pks.foldl (fun s pk =>
    if pk.op = 0x01 ∨ pk.op = 0x03 ∨ pk.op = 0x08 then
      match s.xp.ops.find? fun o => o.id == pk.opId && devId s o.part == some pk.src with
      | some o => resendOp s o
      | none => s
    else s) s

/-- A width comes into force at a port (none is 0): a change is recorded (R291). -/
def noteWidth (s : State) (n w : Nat) : State :=
  let was := (link s n).oldWidth
  let s := updLink s n fun k => { k with oldWidth := w }
  if was = w then s else linkRecord s 0x0E n 0

/-- A port that runs no longer has no width and no lanes; its blocks are dropped (R286, R289). -/
def noWidth (s : State) (n reason : Nat) : State :=
  let s := fs (fs (fs s F.PORT_LINK_STATUS_HELD_REASON reason n) F.PORT_LINK_STATUS_WIDTH 0 n) F.PORT_LINK_STATUS_LANE_MAP 0 n
  dropBlocks (updLink s n fun k => { k with proposal := none }) n

/-- A port enters HELD with a reason (R284, R291). -/
def enterHeld (s : State) (n reason : Nat) : State :=
  let s := noWidth (setPort s n lHeld) n reason
  let s := updLink s n fun k => { k with count := mer s }
  noteWidth (linkRecord (finc s F.PORT_EVENTS_HELD 1 n) 0x0F n 0) n 0

/-- A port enters DISABLED. -/
def enterDisabled (s : State) (n : Nat) : State :=
  let s := noWidth (setPort s n lDisabled) n 0
  noteWidth (updLink s n fun k => { k with round := none }) n 0

/-- A port starts training (R284), with no lane found yet; one that self-test has disabled stays so (R415). -/
def startTraining (s : State) (n : Nat) : State :=
  if s.om.dead.contains n then s
  else updLink (setPort s n lDetect) n fun k => { k with det := 0, passed := 0 }

/-- The four lowest lanes of a mask. -/
def lowFour (m : Nat) : Nat := (((List.range 8).filter (laneIn m)).take 4).foldl (fun a l => a + 2 ^ l) 0

/-- CONFIG's choice of width (Table 11.5) from the lanes good at both ends, of which those in LANE_DISABLE are not (R285): the port has a width and LANE_MAP, or is HELD. Answers
whether it has. -/
def chooseWidth (s : State) (n lanes : Nat) : Bool × State :=
  let off := fg s F.PORT_LINK_CTL_LANE_DISABLE n
  let good := laneMask fun l => laneIn lanes l && !laneIn off l
  let s := updLink (fs s F.PORT_LINK_STATUS_GOOD good n) n fun k => { k with disable := off }
  let c := laneCount good
  if c < 4 then (false, enterHeld s n 2)
  else
    let (w, m) := if c = 8 then (8, 0xFF) else (4, lowFour good)
    (true, fs (fs s F.PORT_LINK_STATUS_WIDTH w n) F.PORT_LINK_STATUS_LANE_MAP m n)

/-- Every held block is sent again (R280, R289). -/
def replayAll (s : State) (n : Nat) : State :=
  (link s n).held.foldl (fun s x => emitBlock s n x.2.1.typ x.1 x.2.1.payload) s

/-- A port becomes ACTIVE (R284, R289, R291): a width that differs from the last one in force is recorded, held blocks are replayed first, and waiting packets follow. -/
def enterActive (s : State) (n : Nat) : State :=
  let w := fg s F.PORT_LINK_STATUS_WIDTH n
  let was := (link s n).oldWidth
  let s := fs (setPort s n portActive) F.PORT_LINK_STATUS_HELD_REASON 0 n
  let s := updLink s n fun k => { k with count := if w = 4 ∧ was ≠ 4 then mer s else k.count, ackAt := mer s }
  let s := if was = 8 ∧ w = 4 then finc s F.PORT_EVENTS_WIDTH_DOWN 1 n else s
  pump (replayAll (noteWidth s n w) n) n

/-- A replay trigger (R280, R281): a replay, or RETRAIN when RUN is 8. Answers whether a replay started. -/
def replayTrigger (s : State) (n : Nat) : Bool × State :=
  if fg s F.PORT_REPLAY_RUN n = 8 then (false, enterRetrain s n 0)
  else
    let s := fs s F.PORT_REPLAY_RUN (fg s F.PORT_REPLAY_RUN n + 1) n
    (true, replayAll (updTick (finc s F.PORT_REPLAY_REPLAYS 1 n) n fun t => { t with replays := t.replays + 1 }) n)

/-- An ACK is taken (R280): blocks up to it are free, modulo 1,024 within a window of 512; RUN returns to 0 and the round trip is measured. New blocks are the caller's to send. -/
def takeAck (s : State) (n a : Nat) : State :=
  match (link s n).held with
  | [] => s
  | (q, _, _) :: _ =>
    let d := (a + 1024 - q) % 1024
    let k := link s n
    if 512 ≤ d ∨ k.held.length ≤ d then s
    else
      let sent := ((k.held[d]?).map fun x => x.2.2).getD (mer s)
      let s := updLink s n fun k => { k with held := k.held.drop (d + 1), ackAt := mer s }
      fs (fs s F.PORT_REPLAY_RUN 0 n) F.PORT_RTT_RTT_NS (mer s - sent) n

/-- An engine-level reset of a port (Table 11.6): an ACTIVE port retrains, and the replay buffer is discarded. -/
def portEngineReset (s : State) (n : Nat) : State :=
  dropBlocks (if portState s n = portActive then enterRetrain s n 2 else s) n

/-- The fabric reference is lost: every port is HELD with reason 4, in whatever state it is (Table 11.4, R292), but for those that self-test has disabled (R415). -/
def holdAllPorts (s : State) : State :=
  (List.range 32).foldl (fun s n =>
    if portEnabled s n && !s.om.dead.contains n && portState s n != lHeld then enterHeld s n 4
    else if portState s n = lHeld then fs s F.PORT_LINK_STATUS_HELD_REASON 4 n else s) s

end Sys2Proof.Machine
end

