-- ==== Sys2Proof/Machine/XportRx.lean ====
section
/-! DEFINITION. What a received packet meets: drops (R310), sessions (R403, R404), the target's checks (R304), duplicates (R305), and the ends of outstanding
operations (R302 to R307). -/

namespace Sys2Proof.Machine

/-! ### Drops (Tables 12.5, 12.10) -/

/-- LIFETIME_US in ns. -/
def lifetimeNs (s : State) : Nat := max 2 (fg s F.PORT_XPORT_CTL_LIFETIME_US) * 1000

/-- RETRY_US in ns. -/
def retryNs (s : State) : Nat := max 1 (fg s F.PORT_XPORT_CTL_RETRY_US) * 1000

/-- Whether an OP is a response. -/
def isResponse (op : Nat) : Bool := op == 0x02 || op == 0x04 || op == 0x09

/-- Whether the herald table makes a packet of an ID and epoch stale. -/
def heraldStale (s : State) (id epoch : Nat) : Bool :=
  s.xp.heralds.any fun e => e.id == id && ((e.kind == 1 && e.epoch == epoch) || (e.kind == 2 && e.epoch != epoch))

/-- The counter of a packet's drop, if it is dropped. A LINES outside 1 to 16 where Table 12.2 asks for it breaks R298. -/
def dropOf (s : State) (pk : Packet) : Option Fld :=
  let lines := (pk.op == 0x01 || pk.op == 0x03 || pk.op == 0x08) && (decide (pk.lines = 0) || decide (16 < pk.lines))
  if pk.reserved || lines then some F.PORT_XPORT_STATUS_MALFORMED
  else match partOfId s pk.dst with
    | none => some F.PORT_XPORT_STATUS_MISROUTED
    | some p =>
      if pk.time + lifetimeNs s < mer s then some F.PORT_XPORT_STATUS_STALE
      else if isResponse pk.op then (if pk.echo = partEpoch s p then none else some F.PORT_XPORT_STATUS_STALE)
      else if heraldStale s pk.src pk.epoch then some F.PORT_XPORT_STATUS_STALE
      else none

/-- Count a drop at port n. -/
def countDrop (s : State) (n : Nat) (f : Fld) : State :=
  let s := finc s f
  if f = F.PORT_XPORT_STATUS_STALE then updTick s n fun t => { t with stale := t.stale + 1 } else s

/-- A packet of an OP arrives at port n: it is sampled and counted, and dropped or handed to its partition. Nothing arrives at a port that is not ACTIVE, and nothing answers in
device reset (R310). -/
def receive (s : State) (n : Nat) (pk : Packet) (op : Nat) (f : State → Nat → State) : State :=
  if (pk.op ≠ op ∧ pk.reserved = false) ∨ 32 ≤ n ∨ fg s F.PORT_LINK_STATUS_STATE n ≠ portActive ∨ inDeviceReset s = true then s
  else
    let s := updTick (sampleHeader s n pk true) n fun t => { t with rx := t.rx + packetSize pk }
    match dropOf s pk with
    | some c => countDrop s n c
    | none => match partOfId s pk.dst with
      | some p => f s p
      | none => s

/-! ### Sessions at the receiver (R403, R404) -/

/-- What a packet meets under its partition's sessions. -/
inductive Sealed where
  | ok
  | authFail
  | replay
deriving DecidableEq, Repr

/-- Judge a packet's protection; `auth` says whether its tag verifies. A counter outside the receive window is a replay whatever the tag (DESIGN CHOICE). -/
def openPacket (s : State) (p : Nat) (pk : Packet) (auth : Bool) : Sealed × State :=
  let fail := (Sealed.authFail, finc s F.SEC_SESS_ERR_AUTH_FAIL 1 p)
  if !pk.enc then (if confOn s p then fail else (.ok, s))
  else
    match (slotsWith s p pk.src [2, 3]).find? fun k => fg s F.SEC_SLOT_SESSION_ID p k == pk.sess with
    | none => fail
    | some k =>
      let x := session s p k
      if pk.ctr + 4096 < x.rx ∨ pk.ctr ∈ x.seen then (.replay, finc s F.SEC_SESS_ERR_REPLAY 1 p)
      else if !auth then fail
      else
        let rx := max x.rx (pk.ctr + 1)
        (.ok, setSession s p k { x with rx := rx, seen := (x.seen ++ [pk.ctr]).filter fun c => decide (rx ≤ c + 4096) })

/-- A session ends and its keys are erased (R404). -/
def endSession (s : State) (p k : Nat) : State :=
  updKe (clr s .secSlot p k) fun e => { e with sess := SMap.erase e.sess (p * 64 + k) }

/-- Sessions of every partition with a module peer of an ID end where a condition on the peer's epoch holds (R404). -/
def endPeerSessions (s : State) (id : Nat) (cond : Nat → Bool) : State :=
  (List.range 8).foldl (fun s p =>
    (slotsWith s p id [2, 3]).foldl (fun s k => if cond (fg s F.SEC_SLOT_PEER_EPOCH p k) then endSession s p k else s) s) s

/-- A COMPLETE in progress with a module peer of an ID meets its RESET herald (Table 16.10): the slot is FREE, and RESULT is STALE. -/
def staleShakes (s : State) (id : Nat) : State :=
  s.ke.shakes.foldl (fun s (p, v, _) =>
    let k := fieldOf F.SEC_SESS_CTL_SLOT v
    if fieldOf F.SEC_SESS_CTL_OP v = 2 ∧ k ∈ slotsWith s p id [1] then
      fs (updKe (endSession s p k) fun e => { e with shakes := SMap.erase e.shakes p }) F.SEC_SESS_STATUS_RESULT 8 p
    else s) s

/-! ### The target (Table 12.3) -/

/-- Who a packet's access is made by. -/
def packetWho (pk : Packet) : Requester := if pk.unit = 1 then .seam pk.src else .peer pk.src pk.unit pk.tile

/-- The targets of a packet's lines in partition p. -/
def lineTargets (s : State) (p : Nat) (pk : Packet) (write : Bool) : List Target :=
  (List.range pk.lines).map fun i => resolveLocal s (packetWho pk) p (pk.target.toNat + 64 * i) write

/-- The stop of a port's engine (Table 9.1): the south end of a column of its half, at the first (DESIGN CHOICE, log entry 85). -/
def portStop (n : Nat) : Stop := ⟨BitVec.ofNat 2 (n / 8), BitVec.ofNat 5 (9 * (n % 8 / 4) + 1), 17⟩

/-- The status that refuses a whole request at port n (Table 12.3, rows 1, 3 to 6 and 9, and the BUSY of a controller in reset, Table 15.4); row 2 is the caller's. A forward that the network cannot make
fails (R301). -/
def wholeRefusal (s : State) (n : Nat) (pk : Packet) (ts : List Target) : Option Nat :=
  if getBits pk.target 63 44 ≠ 0 then some stSpaceInvalid
  else if (opRefusal ts).isSome then opRefusal ts
  else if ts.any (fun t => match t with | .mem d _ => devHeld s d | _ => false) then some stBusy
  else if (s.tiles.any fun x => x.2.passFail) && ts.any (noRoute s (portStop n)) then some stUnreachable
  else none

/-- Whether a request meets a row that a soft repair holds (R268). -/
def packetHeld (s : State) (pk : Packet) (write : Bool) : Bool :=
  !s.memc.repairs.isEmpty && (partOfId s pk.dst).any fun p => (lineTargets s p pk write).any fun t =>
    match t with
    | .mem d o => rowHeld s d o
    | _ => false

/-- The mask of every line. -/
def allLines (n : Nat) : Nat := 2 ^ n - 1

/-- A response of partition p to a packet. -/
def respond (s : State) (p : Nat) (pk : Packet) (op st mask : Nat) (payload : List Byte) : Packet :=
  { blankPacket s p op pk.src with
    opId := pk.opId, status := st, lineMask := mask, echo := pk.epoch, lines := payload.length / 64, payload := payload,
    w5 := if op = 0x09 then pk.w5 else 0 }

/-- Send a response. -/
def answer (s : State) (p : Nat) (pk : Packet) (op st mask : Nat) (payload : List Byte) : State :=
  sendPacket s p (respond s p pk op st mask payload)

/-- A free byte string of 8 n bytes: what a line that is not delivered carries. -/
def freeBytes : Nat → State → List Byte × State
  | 0, s => ([], s)
  | n + 1, s =>
    let (w, s) := drawFree s
    let (r, s) := freeBytes n s
    (bytesOf 8 w.toNat ++ r, s)

/-- Read a request's lines: the payload and the mask of lines that hold an uncorrectable word. -/
def readPacket (s : State) (p : Nat) : List (Target × Nat) → List Byte × Nat × State
  | [] => ([], 0, s)
  | (t, i) :: ts =>
    match readTarget s (.requester p) t 0 64 id with
    | (.data bs [], s) =>
      let (rest, m, s) := readPacket s p ts
      (bs ++ rest, m, s)
    | (_, s) =>
      let (bs, s) := freeBytes 8 s
      let (rest, m, s) := readPacket s p ts
      (bs ++ rest, m + 2 ^ i, s)

/-- Write a request's lines: the mask of lines refused, and the first status of Table 12.3's rows 7 and 8. -/
def writePacket (s : State) (who : Requester) (bs : List Byte) : List (Target × Nat) → Nat × Nat × State
  | [] => (0, stOK, s)
  | (t, i) :: ts =>
    let (st, s) := writeTarget s who t ((bs.drop (64 * i)).take 64)
    let (m, st', s) := writePacket s who bs ts
    if st = stOK then (m, st', s)
    else (m + 2 ^ i, if st = stWindow ∨ st' = stOK then st else st', s)

/-! ### Duplicates (R305) -/

/-- The entry of the duplicate table for a packet. -/
def dupOf (s : State) (pk : Packet) : Option DupEntry := s.xp.dups.find? fun e => e.src == pk.src && e.epoch == pk.epoch && e.op == pk.opId

/-- Whether a die's duplicate table is full: 131,072 entries. -/
def dupFull (s : State) (die : Nat) : Bool := decide (131072 ≤ countIf (fun (e : DupEntry) => e.die == die) s.xp.dups)

/-- Remember a packet with its completion, in the table of the die whose port received it (DESIGN CHOICE), while it has room. -/
def remember (s : State) (die : Nat) (pk reply : Packet) : State :=
  if dupFull s die then s
  else updXp s fun x => { x with dups := x.dups ++ [{ src := pk.src, epoch := pk.epoch, op := pk.opId, time := mer s, reply := some reply, die := die }] }

/-- How long an entry is remembered, in ns. -/
def dupNs (s : State) : Nat := (fg s F.PORT_XPORT_CTL_RETRIES + 1) * retryNs s + lifetimeNs s

/-- Judge a WR_REQ or COLL_DATA that came through a die under rows 1, 2 and the duplicate table, then run it. `f` answers status, mask and state of a request that is executed; a full duplicate
table answers BUSY where nothing else refuses it (row 10), and BUSY is not remembered. -/
def judgeWrite (s : State) (die p : Nat) (pk : Packet) (auth : Bool) (op : Nat) (refusal : State → Option Nat) (f : State → Nat × Nat × State) : State :=
  if partFenced s p then answer s p pk op stPeerReset (allLines pk.lines) []
  else
    match openPacket s p pk auth with
    | (.replay, s) => s
    | (.authFail, s) => answer s p pk op stAuthFail (allLines pk.lines) []
    | (.ok, s) =>
      match dupOf s pk with
      | some e =>
        match e.reply with
        | some r => sendPacket (finc s F.PORT_XPORT_STATUS_DUPLICATES) p r
        | none => s
      | none =>
        match refusal s with
        | some st =>
          let s := if st = stBusy then s else remember s die pk (respond s p pk op st (allLines pk.lines) [])
          answer s p pk op st (allLines pk.lines) []
        | none =>
          let (st, mask, s') := f s
          if dupFull s die ∧ st = stOK then answer s p pk op stBusy (allLines pk.lines) []
          else
            let s := if st = stBusy then s' else remember s' die pk (respond s' p pk op st mask [])
            answer s p pk op st mask []

/-! ### The ends of operations -/

/-- The lowest line that a response refuses. -/
def firstBad (mask : Nat) : Nat := ((List.range 16).find? fun i => mask / 2 ^ i % 2 == 1).getD 0

/-- An operation of a core's request is answered: data lands, and the first failure in address order is kept (R303). -/
def haulOpDone (s : State) (o : RemOp) (key req st mask : Nat) (bs : List Byte) : State :=
  let c := coreOfKey key
  match taskOf s c.tile, (coreAt s c).haul.find? fun r => r.id == req with
  | some (_, t), some r =>
    let off := o.la - r.addr.toNat % 2 ^ 44
    let bad := ((List.range o.lines).filter fun i => mask / 2 ^ i % 2 == 1).map (64 * ·)
    let s := if !r.put && (st == stOK || st == stUncorrectable) && !bs.isEmpty then landData s t c.tile (r.store + off) bs bad else s
    let at_ := r.addr.toNat + off + 64 * firstBad mask
    updCore s c fun k => { k with haul := k.haul.map fun q =>
      if q.id ≠ req then q
      else
        let q := { q with ops := q.ops.filter (· != o.id) }
        if st ≠ stOK ∧ (q.err = 0 ∨ at_ < q.errAt) then { q with err := st, errAt := at_ } else q }
  | _, _ => s

/-- Bytes that a response has brought for an engine. -/
def putArrived (s : State) (id la : Nat) (bs : List Byte) : State :=
  updXp s fun x => { x with arrived := (bs.zipIdx).foldl (fun m (b, i) => SMap.set m (arrivedKey id la + i) b) x.arrived }

/-! ### Rejoins (R381 to R383) -/

/-- Change the Overman's part of the state. -/
def updOm (s : State) (f : Overman → Overman) : State := { s with om := f s.om }

/-- Whether an operation is a weight read of partition p. -/
def RemOp.isWeight (p : Nat) (o : RemOp) : Bool :=
  match o.why with
  | .weights q _ => q == p
  | _ => false

/-- A rejoin ends with a RESULT (Table 15.17): STAGE is 5 for DONE, else 6, and a REJOIN record is written (R383). -/
def rejoinEnd (s : State) (p r : Nat) : State :=
  let stage := fg s F.GUARD_REJOIN_STATUS_STAGE p
  let s := fs (fs s F.GUARD_REJOIN_STATUS_STAGE (if r = 1 then 5 else 6) p) F.GUARD_REJOIN_STATUS_RESULT r p
  let s := updOm s fun o => { o with rejoins := SMap.erase o.rejoins p }
  let s := updXp s fun x => { x with ops := x.ops.filter fun o => !o.isWeight p }
  emit s ({ blankRec s 0x19 r 0 with aux := BitVec.ofNat 64 stage, aux2 := BitVec.ofNat 64 (fg s F.GUARD_REJOIN_COUNT_FAILED p) }.ofPart s p)

/-- Change a partition's rejoin. -/
def updRejoin (s : State) (p : Nat) (f : Rejoin → Rejoin) : State := { s with om := { s.om with rejoins := SMap.modify s.om.rejoins p f } }

/-- A weight read is answered: its lines are written, or the stage has failed (R383). -/
def weightDone (s : State) (p dst st : Nat) (bs : List Byte) : State :=
  if st ≠ stOK then updRejoin s p fun r => { r with bad := true }
  else
    let ((w, _), s) := writeGlobal s (.engine p) p (BitVec.ofNat 64 dst) bs
    if w = stOK then s else updRejoin s p fun r => { r with bad := true }

/-- An operation completes with a status: it is no longer outstanding, and what it serves takes the outcome. -/
def opEnd (s : State) (o : RemOp) (st mask : Nat) (bs : List Byte) : State :=
  match o.why with
  | .coll _ _ _ _ => collOpDone s o st
  | _ =>
    let s := updXp s fun x => { x with ops := x.ops.filter fun q => q.id != o.id }
    match o.why with
    | .haul c r => haulOpDone s o c r st mask bs
    | .engine =>
      if o.write then s
      else if st = stOK then putArrived s o.dst o.la bs
      else updXp s fun x => { x with failed := x.failed ++ [(o.dst, o.la, st)] }
    | .dma r ix => dmaOpDone s o r ix st
    | .contrail p sid id => if st = stOK then trailNext s id else trailError s p sid id
    | .frame p sid leaf =>
      if st = stOK then s
      else updSeam s fun (x : Seam) => { x with moves := x.moves.map fun m =>
        if m.part = p ∧ m.sid = sid ∧ m.leaf = leaf then { m with bad := true } else m }
    | .weights p dst => weightDone s p dst st bs
    | .query p sid => if st = stOK then s else updSeam s fun (x : Seam) => { x with qfail := x.qfail ++ [(p, sid)] }
    | .coll _ _ _ _ => s

/-- The first held operation that no earlier operation of its core to its lines precedes (R307). -/
def releasable (s : State) : Option RemOp :=
  (s.xp.ops.zipIdx.find? fun (o, i) => o.held && !(s.xp.ops.take i).any fun q => q.core? == o.core? && sameLine q o).map (·.1)

/-- Held operations whose turn has come are sent, or complete at once where nothing can be sent. -/
def releaseOps : Nat → State → State
  | 0, s => s
  | n + 1, s =>
    match releasable s with
    | none => s
    | some o =>
      match sendRefusal s o.part o.dst with
      | some st => releaseOps n (opEnd s o st (allLines o.lines) [])
      | none => releaseOps n (sendOp s o)

/-- Weight reads in flight at once: over the partition, and on each port (Table 15.13). -/
def weightWindow : Nat := 32768

/-- Whether another weight read of partition p may be started to an ID: fewer than 32,768 are in flight, and fewer than 1,024 on the port that it would take. -/
def weightRoom (s : State) (p id : Nat) : Bool :=
  let mine := s.xp.ops.filter (·.isWeight p)
  decide (mine.length < weightWindow) &&
    match choosePort s p id [] with
    | some (n, _) => decide ((mine.filter fun o => o.planes.getLast? == some n).length < 1024)
    | none => true

/-- Issue weight reads in entry order while there is room (R383). -/
def issueWeights : Nat → State → Nat → State
  | 0, s, _ => s
  | n + 1, s, p =>
    match SMap.find s.om.rejoins p with
    | some r =>
      match r.todo with
      | (id, la, dst, len) :: rest =>
        if !weightRoom s p id then s
        else
          let s := updRejoin s p fun r => { r with todo := rest }
          match resolve s (.engine p) p (BitVec.ofNat 64 (2 ^ 62 + id * 2 ^ 44 + la)) false with
          | .remote _ _ =>
            match sendRefusal s p id with
            | some _ => issueWeights n (updRejoin s p fun r => { r with bad := true }) p
            | none => issueWeights n (issueOp s p id la false (len / 64) [] 2 0 (.weights p dst)).2 p
          | _ =>
            match readGlobal s (.engine p) p (BitVec.ofNat 64 (2 ^ 62 + id * 2 ^ 44 + la)) len with
            | (.data bs [], s) => issueWeights n (weightDone s p dst stOK bs) p
            | (_, s) => issueWeights n (weightDone s p dst stUncorrectable []) p
      | [] => s
    | none => s

/-- Whether a rejoin plan keeps the layout of Table 15.12. -/
def planOk (w : List Word) : Bool :=
  decide (db w 0 63 60 = 5) && decide (db w 0 59 45 = 0) && decide (1 ≤ db w 0 44 40) && decide (db w 0 44 40 ≤ 16) && decide (db w 0 39 32 = 0) &&
  decide (db w 1 4 0 = 0) && decide (db w 2 63 35 = 0) && decide (db w 2 33 32 ≤ 1) && decide (db w 3 5 0 = 0) && decide (db w 4 63 32 = 0) &&
  decide (db w 5 63 0 = 0) && decide (db w 6 63 0 = 0) && decide (db w 7 63 0 = 0)

/-- Whether a weight entry keeps its layout (R381): SRC with tag 0b01, DST a local address of Tier 1 or Tier 2, LENGTH a multiple of 64, and word 3 zero. -/
def weightOk (w : List Word) : Bool :=
  decide (db w 0 63 62 = 1) && decide (db w 0 5 0 = 0) && decide (db w 1 63 44 = 0) && decide (db w 1 5 0 = 0) && decide (db w 1 43 0 < tileBase) &&
  decide (db w 2 63 32 = 0) && decide (db w 2 5 0 = 0) && decide (db w 3 63 0 = 0)

/-- The reads of a weight entry: device ID, address, destination, bytes. -/
def weightPieces (w : List Word) : List (Nat × Nat × Nat × Nat) :=
  let la := db w 0 43 0
  let n := db w 2 31 0
  (opPieces (n / 1024 + 2) la n).map fun (a, k) => (db w 0 61 44, a, db w 1 43 0 + (a - la), k)

/-- Cut bytes into entries of n words. -/
def entriesOf (n : Nat) : Nat → List Byte → List (List Word)
  | 0, _ => []
  | k + 1, bs => wordsOf n bs :: entriesOf n k (bs.drop (8 * n))

/-- Entries whose every read has ended (DONE of Table 15.17). -/
def weightsDone (s : State) (p : Nat) (r : Rejoin) : Nat :=
  let live := r.todo.map (·.2.2.1) ++ s.xp.ops.filterMap fun o =>
    match o.why with
    | .weights q dst => if q = p then some dst else none
    | _ => none
  countIf (fun (w : List Word) => !(live.any fun d => inRange d (db w 1 43 0) (db w 2 31 0))) (r.entries.getD [])

/-- The plan and, from stage 2 on, the weight entries of a rejoin are read and checked (R381); what a peer holds is waited for. A plan that cannot be read breaks its layout,
and entries that cannot be read end stage 2 (DESIGN CHOICE). -/
def readPlan (s : State) (p : Nat) (r : Rejoin) : State :=
  match r.plan with
  | none =>
    match engineRead s p (rd s .guardRejoinPlan p) 64 with
    | (.wait, s) => s
    | (.refused _ _, s) => rejoinEnd s p 8
    | (.data bs, s) =>
      let w := wordsOf 8 bs
      if planOk w then updRejoin s p fun r => { r with plan := some w } else rejoinEnd s p 8
  | some w =>
    if r.entries.isSome ∨ fg s F.GUARD_REJOIN_STATUS_STAGE p ≠ 2 then s
    else
      let n := db w 0 31 0
      match (if n = 0 then (Fetch.data [], s) else engineRead s p (dw w 1) (32 * n)) with
      | (.wait, s) => s
      | (.refused _ _, s) => rejoinEnd s p 3
      | (.data bs, s) =>
        let es := entriesOf 4 n bs
        if es.all weightOk then updRejoin s p fun r => { r with entries := some es, todo := es.flatMap weightPieces } else rejoinEnd s p 8

/-- A rejoin goes on with what has arrived. -/
def rejoinPump (s : State) (p : Nat) : State :=
  let step := fun (s : State) =>
    match SMap.find s.om.rejoins p with
    | some r => readPlan s p r
    | none => s
  let s := step (step s)
  match SMap.find s.om.rejoins p with
  | none => s
  | some r =>
    if fg s F.GUARD_REJOIN_STATUS_STAGE p ≠ 2 then s
    else
      let s := issueWeights r.todo.length s p
      match SMap.find s.om.rejoins p with
      | some r => fs s F.GUARD_REJOIN_STATUS_DONE (weightsDone s p r) p
      | none => s

/-- The rejoins go on with what has arrived. -/
def pumpWeights (s : State) : State := s.om.rejoins.foldl (fun s (p, _) => rejoinPump s p) s

/-- After an operation's end: held operations are released, DMA rings and weight copies go on. -/
def afterOp (s : State) : State := pumpWeights (dmaPump (releaseOps s.xp.ops.length s))

/-- Operations of a partition that has no home port complete at once with NO_PLANE (R299); those to a device ID of this module need none. -/
def strand (s : State) : State :=
  let lost := s.xp.ops.filter fun o => (homePorts s o.part).isEmpty && (partOfId s o.dst).isNone
  if lost.isEmpty then s
  else afterOp (lost.foldl (fun s o => if s.xp.ops.any fun q => q.id == o.id then opEnd s o stNoPlane (allLines o.lines) [] else s) s)

/-- Complete an operation. -/
def completeOp (s : State) (o : RemOp) (st mask : Nat) (bs : List Byte) : State := afterOp (opEnd s o st mask bs)

/-- Resend an operation (R305); one to a device ID of this module is judged again without leaving it (R296). -/
def resend (s : State) (o : RemOp) : State :=
  if (partOfId s o.dst).isSome then
    let s := updOp (finc s F.PORT_XPORT_ERR_RESENDS) o.id fun o => { o with sends := o.sends + 1, sentAt := mer s }
    if s.xp.inbox.any fun pk => pk.opId == o.id && pk.op == o.opCode then s else deliver s o.part (o.packet s)
  else
  let s := sendOp (finc s F.PORT_XPORT_ERR_RESENDS) o
  match (s.xp.ops.find? fun q => q.id == o.id).bind fun q => q.planes.getLast? with
  | some n => updTick s n fun t => { t with resends := t.resends + 1 }
  | none => s

/-- The exclusions in force, up to 2,047, show in PORT_XPORT_ERR. -/
def showExcl (s : State) : State := fs s F.PORT_XPORT_ERR_EXCLUSIONS (min 2047 s.xp.excl.length)

/-- Exclude an ID's plane (R300): the cache of the port's die holds 1,024 entries, the oldest replaced first. -/
def exclude (s : State) (id n : Nat) : State :=
  let ends := mer s + fg s F.PORT_XPORT_CTL_EXCLUDE_MS * 1000000
  let l := s.xp.excl.filter fun (d, k, _) => !(d == id && k == n)
  let die := l.filter fun (_, k, _) => k / 8 == n / 8
  let l := if 1024 ≤ die.length then l.erase (die.headD (0, 0, 0)) else l
  showExcl (updXp s fun x => { x with excl := l ++ [(id, n, ends)] })

/-- A request has had no response (R305): it is resent, or after RETRIES resends ends with PEER_TIMEOUT and the planes it used are excluded (R300). -/
def opTimeout (s : State) (o : RemOp) : State :=
  match sendRefusal s o.part o.dst with
  | some st => completeOp s o st (allLines o.lines) []
  | none =>
    if o.sends ≤ fg s F.PORT_XPORT_CTL_RETRIES then resend s o
    else completeOp (o.planes.foldl (fun s n => exclude s o.dst n) (finc s F.PORT_XPORT_ERR_TIMEOUTS)) o stPeerTimeout (allLines o.lines) []

/-- A response is taken by its operation; a late one is dropped, and BUSY makes the requester resend while resends are left (R305). `kind` selects reads, writes or collective packets. -/
def takeResponse (s : State) (p : Nat) (pk : Packet) (auth : Bool) (kind : RemOp → Bool) : State :=
  match openPacket s p pk auth with
  | (.ok, s) =>
    match s.xp.ops.find? fun o => o.id == pk.opId && o.part == p && o.dst == pk.src && kind o && decide (0 < o.sends) with
    | none => s
    | some o =>
      if pk.status = stBusy then (if o.sends ≤ fg s F.PORT_XPORT_CTL_RETRIES ∧ (sendRefusal s p o.dst).isNone = true then resend s o else s)
      else completeOp s o pk.status pk.lineMask pk.payload
  | (_, s) => s

end Sys2Proof.Machine
end

