-- ==== Sys2Proof/Machine/Transport.lean ====
section
/-! DEFINITION. The commands of the transport (chapter 12): received packets, heralds, retries, beacons and the discipline of time, device IDs and collective
tables. -/

namespace Sys2Proof.Machine

/-! ### Requests and responses -/

/-- What a packet of an OP that arrives at port n does (R304 to R306, R314, R315); `auth` says whether its tag verifies. A read duplicate is executed again (R305), and a WR_CMP is the remote
ordering point of its write. -/
def requestIn (s : State) (n op : Nat) (pk : Packet) (auth : Bool) : State :=
  receive s n pk op fun s p =>
    if op = 0x01 then
      if partFenced s p then answer s p pk 0x02 stPeerReset (allLines pk.lines) []
      else
        match openPacket s p pk auth with
        | (.replay, s) => s
        | (.authFail, s) => answer s p pk 0x02 stAuthFail (allLines pk.lines) []
        | (.ok, s) =>
          let ts := lineTargets s p pk false
          match wholeRefusal s n pk ts with
          | some st => answer s p pk 0x02 st (allLines pk.lines) []
          | none =>
            let (bs, mask, s) := readPacket s p ts.zipIdx
            answer s p pk 0x02 (if mask = 0 then stOK else stUncorrectable) mask bs
    else if op = 0x03 then
      judgeWrite s (n / 8) p pk auth 0x04 (fun s => wholeRefusal s n pk (lineTargets s p pk true)) fun s =>
        let (mask, st, s) := writePacket s (packetWho pk) pk.payload (lineTargets s p pk true).zipIdx
        (st, mask, s)
    else
      judgeWrite s (n / 8) p pk auth 0x09 (fun _ => none) fun s =>
        let (st, s) := collDataIn s p pk
        (st, if st = stOK then 0 else allLines pk.lines, s)

/-- Whether an operation carries a packet of a collective. -/
def RemOp.isColl (o : RemOp) : Bool :=
  match o.why with
  | .coll _ _ _ _ => true
  | _ => false

/-- What a response of an OP that arrives at port n does (R305, R314, R315). -/
def responseIn (s : State) (n op : Nat) (pk : Packet) (auth : Bool) : State :=
  receive s n pk op fun s p =>
    takeResponse s p pk auth fun o => if op = 0x02 then !o.write else if op = 0x04 then o.write && !o.isColl else o.isColl

/-- RD_REQ_RECEIVE (R304, R305). -/
def execRdReqReceive (n : Nat) (pk : Packet) (auth : Bool) (s : State) : Ans :=
  finish (if packetHeld s pk false then s else requestIn s n 0x01 pk auth)

/-- WR_REQ_RECEIVE (R304 to R306). -/
def execWrReqReceive (n : Nat) (pk : Packet) (auth : Bool) (s : State) : Ans :=
  finish (if packetHeld s pk true then s else requestIn s n 0x03 pk auth)

/-- RD_RESP_RECEIVE (R305, R306). -/
def execRdRespReceive (n : Nat) (pk : Packet) (auth : Bool) (s : State) : Ans := finish (responseIn s n 0x02 pk auth)

/-- WR_CMP_RECEIVE (R305, R306): the remote ordering point of a write. -/
def execWrCmpReceive (n : Nat) (pk : Packet) (auth : Bool) (s : State) : Ans := finish (responseIn s n 0x04 pk auth)

/-- COLL_DATA_RECEIVE (R305, R314). -/
def execCollDataReceive (n : Nat) (pk : Packet) (auth : Bool) (s : State) : Ans := finish (requestIn s n 0x08 pk auth)

/-- COLL_ACK_RECEIVE (R314, R315). -/
def execCollAckReceive (n : Nat) (pk : Packet) (auth : Bool) (s : State) : Ans := finish (responseIn s n 0x09 pk auth)

/-- OP_RETRY_TIMEOUT (R300, R305). -/
def execOpRetryTimeout (op : Nat) (s : State) : Ans :=
  finish (match s.xp.ops.find? fun o => o.id == op with
    | none => s
    | some o => if o.held then s else opTimeout (advanceToNs s (o.sentAt + retryNs s)) o)

/-- EXCLUSION_EXPIRE (R300). -/
def execExclusionExpire (dev : BitVec 18) (plane : Nat) (s : State) : Ans :=
  finish (match s.xp.excl.find? fun (d, k, _) => d == dev.toNat && k == plane with
    | none => s
    | some (d, k, t) => showExcl (updXp (advanceToNs s t) fun x => { x with excl := x.excl.filter (· != (d, k, t)) }))

/-- DUPLICATE_ENTRY_EXPIRE (R305). -/
def execDuplicateEntryExpire (src : BitVec 18) (epoch : BitVec 8) (op : BitVec 32) (s : State) : Ans :=
  let is := fun (e : DupEntry) => e.src == src.toNat && e.epoch == epoch.toNat && e.op == op.toNat
  finish (match s.xp.dups.find? is with
    | none => s
    | some e => updXp (advanceToNs s (e.time + dupNs s)) fun x => { x with dups := x.dups.filter fun e => !is e })

/-! ### Heralds (R308, R309, R377) -/

/-- Put the latest herald of an ID into the herald table of 1,024 entries (R309). -/
def noteHerald (s : State) (id epoch kind : Nat) : State :=
  updXp s fun x =>
    let l := x.heralds.filter fun e => e.id != id
    { x with heralds := (if 1024 ≤ l.length then l.drop 1 else l) ++ [{ id := id, epoch := epoch, kind := kind, time := mer s }] }

/-- The remote pools that a device ID grants, as partition and pool (R377). -/
def poolsOf (s : State) (id : Nat) : List (Nat × Nat) :=
  (List.range 32).filterMap fun k =>
    let b := rd s .seamRemoteBase (k / 4) (k % 4)
    if fb s F.SEAM_REMOTE_CFG_EN (k / 4) (k % 4) ∧ getBits b 63 62 = 1 ∧ getBits b 61 44 = id then some (k / 4, k % 4) else none

/-- What a RESET herald from an ID does (R309, R377, R404). -/
def heraldReset (s : State) (p id epoch : Nat) : State :=
  let s := noteHerald (finc s F.PORT_PART_HERALD_RESETS_RX 1 p) id epoch 1
  let s := staleShakes (endPeerSessions s id fun _ => true) id
  let s := (poolsOf s id).foldl (fun s (q, i) => endPool s q i) s
  let s := collPeerLost s id
  afterOp ((s.xp.ops.filter fun o => o.dst == id).foldl (fun s o =>
    if s.xp.ops.any fun q => q.id == o.id then opEnd s o stPeerReset (allLines o.lines) [] else s) s)

/-- What a RETURN herald from an ID does (R309, R377, R404). -/
def heraldReturn (s : State) (p id epoch : Nat) : State :=
  let s := noteHerald (finc s F.PORT_PART_HERALD_RETURNS_RX 1 p) id epoch 2
  let s := endPeerSessions s id fun e => decide (e ≠ epoch)
  (poolsOf s id).foldl (fun s (q, i) => if SMap.find s.seam.epochs (q * 4 + i) = some epoch then s else endPool s q i) s

/-- A herald of a kind arrives at port n (R309, R377). -/
def heraldIn (s : State) (n : Nat) (pk : Packet) (kind : Nat) : State :=
  receive s n pk 0x0C fun s p =>
    if pk.hkind ≠ kind then s else if kind = 1 then heraldReset s p pk.src pk.epoch else heraldReturn s p pk.src pk.epoch

/-- HERALD_RESET_RECEIVE (R309). -/
def execHeraldResetReceive (n : Nat) (pk : Packet) (s : State) : Ans := finish (heraldIn s n pk 1)

/-- HERALD_RETURN_RECEIVE (R377). -/
def execHeraldReturnReceive (n : Nat) (pk : Packet) (s : State) : Ans := finish (heraldIn s n pk 2)

/-- The IDs of a partition's herald list: 32-bit entries at a local address, those that can be read (R308). -/
def heraldList (s : State) (p : Nat) : List Nat × State :=
  let n := fg s F.PORT_HERALD_LIST_COUNT p
  match readGlobal s (.engine p) p (BitVec.ofNat 64 (fg s F.PORT_HERALD_LIST_BASE p * 64)) (4 * n) with
  | (.data bs [], s) => ((List.range n).map fun k => ofBytes ((bs.drop (4 * k)).take 4) % 2 ^ 18, s)
  | (_, s) => ([], s)

/-- The IDs to which partition p sends its heralds (R308). -/
def heraldSet (s : State) (p : Nat) : List Nat × State :=
  let (l, s) := heraldList s p
  let holders := (List.range 4).filterMap fun i => if fb s F.SEAM_LEASE_CFG_EN p i then some (fg s F.SEAM_LEASE_CFG_HOLDER p i) else none
  let granters := (List.range 4).filterMap fun i =>
    let b := rd s .seamRemoteBase p i
    if fb s F.SEAM_REMOTE_CFG_EN p i ∧ getBits b 63 62 = 1 then some (getBits b 61 44) else none
  ((l ++ holders ++ granters).eraseDups, s)

/-- The IDs for partition p's heralds of a kind: those of RETURN are the ones that got RESET, where it was sent (R308). -/
def heraldIds (s : State) (p kind : Nat) : List Nat × State :=
  match SMap.find s.xp.told p with
  | some ids => if kind = 2 then (ids, updXp s fun x => { x with told := SMap.erase x.told p }) else heraldSet s p
  | none => heraldSet s p

/-- Send partition p's heralds of a kind on every home port; one to a partition of this module is judged without leaving it (R296). -/
def sendHeralds (s : State) (p kind : Nat) : State :=
  match devId s p with
  | none => s
  | some me =>
    let (ids, s) := heraldIds s p kind
    let s := if kind = 1 then updXp s fun x => { x with told := SMap.set x.told p ids } else s
    (ids.filter (· != me)).foldl (fun s id =>
      match partOfId s id with
      | some q => if kind = 1 then heraldReset s q me (partEpoch s p) else heraldReturn s q me (partEpoch s p)
      | none => (homePorts s p).foldl (fun s n => sendOn s n { blankPacket s p 0x0C id with hkind := kind }) s) s

/-! ### Device IDs and collective tables -/

/-- Whether partition p is held or holds no section (R294). -/
def idOpen (s : State) (p : Nat) : Bool := partHeld s p || !partExists s p

/-- PORT_DEVID_WRITE (R294, R374). -/
def execPortDevidWrite (f : Func) (p : Nat) (v : Word) (s : State) : Ans :=
  let id := fieldOf F.PORT_DEVID_ID v
  let valid := fieldOf F.PORT_DEVID_VALID v = 1
  finish (if f ≠ .pf ∨ isPriv s f = false ∨ 8 ≤ p then s
    else
      let s := if fieldOf F.PORT_DEVID_CFG_ERR v = 1 then fs s F.PORT_DEVID_CFG_ERR 0 p else s
      if !idOpen s p then s
      else if valid ∧ (id = 0 ∨ id = 0x3FFFF ∨ (List.range 8).any (fun q => q != p && devId s q == some id) = true) then
        fs (fs s F.PORT_DEVID_VALID 0 p) F.PORT_DEVID_CFG_ERR 1 p
      else
        let s := fs (fs s F.PORT_DEVID_ID id p) F.PORT_DEVID_VALID (fieldOf F.PORT_DEVID_VALID v) p
        if valid ∧ p ∈ s.xp.owed then sendHeralds (updXp s fun x => { x with owed := x.owed.filter (· != p) }) p 2 else s)

/-- Enable a collective table (R311, R312): each descriptor is checked and counts its trigger gate's rise from now. -/
def enableColls (s : State) (p : Nat) : State :=
  (List.range (fg s F.PORT_COLL_TABLE_ENTRIES p + 1)).foldl (fun s i =>
    let (d, s) := match collDescRead s p i with
      | (some (ws, ids), s) => (({ base := gate s p (db ws 0 44 35), next := 0, bad := !collValid s p ws ids } : CollDesc), s)
      | (none, s) => ({ base := 0, next := 0, bad := true }, s)
    updXp s fun x => { x with collDesc := SMap.set x.collDesc (collKey p i) d }) s

/-- COLL_TABLE_WRITE (R311, Table 12.10). -/
def execCollTableWrite (f : Func) (p : Nat) (v : Word) (s : State) : Ans :=
  finish (if !mayAct s f p || decide (8 ≤ p) then s
    else
      let was := fb s F.PORT_COLL_TABLE_EN p
      let s := writeReg s .portCollTable v (-1) p
      if fb s F.PORT_COLL_TABLE_EN p then (if was then s else enableColls s p)
      else updXp s fun x => { x with collDesc := SMap.keep x.collDesc fun k _ => k / 256 != p })

/-! ### Beacons and the time base (R316, R433, R434) -/

/-- The ports that run now. -/
def activePorts (s : State) : List Nat := (List.range 32).filter fun n => portEnabled s n && decide (fg s F.PORT_LINK_STATUS_STATE n = portActive)

/-- A port's latest exchange. -/
def beacon (s : State) (n : Nat) : Beacon := SMap.get { sent := none, off := 0, delay := 0, at_ := none } s.sync.beacons n

/-- Replace a port's latest exchange. -/
def setBeacon (s : State) (n : Nat) (b : Beacon) : State := { s with sync := { s.sync with beacons := SMap.set s.sync.beacons n b } }

/-- The first partition with a valid device ID: beacons carry its ID (DESIGN CHOICE; a response comes back to it). -/
def firstPart (s : State) : Nat := ((List.range 8).find? fun p => (devId s p).isSome).getD 0

/-- BEACON_EXCHANGE (R316): a request leaves on every ACTIVE port. -/
def execBeaconExchange (s : State) : Ans :=
  finish ((activePorts s).foldl (fun s n =>
    queuePacket (setBeacon s n (beacon s n)) n { blankPacket s (firstPart s) 0x0D 0 with plane := n }) s)

/-- A beacon's response arrives at port n (R310, R316): offset and path delay, rounded down. -/
def beaconIn (s : State) (n : Nat) (pk : Packet) : State :=
  if (pk.op ≠ 0x0E ∧ pk.reserved = false) ∨ 32 ≤ n ∨ fg s F.PORT_LINK_STATUS_STATE n ≠ portActive ∨ inDeviceReset s = true then s
    else
      let s := sampleHeader s n pk true
      if pk.reserved then countDrop s n F.PORT_XPORT_STATUS_MALFORMED
      else if (partOfId s pk.dst).isNone then countDrop s n F.PORT_XPORT_STATUS_MISROUTED
      else if pk.time + lifetimeNs s < mer s then countDrop s n F.PORT_XPORT_STATUS_STALE
      else match (beacon s n).sent with
        | none => s
        | some t1 =>
          let t4 : Int := mer s
          let t2 : Int := pk.w5.toNat
          let t3 : Int := pk.bound.toNat
          setBeacon s n { sent := none, off := ((t2 - t1) + (t3 - t4)) / 2, delay := ((t4 - t1) - (t3 - t2)) / 2, at_ := some (mer s) }

/-- BEACON_RESP_RECEIVE (R310, R316). -/
def execBeaconRespReceive (n : Nat) (pk : Packet) (s : State) : Ans := finish (beaconIn s n pk)

/-- BEACON_US in ns. -/
def beaconNs (s : State) : Nat := max 1 (fg s F.PORT_TIME_CTL_BEACON_US) * 1000

/-- The offsets of the ports that qualify, sorted. -/
def qualifying (s : State) : List Int :=
  sortBy (fun a b => decide (a < b)) ((activePorts s).filterMap fun n =>
    let b := beacon s n
    match b.at_ with
    | some t => if mer s ≤ t + 4 * beaconNs s ∧ b.delay ≤ fg s F.PORT_TIME_CTL_DELAY_MAX_NS then some b.off else none
    | none => none)

/-- The Tick schedule follows a Meridian time that has been set: the present Tick opened at the last boundary at or before it (R29, R435). -/
def reanchor (s : State) : State :=
  let b := mer s - (((mer s : Int) - s.clk.origin) % ((period s * 1000 : Nat) : Int)).toNat
  { s with clk := { s.clk with tickMer := b, tickCyc := s.clk.cyc - (mer s - b) * 17 / 10 } }

/-- Move Meridian time by a number of ns. -/
def shiftMer (s : State) (d : Int) : State := setMer s ((mer s : Int) + d).toNat

/-- Enter a Meridian state (Table 18.4). -/
def timeState (s : State) (k : Nat) : State :=
  if fg s F.CLK_TIME_STATUS_STATE = k then s
  else fs (fs { s with sync := { s.sync with hold := mer s } } F.CLK_TIME_STATUS_STATE k) F.CLK_TIME_STATUS_HOLDOVER_MS 0

/-- No port qualifies (R316, R434): holdover after 4 × BEACON_US, with the last correction. -/
def holdover (s : State) : State :=
  let s := fs s F.PORT_TIME_STATUS_PORTS_USED 0
  let st := fg s F.CLK_TIME_STATUS_STATE
  if st = 0 then s
  else
    let s := if st = 1 ∧ s.sync.good + 4 * beaconNs s ≤ mer s then timeState s 2 else s
    if 2 ≤ fg s F.CLK_TIME_STATUS_STATE then
      let s := fs s F.PORT_TIME_STATUS_HOLDOVER 1
      shiftMer (fs s F.CLK_TIME_STATUS_HOLDOVER_MS (min ((mer s - s.sync.hold) / 1000000) (2 ^ 32 - 1))) s.sync.corr
    else s

/-- Discipline the time base by the median offset of n ports: a slew of at most 100 ppm of BEACON_US, or a step (R316). -/
def discipline (s : State) (off : Int) (n : Nat) : State :=
  let s := fs (fs (fs s F.PORT_TIME_STATUS_OFFSET_NS (off % 2 ^ 32).toNat) F.PORT_TIME_STATUS_PORTS_USED n) F.PORT_TIME_STATUS_HOLDOVER 0
  let s := timeState { s with sync := { s.sync with good := mer s } } 1
  if 1000 < off.natAbs ∧ fb s F.TGE_ADMIT_CTL_EN = false then
    reanchor (shiftMer { s with sync := { s.sync with corr := 0 } } off)
  else
    let lim : Int := (beaconNs s / 10000 : Nat)
    let c := max (-lim) (min lim off)
    shiftMer { s with sync := { s.sync with corr := c } } c

/-- MERIDIAN_DISCIPLINE (R316, R434): every BEACON_US, the lower middle of the qualifying offsets is taken. -/
def execMeridianDiscipline (s : State) : Ans :=
  finish (
    let s := advanceToNs s (s.sync.last + beaconNs s)
    let s := { s with sync := { s.sync with last := mer s } }
    let l := qualifying s
    match l[(l.length - 1) / 2]? with
    | some off => if fb s F.CLK_REF_STATUS_FABRIC_LOST then holdover s else discipline s off l.length
    | none => holdover s)

end Sys2Proof.Machine
end

