-- ==== Sys2Proof/Machine/ResetOps.lean ====
section
/-! DEFINITION. Containment (chapter 15): levels, fences, partition resets, the reset of the module, and the requests for them. -/

namespace Sys2Proof.Machine

/-- A platform event message on the management interface (R453): an event code and a value; its bytes beyond the PLDM type and command are DESIGN CHOICE. -/
def platformEvent (s : State) (code x : Nat) : State :=
  { s with outs := s.outs ++ [.mgmt [0x02, 0x0A, BitVec.ofNat 8 code, BitVec.ofNat 8 x]] }

/-- PSTORE_BOOT.RESULT takes a value; a change raises a platform event (R453). -/
def bootResult (s : State) (r : Nat) : State :=
  if fg s F.PSTORE_BOOT_RESULT = r then s else platformEvent (fs s F.PSTORE_BOOT_RESULT r) 4 r

/-! ### The level in progress (Table 15.18) -/

/-- Whether the boot has halted (R419) or the rails are down. -/
def halted (s : State) : Bool := decide (fg s F.PSTORE_BOOT_RESULT = 3) || !s.om.powered

/-- Whether a power cycle has been requested. -/
def cycling (s : State) : Bool := s.om.power.any fun r => r.reset

/-- The partitions that reset. -/
def resetting (s : State) : List Nat := (List.range 8).filter fun p => decide ((part s p).phase ≠ 0)

/-- The level in progress, encoded as LEVEL; 0 none. A halted module stays in reset. -/
def levelNow (s : State) : Nat :=
  if cycling s then 5
  else if s.om.boot.isSome || halted s then 4
  else if !(resetting s).isEmpty then 3
  else if !s.fenced.isEmpty then 2
  else 0

/-- GUARD_RESET_STATUS shows the level in progress and the partitions that reset. -/
def showBusy (s : State) : State :=
  let l := levelNow s
  let s := fs (fs s F.GUARD_RESET_STATUS_BUSY (if l = 0 then 0 else 1)) F.GUARD_RESET_STATUS_LEVEL l
  fs s F.GUARD_RESET_STATUS_RESETTING ((resetting s).foldl (fun a p => a + 2 ^ p) 0)

/-- Set or clear the HELD bit of a partition. -/
def setHeld (s : State) (p : Nat) (on : Bool) : State := wr s .guardResetStatus (setBit (rd s .guardResetStatus) p on)

/-! ### Rejoin holds (R380) -/

/-- The partition is held for rejoin, or not. -/
def rejoinHold (s : State) (p : Nat) (on : Bool) : State := fs s F.GUARD_REJOIN_STATUS_HELD on.toNat p

/-- A stream that a rejoin has restored is discarded (R385): what it holds in the module is free again, and nothing is sent to the partner. -/
def discardStream (s : State) (p sid : Nat) : State :=
  let ts := (mirTables s p (entryRaw s p sid)).1.map (· / 4096)
  let s := updSeam s fun (x : Seam) => { x with blocks := SMap.set x.blocks p ((SMap.get [] x.blocks p).filter fun b => !ts.contains b) }
  let s := freeStream s p sid
  putEntry s p sid (freedEntry (entryRaw s p sid))

/-- A rejoin in progress ends with a RESULT other than DONE; its progress is discarded (R385). -/
def rejoinStop (s : State) (p r : Nat) : State :=
  match SMap.find s.om.rejoins p with
  | none => s
  | some x =>
    let half := match x.streams with
      | some (k :: _) => if eState (entryRaw s p k) = sRestoring then [k] else []
      | _ => []
    rejoinEnd ((half ++ x.trim).foldl (fun s k => discardStream s p k) s) p r

/-! ### The fence of a partition (R367, R373, Table 15.4) -/

/-- The tasks of partition p stop and their regions are reset at context level; messages and multicasts of theirs are forgotten. -/
def stopTasks (s : State) (p : Nat) : State :=
  let mine := s.tasks.filter fun (_, t) => t.part == p
  let s := mine.foldl (fun s (k, t) =>
    let s := freeTiles (stopRegion s t.tiles) t.tiles (s.clk.cyc + resetCycles)
    { s with mcasts := SMap.keep s.mcasts fun _ m => m.load != .launch k }) s
  { s with tasks := s.tasks.filter fun (_, t) => t.part != p }

/-- The graphs of partition p are abandoned (R60): no record and no post; slots and node state are freed. -/
def abandonGraphs (s : State) (p : Nat) : State :=
  let seqs := (s.tge.graphs.filter fun g => g.part == p).map (·.seq)
  updTge s fun x =>
    { x with graphs := x.graphs.filter fun g => g.part != p,
             slots := SMap.mapVals x.slots fun _ (k : Slot) => if k.holder.any fun h => seqs.contains h.1 then { k with holder := none } else k,
             noFit := x.noFit.filter fun e => !seqs.contains e.1, dbells := SMap.keep x.dbells fun q _ => q / 16 != p }

/-- The queue pairs of partition p return to their reset values (R60). -/
def clearQueues (s : State) (p : Nat) : State :=
  (rangeFrom (16 * p) 16).foldl (fun s q =>
    [RegName.tgeSqBase, .tgeSqCtl, .tgeSqHead, .tgeCqBase, .tgeCqCtl, .tgeCqTail, .tgeQStatus].foldl (fun s r => clr s r q) s) s

/-- The Seam Engine gives up partition p's commands, restores and moves (R195, R211); a stream that is being restored becomes FREE, and one with appends that are not
acknowledged lapses (cause 7, Table 15.6). -/
def fenceSeam (s : State) (p : Nat) : State :=
  let s := (s.seam.jobs.filter fun j => j.part == p && j.restore).foldl failRestore s
  let s := (s.seam.moves.filter fun m => m.part == p).foldl undoMove (seamFence s p)
  let s := updSeam s fun (x : Seam) => { x with promo := x.promo.filter fun q => q.1 != p, checks := x.checks.filter (· != p) }
  (liveStreams s p).foldl (fun s sid => if eget (entryRaw s p sid) 4 63 32 = 0 then s else lapse s p sid 7) s

/-- The leases that partition p granted end (R178). -/
def endLeases (s : State) (p : Nat) : State :=
  let s := updSeam s fun (x : Seam) => { x with headers := x.headers.filter fun h => h.1 != p }
  (List.range 4).foldl (fun s i => fs s F.SEAM_LEASE_CFG_EN 0 p i) s

/-- Sessions of partition p end, and a handshake or sealed transfer of it is abandoned (R404, R406). -/
def endSessions (s : State) (p : Nat) : State :=
  let s := (List.range 64).foldl (fun s k => endSession s p k) s
  fs (updKe s fun e => { e with shakes := SMap.erase e.shakes p, seals := SMap.erase e.seals p }) F.SEC_SEAL_STATUS_RESULT 0 p

/-- The requests to a fenced partition's memory, or of its own, that wait for a row under soft repair have not started: they are answered with PEER_RESET (R272, R367, R368). -/
def answerHeld (s : State) (p : Nat) : State :=
  let mine := fun r : MemReq => r.who == .requester p || (sectionsOf s p).contains (if r.dev < 8 then r.dev else (r.dev - 8) / 2)
  { s with memc := { s.memc with held := s.memc.held.filter fun r => !mine r },
           outs := s.outs ++ (s.memc.held.filter mine).map fun r => .memError r.dev r.off stPeerReset }

/-- A partition is fenced: graphs are abandoned, its units stop, and its records of this very cycle take ACTION 3 (R387). -/
def fencePart (s : State) (p : Nat) : State :=
  let s := { s with recs := s.recs.map fun r => if r.part = some p ∧ r.action = 1 ∧ r.time = mer s then { r with action := 3 } else r }
  let s := setPart s p { part s p with fenced := true }
  let s := shadowAbandon s p
  let s := stopTasks (answerHeld s p) p
  let s := clearQueues (abandonGraphs s p) p
  let s := (rangeFrom (8 * p) 8).foldl ringAbandon s
  let s := fs s F.SEAM_HQ_CTL_EN 0 p
  let s := updXp s fun x => { x with colls := x.colls.filter fun c => c.part != p, collDesc := SMap.keep x.collDesc fun k _ => k / 256 != p }
  let s := fs s F.PORT_COLL_TABLE_EN 0 p
  let s := endLeases (fenceSeam s p) p
  rejoinStop s p 6

/-- The fence of partition p is lifted (R295, R374): its epoch rises, sessions bound to the old one have ended, and RETURN heralds leave. -/
def liftFence (s : State) (p : Nat) : State :=
  let s := setHeld (setPart s p Part.fresh) p false
  sendHeralds (bumpPartEpoch s p) p 2

/-! ### Partition resets (R373) -/

/-- A partition reset is accepted: admission pauses and RESET heralds leave; a sealed transfer is abandoned (R406). -/
def acceptPart (s : State) (p : Nat) (hold : Bool) (cause : Nat) : State :=
  let s := setPart s p { part s p with phase := 1, hold := hold, cause := cause, since := mer s }
  let s := fs (updKe s fun e => { e with seals := SMap.erase e.seals p }) F.SEC_SEAL_STATUS_RESULT 0 p
  showBusy (sendHeralds s p 1)

/-- The shared engines purge a partition's state: Ledger cache entries, Seam TLB lines (Table 15.10). Entries are written back as they change, so a purge changes no memory. -/
def purgePart (s : State) (p : Nat) : State :=
  updSeam s fun (x : Seam) =>
    { x with ledgers := SMap.mapVals x.ledgers fun _ l => l.filter fun k => k / 2 ^ 20 != p,
             tlbs := SMap.mapVals x.tlbs fun _ l => l.filter fun t => t.1 / 2 ^ 20 != p,
             heats := x.heats.filter fun h => h.1.1 / 2 ^ 20 != p }

/-- DRAIN_MS in ns (R368). -/
def drainNs (s : State) : Nat := min 400 (max 1 (fg s F.GUARD_CTL_DRAIN_MS)) * 1000000

/-- Responses that come after the drain are discarded (R368): the partition's outstanding operations are forgotten. -/
def endDrain (s : State) (p : Nat) : State := updXp s fun x => { x with ops := x.ops.filter fun o => o.part != p }

/-- A partition reset ends (R373): purge, gates, DMA registers, the record, the event, and the fence's lifting unless it is held. -/
def completePart (s : State) (p : Nat) : State :=
  let x := part s p
  let s := purgePart s p
  let s := (List.range 1024).foldl (fun s g => clr s .tgeGate p g) s
  let s := (rangeFrom (8 * p) 8).foldl (fun s r =>
    [RegName.hostDmaBase, .hostDmaCtl, .hostDmaHead, .hostDmaStatus].foldl (fun s q => clr s q r) s) s
  let s := endSessions s p
  let s := { s with tiles := SMap.mapVals s.tiles fun _ (t : Tile) => if t.lastPart = some p then { t with lastPart := none } else t }
  let r := ({ blankRec s 0x13 x.cause 3 with aux := BitVec.ofNat 64 ((partEpoch s p + 1) % 256) }).ofPart s p
  let s := signalReset (emit s r) p
  let s := setHeld (setPart s p { Part.fresh with fenced := true }) p true
  let s := if x.hold then s else liftFence s p
  showBusy (if fb s F.GUARD_REJOIN_CTL_MODE p then rejoinHold s p true else s)

/-! ### Engine resets (R369) -/

/-- Whether the module has a unit (Table 15.3) that an engine reset can name. -/
def enginePresent (s : State) (kind ix : Nat) : Bool :=
  if kind = 1 then decide (ix < 1152)
  else if kind = 2 ∨ kind = 3 then decide (ix < 4)
  else if kind = 5 then decide (ix < 8)
  else if kind = 6 then decide (ix < 16) && t2Populated s ix
  else kind == 7 && decide (ix < 32) && portEnabled s ix

/-- The schedule cycle of a tile, 0 when it runs nothing. -/
def schedCycleOf (s : State) (n : Nat) : Nat :=
  match taskOf s n with
  | some (_, t) => s.clk.cyc - t.start
  | none => 0

/-- A unit is fenced and reset (R367, R369): the ENGINE_RESET record, and what stops with it. -/
def startEngineReset (s : State) (kind ix cause : Nat) : State :=
  let s := emit s { blankRec s 0x12 cause 2 with unit := kind, unitIx := ix }
  let s := { s with fenced := s.fenced ++ [(kind, ix, cause)] }
  let drop := fun (s : State) (assay : Bool) => updSeam s fun (x : Seam) =>
    { x with queue := x.queue.filter fun c => !((c.kind == 3) == assay && c.sid % 4 == ix) }
  showBusy (
    if kind = 1 then fenceTile s ix (if cause = 3 then 0x01 else 0x04) (if cause = 3 then 0 else BitVec.ofNat 64 (schedCycleOf s ix))
    else if kind = 2 then
      let mine := fun (j : SeamJob) => j.sid % 4 == ix
      let s := (s.seam.jobs.filter fun j => mine j && j.restore).foldl failRestore (drop s false)
      let s := (s.seam.jobs.filter mine).foldl (fun s j => lapse s j.part j.sid 7) s
      let s := updSeam s fun (x : Seam) => { x with jobs := x.jobs.filter fun j => !mine j }
      (List.range 8).foldl (fun s p => if fg s F.GUARD_REJOIN_STATUS_STAGE p = 3 then rejoinStop s p 4 else s) s
    else if kind = 3 then drop s true
    else if kind = 7 then strand (portEngineReset s ix)
    else s)

/-- An engine reset is over. -/
def endEngineReset (s : State) (kind ix : Nat) : State :=
  showBusy { s with fenced := s.fenced.filter fun e => !(e.1 == kind && e.2.1 == ix) }

/-! ### The reset of the module (R370, R374) -/

/-- Registers that a device reset keeps, with their counts: boot state, what lies in the persistent store, fuses and module controller, and what lasts for the boot epoch. -/
def keptRegs : List (RegName × Nat × Nat) :=
  [(.glbPart, 1, 1), (.pstoreBoot, 1, 1), (.pstoreFlash, 1, 1), (.pstoreRec, 8, 1), (.pstoreBist, 4, 1), (.portDevid, 8, 1), (.guardRejoinCtl, 8, 1), (.guardRejoinPlan, 8, 1),
   (.guardOverman, 1, 1), (.guardProspectDie, 4, 1), (.tgePlaceDie, 4, 1), (.clkRailStatus, 1, 1), (.clkRefStatus, 1, 1), (.secFwFloor, 1, 1), (.secFwCtl, 1, 1),
   (.hostLinkStatus, 1, 1), (.memDevRepair, 2, 16)]

/-- Copy the kept registers of `old` into `s`. -/
def keepRegs (old s : State) : State :=
  keptRegs.foldl (fun s (r, n, m) =>
    (List.range n).foldl (fun s i => (List.range m).foldl (fun s j => wr s r (rd old r i j) i j) s) s) s

/-- Kept registers of which a device reset resets a part, and the power limit of the grade. -/
def trimRegs (s : State) : State :=
  let s := (List.range 8).foldl (fun s p => fs (fs (fs s F.PORT_DEVID_VALID 0 p) F.PORT_DEVID_ID 0 p) F.PORT_DEVID_CFG_ERR 0 p) s
  let s := (List.range 4).foldl (fun s d =>
    fs (fs (fs (fs (fs s F.GUARD_PROSPECT_DIE_PASSES 0 d) F.GUARD_PROSPECT_DIE_CURRENT 0x7FF d) F.GUARD_PROSPECT_DIE_TESTING 0 d) F.GUARD_PROSPECT_DIE_DEFERRED 0 d)
      F.GUARD_PROSPECT_DIE_FAILS 0 d) s
  let s := fs (fs (fs s F.CLK_RAIL_STATUS_WARN 0) F.CLK_REF_STATUS_HOST_LOSSES 0) F.CLK_REF_STATUS_FABRIC_LOSSES 0
  let s := fs s F.CLK_PWR_CTL_LIMIT_MW (gradeLimitMw s)
  fs (fs (fs s F.CLK_REF_STATUS_HOST_EVT 0) F.CLK_REF_STATUS_FABRIC_EVT 0) F.CLK_REF_STATUS_FALLBACK_PPM 0

/-- A tile after a device reset: its store is zeroed; fences come back from the repair map, and what its scrubber found counts through the boot epoch. -/
def Tile.afterReset (t : Tile) : Tile := { Tile.fresh with fenced := t.fenced, passFail := t.passFail, ueWords := t.ueWords }

/-- The module as a device reset leaves it (Table 15.6), with the Overman's part given: nothing in progress, configuration at reset values, memory and stores zero, host memory
and the outside world as they were, and what the persistent store, the fuses and the boot epoch keep. A test in progress is to be repeated (R357); every partition owes its
RETURN herald (R374). -/
def resetModule (old : State) (om : Overman) : State :=
  let s : State := { State.reset with
    pending := old.pending, free := old.free, outs := old.outs, om := om, mem := old.mem.filter fun c => decide (2 ^ 62 ≤ c.1),
    flips := SMap.keep old.flips fun k _ => decide (2 ^ 62 ≤ k),
    tiles := (SMap.mapVals old.tiles fun _ t => t.afterReset).filter fun x => x.2 != Tile.fresh,
    dies := old.dies.map fun x => { x with repl := none, held := [] },
    memc := { MemCtl.reset with used := old.memc.used, hppr := old.memc.hppr },
    xp := { Xport.reset with owed := List.range 8 },
    mapPend := old.mapPend,
    ke := { KeyEngine.reset with
      images := old.ke.images, copies := old.ke.copies, owner := old.ke.owner, cert := old.ke.cert, draws := old.ke.draws } }
  let s := trimRegs (keepRegs old s)
  let s := (List.range 8).foldl (fun s p =>
    if (SMap.find old.om.rejoins p).isSome then fs (fs s F.GUARD_REJOIN_STATUS_STAGE 6 p) F.GUARD_REJOIN_STATUS_RESULT 6 p else s) s
  let s := (List.range 4).foldl (fun s d =>
    let x := patrol old d
    match x.test with
    | none => setPatrol s d { Patrol.fresh with noms := x.noms }
    | some (n, _) =>
      if x.lastNom then setPatrol s d { Patrol.fresh with noms := (n, 0) :: x.noms }
      else fs (setPatrol s d { Patrol.fresh with noms := x.noms }) F.GUARD_PROSPECT_DIE_POSITION (n % 288) d) s
  (List.range 4).foldl (fun s d => showFence (showDie s d) d) s

/-- The Overman's part as a device reset leaves it, with a boot. Pending writes of the repair map are waited for (R424) and those of the error log go on (R456); others are lost. -/
def Overman.rebooted (o : Overman) (b : Option Boot) : Overman :=
  { o with boot := b, rejoins := [], switching := false, beat := 0, power := none, xfer := none, dies := [], pend := o.pend.filter fun t => t == 3 || t == 8 }

/-- The DEVICE_RESET record (Table 15.2): AUX is the Meridian time of the reset. -/
def resetRec (s : State) (cause : Nat) : Rec := { blankRec s 0x14 cause 4 with aux := BitVec.ofNat 64 (mer s) }

/-- A record that the persistent ERROR_LOG is to hold (R420, R456): resets of the module and what leads to them (DESIGN CHOICE). -/
def noteError (s : State) (r : Rec) : State := queueStore (updOm s fun o => { o with errLog := o.errLog ++ [r] }) 8

/-- An uncontrolled device reset starts (R374, R409): the module is reset and step 2 of the fast path runs. The records are written after the reset. -/
def uncontrolledReset (s : State) (cause : Nat) (rs : List Rec) : State :=
  let b : Boot := { cold := false, controlled := false, cause := cause, start := mer s, next := 2, degraded := false, autoPc := fb s F.GUARD_CTL_AUTO_PC }
  let rs := rs ++ [resetRec s cause]
  let s := rs.foldl noteError s
  let s := resetModule s (s.om.rebooted (some b))
  showBusy (fs (fs (rs.foldl emit s) F.PSTORE_BOOT_PHASE 0) F.PSTORE_BOOT_RESULT 0)

/-- A controlled device reset starts (R374): heralds of every partition that has a device ID, and the fence of every partition; step 1 of the fast path runs. -/
def controlledReset (s : State) (cause : Nat) : State :=
  let b : Boot := { cold := false, controlled := true, cause := cause, start := mer s, next := 1, degraded := false, autoPc := fb s F.GUARD_CTL_AUTO_PC }
  let s := noteError s (resetRec s cause)
  let s := (List.range 8).foldl (fun s p => sendHeralds s p 1) s
  let s := (List.range 8).foldl (fun s p => fencePart s p) s
  showBusy (fs (fs (updOm s fun o => { o with boot := some b }) F.PSTORE_BOOT_PHASE 0) F.PSTORE_BOOT_RESULT 0)

/-- A power cycle is asked for (R371, R456): the record, and the module is in reset until power goes. An off request that is pending stays the one that is driven (Table 19.11). -/
def startPowerCycle (s : State) (cause : Nat) : State :=
  let r := { resetRec s cause with action := 5 }
  let s := noteError s r
  let req : PowerReq := match s.om.power with
    | some q => if q.off then { q with reset := true } else { off := false, reset := true, at_ := 0, pulses := 0 }
    | none => { off := false, reset := true, at_ := 0, pulses := 0 }
  let s := resetModule s { (s.om.rebooted none) with power := some { req with at_ := 0 } }
  showBusy (emit s r)

/-- Wake from Dormant starts (R443). -/
def startWake (s : State) : State := fs s F.CLK_DORMANT_STATUS_STATE 3

/-- A Dormant module, or one that is entering Dormant, wakes for a reset (Table 18.10). -/
def wakeForReset (s : State) : State :=
  if fg s F.CLK_DORMANT_STATUS_STATE = 2 then startWake s
  else if fg s F.CLK_DORMANT_STATUS_STATE = 1 then fs s F.CLK_DORMANT_STATUS_STATE 0
  else s

/-! ### Requests (R375) -/

/-- Whether a request is refused: a reset of the same or a higher level covers the target, the LEVEL is reserved, or the unit is absent. -/
def resetRefused (s : State) (level kind ix p : Nat) : Bool :=
  let dev := s.om.boot.isSome || cycling s
  if level = 2 then
    dev || !enginePresent s kind ix || engineFenced s kind ix || (kind == 1 && ((tile s ix).fenced || (tilePart s ix).any fun q => (resetting s).contains q))
  else if level = 3 then dev || !partExists s p || (resetting s).contains p
  else if level = 4 then dev
  else if level = 5 then cycling s
  else true

/-- A reset request (R375): refused, or the reset starts. Answers whether it was accepted. -/
def requestReset (s : State) (level kind ix p : Nat) (hold : Bool) : Bool × State :=
  if resetRefused s level kind ix p then (false, s)
  else
    let s := wakeForReset s
    (true, if level = 2 then startEngineReset s kind ix 3
      else if level = 3 then acceptPart s p hold 1
      else if level = 4 then controlledReset s 1
      else startPowerCycle s 1)

/-- A write to GUARD_RESET_REQ (Table 15.18); REFUSED shows a refusal. A halted module takes none from the host (R419). -/
def resetReqWrite (s : State) (f : Func) (v : Word) : State :=
  let reaches := match f with
    | .pf => !s.d3hot.contains 0
    | .overman => true
    | .vf _ => false
  if !reaches || halted s then s
  else
    let (ok, s) := requestReset s (fieldOf F.GUARD_RESET_REQ_LEVEL v) (fieldOf F.GUARD_RESET_REQ_UNIT_KIND v) (fieldOf F.GUARD_RESET_REQ_UNIT_INDEX v)
      (fieldOf F.GUARD_RESET_REQ_PARTITION v) (decide (fieldOf F.GUARD_RESET_REQ_HOLD v = 1))
    if ok then s else fs s F.GUARD_RESET_STATUS_REFUSED 1

end Sys2Proof.Machine
end

