-- ==== Sys2Proof/Machine/LogOps.lean ====
section
/-! DEFINITION. Error records and the logs (R363 to R366): the 64-byte form, delivery to a log, and its on-die queue. Log 0 is the module's, log 1 + p partition p's. -/

namespace Sys2Proof.Machine

/-- The 64-byte form of a record (Table 15.1); `hide` blanks PC, AUX and AUX2 (Table 16.6). -/
def recWords (r : Rec) (seq : Nat) (hide : Bool) : List Word :=
  let (te, ts, tn, tag) := r.task.getD (0, 0, 0, 0)
  let (ph, lt, mv) := r.tile.getD (0, 0, false)
  let pc := if hide then 0 else r.pc % 2 ^ 32
  [BitVec.ofNat 64 (r.cls % 256 * 2 ^ 56 + r.cause % 256 * 2 ^ 48 + r.part.isSome.toNat * 2 ^ 47 + r.part.getD 0 % 8 * 2 ^ 44 + r.action % 16 * 2 ^ 40 +
     r.epoch % 256 * 2 ^ 32 + r.stream.isSome.toNat * 2 ^ 31 + r.stream.getD 0 % 2 ^ 20),
   BitVec.ofNat 64 (r.task.isSome.toNat * 2 ^ 63 + te % 256 * 2 ^ 48 + ts % 2 ^ 16 * 2 ^ 32 + tn % 2 ^ 16 * 2 ^ 16 + r.tile.isSome.toNat * 2 ^ 15 +
     mv.toNat * 2 ^ 14 + ph % 2 ^ 11),
   BitVec.ofNat 64 r.time,
   BitVec.ofNat 64 (pc * 2 ^ 32 + r.unit % 16 * 2 ^ 28 + r.unitIx % 2 ^ 11 * 2 ^ 17 + lt % 2 ^ 10),
   if hide then 0 else r.aux, if hide then 0 else r.aux2, tag, BitVec.ofNat 64 (2 ^ 63 + seq % 2 ^ 32)]

/-- The register indices of a log. -/
def logIx (l : Nat) : Nat × Nat := if l = 0 then (0, 0) else (1, l - 1)

/-- A field of a log's registers. -/
def lg (s : State) (f : Fld) (l : Nat) : Nat := fg s f (logIx l).1 (logIx l).2

/-- Replace a field of a log's registers. -/
def ls (s : State) (f : Fld) (x l : Nat) : State := fs s f x (logIx l).1 (logIx l).2

/-- Count in a log's status. -/
def lcount (s : State) (f : Fld) (l : Nat) : State := finc s f 1 (logIx l).1 (logIx l).2

/-- A log beyond its registers. -/
def logOf (s : State) (l : Nat) : Log := SMap.get { queue := [], seq := 0 } s.logs l

/-- Replace a log; WAITING shows its on-die queue. -/
def setLog (s : State) (l : Nat) (x : Log) : State :=
  ls { s with logs := SMap.set s.logs l x } F.GUARD_LOG_STATUS_WAITING (min 255 x.queue.length) l

/-- Entries of a log's ring. -/
def logSize (s : State) (l : Nat) : Nat := 2 ^ lg s F.GUARD_LOG_CTL_SIZE_LOG2 l

/-- Whether a log's ring is full (R366). -/
def logFull (s : State) (l : Nat) : Bool :=
  decide ((lg s F.GUARD_LOG_STATUS_INDEX l + 1) % logSize s l = lg s F.GUARD_LOG_HEAD_HEAD l % logSize s l)

/-- Whether a record's PC, AUX and AUX2 are hidden in a log (Table 16.6): its partition is confidential, and the log is the module's or its ring lies outside the partition's Tier 1. -/
def recHidden (s : State) (l : Nat) (r : Rec) : Bool :=
  r.part.any fun p => confOn s p &&
    (l == 0 || !inTier1 s p (rd s .guardLogBase (logIx l).1 (logIx l).2) (64 * logSize s l))

/-- Records of the classes that a full log drops (R366). -/
def droppable (r : Rec) : Bool := r.cls == 0x08 || (decide (0x0D ≤ r.cls) && decide (r.cls ≤ 0x11))

/-- Records that wait for their log to be enabled: those written after a device reset (R365, R366, R436). -/
def waitsForLog (r : Rec) : Bool := r.cls == 0x14 || (r.cls == 0x16 && r.action == 4)

/-- Write a record into a log's ring with its SEQ, and signal ERR_VEC (R366). A write that the destination refuses loses the record (DESIGN CHOICE). -/
def writeLogEntry (s : State) (l seq : Nat) (r : Rec) : State :=
  let ix := lg s F.GUARD_LOG_STATUS_INDEX l % logSize s l
  let at_ := BitVec.ofNat 64 ((rd s .guardLogBase (logIx l).1 (logIx l).2).toNat + 64 * ix)
  let bs := bytesOfWords (recWords r seq (recHidden s l r))
  let ((st, _), s) := if l = 0 then pfWrite s at_ bs else engineWrite s (l - 1) at_ bs
  if st ≠ stOK then lcount s F.GUARD_LOG_STATUS_LOST l
  else signalEvent (ls s F.GUARD_LOG_STATUS_INDEX ((ix + 1) % logSize s l) l) (if l = 0 then 0 else ownerFn s (l - 1))
    F.HOST_EVENT_VEC_ERR_EN F.HOST_EVENT_VEC_ERR_VEC

/-- A record joins a log's on-die queue of 256, or is lost (R366). -/
def queueRec (s : State) (l seq : Nat) (r : Rec) : State :=
  let x := logOf s l
  if 256 ≤ x.queue.length then ls (lcount s F.GUARD_LOG_STATUS_LOST l) F.GUARD_LOG_STATUS_OVERFLOW 1 l
  else setLog s l { x with queue := x.queue ++ [(seq, r)] }

/-- Give a record to a log: SEQ advances, and the record is written, waits, or is dropped (R366). -/
def giveLog (s : State) (l : Nat) (r : Rec) : State :=
  let x := logOf s l
  let seq := x.seq
  let s := setLog s l { x with seq := (seq + 1) % 2 ^ 32 }
  if lg s F.GUARD_LOG_CTL_EN l = 0 then
    (if waitsForLog r then queueRec s l seq r else lcount s F.GUARD_LOG_STATUS_DROPPED l)
  else if logFull s l || !x.queue.isEmpty then
    (if droppable r then lcount s F.GUARD_LOG_STATUS_DROPPED l else queueRec s l seq r)
  else writeLogEntry s l seq r

/-- Queued records of a log are written while it has room. -/
def drainLog : Nat → State → Nat → State
  | 0, s, _ => s
  | n + 1, s, l =>
    let x := logOf s l
    match x.queue with
    | (seq, r) :: rest =>
      if lg s F.GUARD_LOG_CTL_EN l = 0 || logFull s l then s
      else drainLog n (writeLogEntry (setLog s l { x with queue := rest }) l seq r) l
    | [] => s

/-- The oldest event goes to the module log and to the log of its partition (R366); clock, rail and thermal records raise platform event messages (R453), and the loss of a
reference signals the PF's ERR_VEC whatever ERR_EN is (R428). -/
def giveRecord (s : State) (r : Rec) : State :=
  let s := if 0x15 ≤ r.cls ∧ r.cls ≤ 0x17 then platformEvent s (r.cls - 0x14) r.cause else s
  let s := if r.cls = 0x15 ∧ fb s F.HOST_EVENT_VEC_ERR_EN = false then signal s 0 (fg s F.HOST_EVENT_VEC_ERR_VEC) else s
  let s := giveLog s 0 r
  match r.part with
  | some p => giveLog s (1 + p) r
  | none => s

/-- Whether a function may write a log's registers (R366, R388). -/
def mayLog (s : State) (f : Func) (l : Nat) : Bool := if l = 0 then isPriv s f else decide (l < 9) && mayAct s f (l - 1)

end Sys2Proof.Machine
end

