-- ==== Sys2Proof/Machine/Haul.lean ====
section
/-! DEFINITION. The haulage network and message channels (chapter 9): rings (R239 to R242), timeouts (R241), multicast (R246) and messages (R250, R251). -/

namespace Sys2Proof.Machine

/-! ### Packets (R236, R242) -/

/-- A packet as a number: CLASS, stops and TAG of its flits (Table 9.3). -/
def packetKey (fl : Flit) : Nat :=
  match fl.route with
  | .uni dst src tag _ _ => (classCode fl.cls ++ dst.die ++ dst.x ++ dst.y ++ src.die ++ src.x ++ src.y ++ tag).toNat
  | .multi die column index _ _ _ srcX srcY tag => (1#1 ++ 0#12 ++ die ++ BitVec.ofBool column ++ index ++ srcX ++ srcY ++ tag).toNat

/-- TAG of a core's request. The spec does not assign it: twice its number, plus 1 for the mover core (DESIGN CHOICE, log entry 85). -/
def reqTag (mover : Bool) (r : HaulReq) : BitVec 16 := BitVec.ofNat 16 (2 * r.id + mover.toNat)

/-- The outstanding request of a tile at a stop with a TAG. -/
def findReq (s : State) (a : Stop) (tag : BitVec 16) : Option (CoreRef × HaulReq) :=
  (tileOfStop a).bind fun n => [false, true].findSome? fun m =>
    ((coreAt s ⟨n, m⟩).haul.find? fun r => reqTag m r == tag).map fun r => (⟨n, m⟩, r)

/-- The request that a unicast flit belongs to: of its source for a request, of its destination for a response. -/
def flitReq (s : State) (fl : Flit) : Option (CoreRef × HaulReq) :=
  match fl.cls, fl.route with
  | .request, .uni _ src tag _ _ => findReq s src tag
  | .response, .uni dst _ tag _ _ => findReq s dst tag
  | _, _ => none

/-- Whether a message on its way is the one that a message-class flit carries. -/
def carries (fl : Flit) (f : Flight) : Bool :=
  match fl.cls, fl.route with
  | .message, .uni dst src tag _ _ => tileOfStop src == some (f.core / 2) && tileOfStop dst == some f.dst && decide (f.tag % 65536 = tag.toNat)
  | _, _ => false

/-- Change the request that a flit belongs to. -/
def updFlitReq (s : State) (fl : Flit) (f : HaulReq → HaulReq) : State :=
  match flitReq s fl with
  | some (c, r) => updCore s c fun k => { k with haul := k.haul.map fun q => if q.id = r.id then f q else q }
  | none => s

/-- A flit is lost: its requester has no response (R235, R247). -/
def loseFlit (s : State) (fl : Flit) : State :=
  updFlitReq { s with flights := s.flights.filter fun f => !carries fl f } fl fun r => { r with lost := true }

/-- AGE of a flit as it enters (R242): the issue of its request or message, or the opening boundary of the previous Tick for control flits. -/
def flitAge (s : State) (fl : Flit) : BitVec 32 :=
  if fl.cls = .control then BitVec.ofNat 32 (s.clk.tickMer - period s * 1000)
  else match flitReq s fl with
    | some (_, r) => BitVec.ofNat 32 (s.clk.merBase + (r.born - s.clk.cycBase) * 10 / 17)
    | none => ((s.flights.find? (carries fl)).map (·.age)).getD fl.age

/-! ### Rings -/

/-- The record of a ring. -/
def ring (s : State) (i : Nat) : Ring := SMap.get Ring.fresh s.rings i

/-- Replace the record of a ring. -/
def setRing (s : State) (i : Nat) (r : Ring) : State := { s with rings := SMap.set s.rings i r }

/-- The stop at a position of ring i. -/
def ringAt (i pos : Nat) : Stop := stopAt (i / 68) (ringColumn i) (ringIndex i) pos

/-- A source of a ring as a number: the stop's position, and the source at the stop. -/
def sourceKey (q : QueuedFlit) : Nat := q.pos * 4096 + q.source % 4096

/-- The rank age of a source's head flit (R242): the later of its AGE and the source's last entry; the closing boundary once the quota is used. -/
def rankAge (s : State) (r : Ring) (q : QueuedFlit) : BitVec 32 :=
  if s.haulCtl.1 ≠ 0 ∧ s.haulCtl.1 ≤ SMap.get 0 r.counts (sourceKey q) then BitVec.ofNat 32 (closing s)
  else match SMap.find r.last (sourceKey q) with
    | some t => laterAge q.fl.age (BitVec.ofNat 32 t)
    | none => q.fl.age

/-- The head flits of the sources that wait at the stops of a ring. -/
def heads (r : Ring) : List QueuedFlit :=
  r.queue.foldl (fun hs q => if hs.any fun h => sourceKey h == sourceKey q then hs else hs ++ [q]) []

/-- SRC_X and SRC_Y of a flit. -/
def srcXY (fl : Flit) : Nat × Nat :=
  match fl.route with
  | .uni _ src _ _ _ => (src.x.toNat, src.y.toNat)
  | .multi _ _ _ _ _ _ x y _ => (x.toNat, y.toNat)

/-- Whether the arbiter prefers head a to head b (R242): the older rank age, then the lower SRC_X, then the lower SRC_Y. -/
def outranks (s : State) (r : Ring) (a b : QueuedFlit) : Bool :=
  let x := rankAge s r a
  let y := rankAge s r b
  older x y || (x == y && (decide ((srcXY a.fl).1 < (srcXY b.fl).1) || (decide ((srcXY a.fl).1 = (srcXY b.fl).1) && decide ((srcXY a.fl).2 < (srcXY b.fl).2))))

/-- The head that the arbiter of a stop grants. -/
def granted (s : State) (r : Ring) (pos : Nat) : Option QueuedFlit := leastBy (outranks s r) ((heads r).filter fun q => q.pos == pos)

/-- The flits that a stop's ring buffer holds. -/
def heldAt (r : Ring) (pos : Nat) : Nat := countIf (fun (x : RingFlit) => x.pos == pos) r.flits

/-- Whether the length of a packet is what its operation needs (R236): that of a core's HGET or HPUT is one of the packets that its passage splits the transfer into. -/
def lengthOk (s : State) (fl : Flit) : Bool :=
  match flitReq s fl with
  | some (_, r) => (haulPackets r.len).any fun x =>
      decide ((if fl.cls = .request then (packetFlits r.put x.2).1 else (packetFlits r.put x.2).2) = fl.more.toNat + 1)
  | none => decide (fl.more.toNat ≤ 16)

/-- Whether a flit may join its source's entry queue (R236, R239): it is the next of its packet, and the queue of 8 has room. -/
def mayQueue (r : Ring) (pos : Nat) (fl : Flit) : Bool :=
  decide (countIf (fun (q : QueuedFlit) => q.pos == pos) r.queue < 8) && decide (fl.seq.toNat = SMap.get 0 r.next (packetKey fl))

/-- A flit joins its source's entry queue. -/
def joinQueue (r : Ring) (q : QueuedFlit) : Ring :=
  let next := if q.fl.seq = q.fl.more then SMap.erase r.next (packetKey q.fl) else SMap.set r.next (packetKey q.fl) (q.fl.seq.toNat + 1)
  { r with queue := r.queue ++ [q], next := next }

/-- The head that the arbiter grants at a stop enters ring i, unless the beacon withholds it or fewer than 2 slots stay free after a flit from upstream (R239, R242). -/
def enterRing (s : State) (i pos : Nat) (arriving : Bool) : State :=
  let r := ring s i
  match granted s r pos with
  | none => s
  | some q =>
    let age := rankAge s r q
    if r.beacon.any fun b => decide ((s.haulCtl.2 : Int) < (age - b).toInt) then finc s F.HAUL_RING_LAPS_THROTTLED 1 i
    else if 4 < heldAt r pos + arriving.toNat + 2 then s
    else
      let k := sourceKey q
      finc (setRing s i { r with flits := r.flits ++ [{ fl := q.fl, pos := pos, marked := q.marked }], queue := r.queue.erase q,
                                 counts := SMap.set r.counts k (SMap.get 0 r.counts k + 1), last := SMap.set r.last k (mer s) }) F.HAUL_RING_ENTERED_COUNT 1 i

/-- FLIT_ENTRY (R236, R239, R242): a source's flit waits in its entry queue, and the arbiter of the stop grants the oldest head there. A shunted stop has left the ring (R247). -/
def execFlitEntry (i : Nat) (at_ : EntryPoint) (arriving : Bool) (fl : Flit) (s : State) : Ans :=
  let pos := at_.pos
  let q : QueuedFlit := { pos := pos, source := at_.source, fl := { fl with age := flitAge s fl }, marked := false }
  let r := ring s i
  finish (if shunted s (ringAt i pos) || decide (ringStops (ringColumn i) ≤ pos) then s
    else if r.queue.contains q then enterRing s i pos arriving
    else if mayQueue r pos fl && lengthOk s fl then enterRing (setRing s i (joinQueue r q)) i pos arriving
    else s)

/-- A ring without its ix-th flit. -/
def Ring.drop (r : Ring) (ix : Nat) : Ring := { r with flits := r.flits.eraseIdx ix }

/-- A HAUL_ERROR record of ring i (Table 15.2). -/
def haulRecord (s : State) (cause i : Nat) : State :=
  emit s { blankRec s 0x11 cause 0 with unit := 9, unitIx := i, aux := BitVec.ofNat 64 i }

/-- Where a flit leaves ring i (R237): the position, and whether it is its destination; a multicast returns to its source (R244). -/
def flitGoal (s : State) (i : Nat) (fl : Flit) : Except NetRefusal (Nat × Bool) :=
  match fl.route with
  | .multi _ column _ _ _ _ x y _ => .ok (if column then y.toNat else x.toNat, true)
  | .uni dst src _ _ _ =>
    let (t, final, dev) := legGoal (i / 68) (ringColumn i) (ringIndex i) src dst
    if !shunted s (ringAt i t) then .ok (t, final)
    else if final then .error .fenced
    else match (if dev then beyond s (i / 68) (ringColumn i) (ringIndex i) (i % 2) 20 t else none) with
      | some q => .ok (q, false)
      | none => .error .unreachable

/-- The next live stop after a position of ring i. -/
def nextLive (s : State) (i : Nat) : Nat → Nat → Nat
  | 0, p => p
  | fuel + 1, p =>
    let q := nextPos (ringStops (ringColumn i)) (i % 2) p
    if shunted s (ringAt i q) then nextLive s i fuel q else q

/-- A flit of ring i is forwarded to the position `goal`, or as far as the buffers of the next live stops have a free slot (R239). -/
def forward (s : State) (i : Nat) (r : Ring) (goal : Nat) : Nat → Nat → Nat
  | 0, p => p
  | fuel + 1, p =>
    if p = goal then p
    else
      let q := nextLive s i 20 p
      if 4 ≤ heldAt r q then p else forward s i r goal fuel q

/-- The check of word w of a flit's body on ring i (R235): the bits that arrive wrong, and those of V in which the flit is not the one expected. -/
def bodyWordCheck (upset : Upset) (w : Nat) : EccResult :=
  let mine := upset.filter fun x => x.1 == w
  eccDecode (mine.foldl (fun e x => e ^^^ x.2.1) 0) (mine.foldl (fun v x => v ^^^ x.2.2) 0)

/-- Whether a check found an error that it could not correct. -/
def isBad : EccResult → Bool
  | .bad _ => true
  | _ => false

/-- A packet as a destination remembers it when it refuses its first flit (R240). -/
def refusedOf (x : RingFlit) : RefusedPacket := { pos := x.pos, key := packetKey x.fl, age := x.fl.age, flits := x.fl.more.toNat + 1 }

/-- Room for a packet at its destination goes to the oldest of the packets refused there and the one that arrives (R240). -/
def oldestRefused (r : Ring) (x : RingFlit) : RefusedPacket :=
  (r.refused.filter fun y => y.pos == x.pos).foldl (fun m y => if older y.age m.age then y else m) (refusedOf x)

/-- A stop remembers a packet that it refuses, up to 4 of them. -/
def remember4 (r : Ring) (x : RefusedPacket) : Ring :=
  if r.refused.any (fun y => y.pos == x.pos && y.key == x.key) || decide (4 ≤ countIf (fun (y : RefusedPacket) => y.pos == x.pos) r.refused) then r
  else { r with refused := r.refused ++ [x] }

/-- The flit stays on ring i and goes on around it (R240). -/
def lapFlit (s : State) (i ix : Nat) (x : RingFlit) (r : Ring) : State :=
  finc (setRing s i { r with flits := r.flits.set ix { x with pos := nextLive s i 20 x.pos } }) F.HAUL_RING_LAPS_LAPS 1 i

/-- A request, response or control flit at its destination (R240): accepted with a reservation, or a lap; room goes to the oldest packet refused there. -/
def eject (s : State) (i ix : Nat) (x : RingFlit) (room : Bool) : State :=
  let r := ring s i
  let key := packetKey x.fl
  let taken := fun (s : State) (r : Ring) => setRing (if x.marked then updFlitReq s x.fl fun q => if q.err = stOK then { q with err := stUncorrectable, errAt := q.addr.toNat } else q else s) i r
  if r.reserved.contains key then taken s { r.drop ix with reserved := r.reserved.erase key }
  else
    let o := oldestRefused r x
    let r' := { r with refused := r.refused.filter fun y => !(y.pos == o.pos && y.key == o.key) }
    if room ∧ o.key = key then taken s { r'.drop ix with reserved := r.reserved ++ List.replicate x.fl.more.toNat key }
    else if room then lapFlit s i ix x (remember4 { r' with reserved := r.reserved ++ List.replicate o.flits o.key } (refusedOf x))
    else lapFlit s i ix x (remember4 r (refusedOf x))

/-- A flit turns onto the crossing ring, or crosses a bridge, into the entry queue there (R237, R239); where that has no room it laps. -/
def turnFlit (s : State) (i ix : Nat) (x : RingFlit) (src dst : Stop) : State :=
  let (d, column, n, p) := legNext (i / 68) (ringColumn i) (ringIndex i) x.pos dst
  let j := ringNo d column n (pickRing (ringStops column) p (legGoal d column n src dst).1)
  if 8 ≤ countIf (fun (q : QueuedFlit) => q.pos == p) (ring s j).queue then lapFlit s i ix x (ring s i)
  else
    let s := setRing s i ((ring s i).drop ix)
    let r := ring s j
    setRing s j { r with queue := r.queue ++ [{ pos := p, source := 4092 + i % 2 + (if d = i / 68 then 0 else 2), fl := x.fl, marked := x.marked }] }

/-- The stop before a shunted stop refuses a packet (R237, rules 5 and 6): its request ends with the reason, which counts (R238). -/
def refuseFlit (s : State) (i ix : Nat) (x : RingFlit) (e : NetRefusal) : State :=
  let st := if e = .unreachable then stUnreachable else stTileFenced
  let s := setRing s i ((ring s i).drop ix)
  let s := if e = .unreachable then finc s F.HAUL_STATUS_UNREACHABLE else s
  if x.fl.cls = .request then updFlitReq s x.fl fun r => if r.err = stOK then { r with err := st, errAt := r.addr.toNat } else r
  else if x.fl.cls = .message ∧ e = .fenced then s
  else loseFlit s x.fl

/-- FLIT_ARRIVAL (R235, R237, R239, R240): the flit is forwarded to the stop where it leaves the ring; there its check is made, and it is accepted, turns, or laps. `room` says that the endpoint has
room for a packet. A message never laps. -/
def execFlitArrival (i ix : Nat) (room : Bool) (seen : FlitSeen) (s : State) : Ans :=
  finish (match (ring s i).flits[ix]? with
    | none => s
    | some x =>
      match flitGoal s i x.fl with
      | .error e => refuseFlit s i ix x e
      | .ok (goal, final) =>
        let multi := isMulti x.fl.route
        let p := forward s i (ring s i) goal 20 (if multi && x.pos == goal then nextLive s i 20 x.pos else x.pos)
        let x := { x with pos := p }
        let s := setRing s i { ring s i with flits := (ring s i).flits.set ix x }
        if p ≠ goal then s
        else if seen.fault = .sidebandUE then
          haulRecord (finc (finc (loseFlit (setRing s i ((ring s i).drop ix)) x.fl) F.HAUL_STATUS_SIDEBAND_UE) F.HAUL_RING_ERR_DISCARDED 1 i) 1 i
        else
          let checks := (List.range 16).map (bodyWordCheck seen.upset)
          let bad := checks.any isBad
          let s := if seen.fault = .corrected ∨ (bad = false ∧ checks.any (· != .clean) = true) then finc s F.HAUL_RING_ERR_CE 1 i else s
          let s := if bad then finc s F.HAUL_RING_ERR_BODY_UE 1 i else s
          let x := { x with marked := x.marked || bad }
          if multi then setRing s i ((ring s i).drop ix)
          else match final, x.fl.route with
            | false, .uni dst src _ _ _ => turnFlit s i ix x src dst
            | _, _ =>
              if x.fl.cls = .message then
                setRing { s with flights := s.flights.map fun f => if carries x.fl f then { f with marked := f.marked || x.marked } else f } i ((ring s i).drop ix)
              else eject s i ix x room)

/-- AGE_BEACON_LAP (R242): the beacon carries the oldest rank age that waits at any stop of ring `ix` of a die (R253). -/
def execAgeBeaconLap (die ix : Nat) (s : State) : Ans :=
  let i := die * 68 + ix
  let r := ring s i
  finish (setRing s i { r with beacon := (leastBy (outranks s r) (heads r)).map (rankAge s r) })

/-! ### Timeouts (R241) -/

/-- The SEAM or ASSAY command of a core with a tag that its engine still holds. -/
def findCmd (s : State) (c : CoreRef) (tag : Nat) : Option SeamCmd :=
  (s.seam.queue ++ s.seam.jobs.map (·.cmd)).find? fun x =>
    match x.origin with
    | .task k _ _ t _ _ => k == coreKey c && t == tag
    | _ => false

/-- A request or command without a response is counted and recorded (R241, R253); the ring of the record is not stated, a free value. -/
def haulTimedOut (s : State) : State :=
  let (w, s) := drawFree (finc s F.HAUL_STATUS_TIMEOUTS)
  haulRecord s 2 (w.toNat % 272)

/-- HAUL_TIMEOUT (R238, R241): an HGET or HPUT, or a SEAM or ASSAY command, completes with HAUL_TIMEOUT. -/
def execHaulTimeout (c : CoreRef) (what : Waited) (s : State) : Ans :=
  match taskOf s c.tile with
  | none => finish s
  | some (slot, t) =>
    if inCopyB t c.tile then finish s
    else finish (match what with
      | .command tag =>
        match (coreAt s c).cmds.contains tag, findCmd s c tag with
        | true, some x =>
          let pc := match x.origin with | .task _ _ _ _ pc _ => pc | _ => 0
          raise (dropCmd (haulTimedOut (settle s s.clk.cyc)) t c tag) slot c 0x22 pc 0
        | _, _ => s
      | .request id =>
        match (coreAt s c).haul.find? fun r => r.id == id with
        | some r =>
          let at_ := r.born + max 1700 (fg s F.HAUL_TIMEOUT_TIMEOUT_HC)
          let s := advanceTo (settle s (max s.clk.cyc at_)) at_
          completeReq (haulTimedOut s) c r stHaulTimeout
        | none => s)

/-! ### Messages (R250, R251) -/

/-- Outcome codes of R122. -/
def oAck : Nat := 0
/-- FULL. -/
def oFull : Nat := 1
/-- GONE. -/
def oGone : Nat := 2
/-- STALE. -/
def oStale : Nat := 3
/-- FENCED. -/
def oFenced : Nat := 4

/-- Whether a message matches its receiver (R250). -/
def msgMatched (s : State) (f : Flight) : Bool :=
  let t := tile s f.dst
  if 8 ≤ f.q then f.gen == (msgQueue t f.q).gen
  else match t.slot with
    | some k => f.slot != k || ((task? s k).any fun x => x.epoch == f.epoch)
    | none => true

/-- The outcome of a message at its queue (Table 9.4). -/
def msgOutcome (s : State) (f : Flight) : Nat :=
  let t := tile s f.dst
  if t.fenced || t.passFail then oFenced
  else if !t.chanOpen then oGone
  else if !msgMatched s f then oStale
  else if f.q < 8 ∧ 32 ≤ (msgQueue t f.q).entries.length then oFull
  else oAck

/-- The counter of an outcome (Table 9.7). -/
def outcomeFld (o : Nat) : Fld :=
  if o = oFull then F.HAUL_CH_Q_NACK_FULL else if o = oGone then F.HAUL_CH_Q_NACK_GONE
  else if o = oStale then F.HAUL_CH_Q_NACK_STALE else if o = oFenced then F.HAUL_CH_Q_NACK_FENCED else F.HAUL_CH_Q_MESSAGES

/-- MSG_ARRIVAL (R250): the message is judged and stored or refused. Messages of one core to one queue arrive in send order (R251). -/
def execMsgArrival (ix : Nat) (s : State) : Ans :=
  finish (match s.flights[ix]? with
    | none => s
    | some f =>
      if (s.flights.take ix).any fun g => g.core == f.core && g.dst == f.dst && g.q == f.q then s
      else
        let o := msgOutcome s f
        let s := { s with flights := s.flights.eraseIdx ix }
        let s := finc s (outcomeFld o) 1 f.dst f.q
        let m : Msg := { data := f.data, request := f.request, sender := f.sender, replyQ := f.replyQ, gen := f.gen, marked := f.marked, at_ := s.clk.cyc }
        let s := if o = oAck then updQueue s f.dst f.q fun q => { q with entries := q.entries ++ [m], resv := if 8 ≤ f.q then q.resv - 1 else q.resv } else s
        { s with outFlits := s.outFlits ++
            [{ core := f.core, slot := f.slot, epoch := f.epoch, tag := f.tag, code := o, resv := f.resv }] })

/-- Give an outcome to a core that waits for its tag: it is queued for MSG STAT, and a failed REQ gives its reply slot back. -/
def giveOutcome (s : State) (c : CoreRef) (f : OutcomeFlit) : State :=
  if !(coreAt s c).sends.contains f.tag then s
  else
    let s := updCore s c fun k => { k with sends := k.sends.erase f.tag, outcomes := k.outcomes ++ [(f.code, f.tag)] }
    if f.code = oAck then s
    else
      let s := finc s F.HAUL_CH_SEND_NACKED 1 c.tile c.mover.toNat
      match f.resv with
      | some q => updQueue s c.tile q fun m => { m with resv := m.resv - 1 }
      | none => s

/-- MSG_OUTCOME (R251): the outcome reaches its sender, if its task still holds the slot with that epoch. Copy B of a shadow run takes copy A's outcome of a message
that left the region (R349). -/
def execMsgOutcome (ix : Nat) (s : State) : Ans :=
  finish (match s.outFlits[ix]? with
    | none => s
    | some f =>
      let s := { s with outFlits := s.outFlits.eraseIdx ix }
      let c : CoreRef := { tile := f.core / 2, mover := decide (f.core % 2 = 1) }
      match taskOf s c.tile with
      | some (slot, t) =>
        if slot ≠ f.slot ∨ t.epoch ≠ f.epoch then s
        else
          let s := giveOutcome s c f
          if t.shadow = 0 then s
          else
            let d : CoreRef := { c with tile := pairOf t c.tile }
            let own := s.flights.any (fun g => g.core == coreKey d && g.tag == f.tag) || s.outFlits.any fun g => g.core == coreKey d && g.tag == f.tag
            if own then s else giveOutcome s d f
      | none => s)

end Sys2Proof.Machine
end

