-- ==== Sys2Proof/Machine/SecOps.lean ====
section
/-! DEFINITION. The key engine's shared operations (chapter 16): image copies and floors, measurement registers, identity and attestation keys, and memory keys. -/

namespace Sys2Proof.Machine

/-! ### Images and floors (R393, R395) -/

/-- The running SVN of an image type, 1 loader, 2 Overman, 3 tile, 4 microcode. -/
def svnFld (t : Nat) : Fld :=
  if t = 1 then F.SEC_FW_STATUS_SVN_LOADER else if t = 2 then F.SEC_FW_STATUS_SVN_OVERMAN
  else if t = 3 then F.SEC_FW_STATUS_SVN_TILE else F.SEC_FW_STATUS_SVN_MICRO

/-- The floor of an image type. -/
def floorFld (t : Nat) : Fld :=
  if t = 1 then F.SEC_FW_FLOOR_FLOOR_LOADER else if t = 2 then F.SEC_FW_FLOOR_FLOOR_OVERMAN
  else if t = 3 then F.SEC_FW_FLOOR_FLOOR_TILE else F.SEC_FW_FLOOR_FLOOR_MICRO

/-- Copy c (0 A, 1 B) of an image type in flash. A module leaves manufacture with its factory image of SVN 0 in copy A, and nothing that is accepted in copy B (DESIGN CHOICE). The factory image's length is not stated; it fits
any reserve (DESIGN CHOICE, log entry 84). -/
def imageCopy (s : State) (t c : Nat) : Image :=
  (SMap.find s.ke.images (2 * t + c)).getD { svn := 0, digest := fit 64 (Config.factoryImage t), ok := decide (c = 0), size := 0, body := Config.factoryBody t }

/-- Whether a copy is accepted at boot: its signatures were accepted, and its SVN is at least the floor (Table 16.3). -/
def copyAccepted (s : State) (t c : Nat) : Bool := (imageCopy s t c).ok && decide (fg s (floorFld t) ≤ (imageCopy s t c).svn)

/-- The copy that boot uses (R395): the accepted copy with the higher SVN, A when they are equal. -/
def bootCopy (s : State) (t : Nat) : Option Nat :=
  let a := copyAccepted s t 0
  let b := copyAccepted s t 1
  if a && b then some (if (imageCopy s t 0).svn < (imageCopy s t 1).svn then 1 else 0)
  else if a then some 0
  else if b then some 1
  else none

/-- The copy of an image type in use. -/
def copyInUse (s : State) (t : Nat) : Nat := SMap.get 0 s.ke.copies t

/-! ### Measurement (R396) -/

/-- Measurement register Mi, i from 1. -/
def meas (s : State) (i : Nat) : List Byte := fit 64 (SMap.get [] s.ke.meas (i - 1))

/-- Extend Mi with a digest. -/
def extend (s : State) (i : Nat) (digest : List Byte) : State :=
  updKe s fun e => { e with meas := SMap.set e.meas (i - 1) (fit 64 (Config.sha512 (meas s i ++ digest))) }

/-- The measurement register of an image type (Table 16.4). -/
def measOf (t : Nat) : Nat := if t = 3 then 5 else t

/-- An image of a type is put to use: its copy, its SVN, and its measurement. -/
def useCopy (s : State) (t c : Nat) : State :=
  let x := imageCopy s t c
  let s := updKe s fun e => { e with copies := SMap.set e.copies t c, staged := e.staged.filter (· != t) }
  extend (fs s (svnFld t) x.svn) (measOf t) x.digest

/-- A boot image is verified, measured and run, or none is accepted. -/
def bootImage (s : State) (t : Nat) : Option State := (bootCopy s t).map fun c => useCopy s t c

/-- The security record extends M3. -/
def measureSecurity (s : State) : State :=
  extend s 3 (fit 64 (Config.sha512 (fit 64 (Config.securityRecord s.ke.owner (fb s F.SEC_FW_CTL_OWNER_REQ) (rd s .secFwFloor)))))

/-! ### Identity (R390, R391) -/

/-- The bytes of a string of ASCII characters. -/
def ascii (x : String) : List Byte := x.toList.map fun c => BitVec.ofNat 8 c.toNat

/-- The seed of the device identity key. -/
def dikSeed : List Byte := fit 32 (Config.hkdf Config.deviceSecret (ascii "NRX-DIK") (ascii "identity-1") 32)

/-- The DIK public key. -/
def dikPub : List Byte := fit 32 (Config.edPublic dikSeed)

/-- The PAK seed of partition p and the epoch at its creation. -/
def pak (s : State) (p : Nat) : List Byte × Nat := (SMap.find s.ke.paks p).getD ([], 0)

/-- The PAK public key of partition p. -/
def pakPub (s : State) (p : Nat) : List Byte := fit 32 (Config.edPublic (pak s p).1)

/-- The PAK certificate of partition p. -/
def pakCert (s : State) (p : Nat) : List Byte := (Config.pakCert (pakPub s p) p (pak s p).2 (grade s)).take 1024

/-- The DIK certificate: the one provisioned, or the one made at manufacture. -/
def dikCert (s : State) : List Byte := ((if s.ke.cert.isEmpty then Config.factoryCert else s.ke.cert).take 1024)

/-- The two certificates as they stand in a buffer (R397): their lengths in 16 bits each, and from 64 bytes on their bytes. -/
def chainBytes (s : State) (p : Nat) : List Byte :=
  let a := pakCert s p
  let b := dikCert s
  fit 64 (bytesOf 2 a.length ++ bytesOf 2 b.length) ++ a ++ b

/-- Make PAKs for the partitions that exist: at the end of a device reset or cold boot (R390). -/
def makePaks (s : State) : State := (List.range 8).foldl (fun s p => if partExists s p then makePak s p else s) s

end Sys2Proof.Machine
end

