-- ==== Sys2Proof/Machine/Tge.lean ====
section
/-! DEFINITION. The Tick schedule, submission and completion queues, graphs, slots, admission, gates and cancellation (chapter 2), but for the
boundary itself and the launch and end of a task. -/

namespace Sys2Proof.Machine

/-! ### The Tick schedule -/

/-- TICK_SWITCH_ARM (R31, R32): the conditions hold, and the switch is armed with its captured period, or SWITCH_ERR is set. -/
def execTickSwitchArm (f : Func) (v : Word) (s : State) : Ans :=
  finish (if !isPriv s f || v = 0 then s
         else
           let p := fg s F.TGE_TICK_CTL_PERIOD_NEXT
           if isBoundary s v.toNat && decide (mer s + 1000000 ≤ v.toNat) && decide (20 ≤ p) && decide (p ≤ 2000) then
             let s := { s with clk := { s.clk with switch := some (v.toNat, p) } }
             wr (fs (fs s F.TGE_TICK_CTL_PENDING 1) F.TGE_TICK_CTL_SWITCH_ERR 0) .tgeTickSwitch v
           else fs s F.TGE_TICK_CTL_SWITCH_ERR 1)

/-- TICK_SWITCH_CANCEL (R31). -/
def execTickSwitchCancel (f : Func) (s : State) : Ans :=
  finish (if !isPriv s f then s
         else
           let s := { s with clk := { s.clk with switch := none } }
           wr (fs (fs s F.TGE_TICK_CTL_PENDING 0) F.TGE_TICK_CTL_SWITCH_ERR 0) .tgeTickSwitch (BitVec.ofNat 64 s.clk.origin))

/-- TICK_CTL_WRITE (R31, R32): ignored while a switch is pending. -/
def execTickCtlWrite (f : Func) (v : Word) (s : State) : Ans :=
  finish (if !isPriv s f || fb s F.TGE_TICK_CTL_PENDING then s else writeReg s .tgeTickCtl v (-1))

/-! ### Queues (R40 to R43) -/

/-- The partition of queue q (R40). -/
def queuePart (q : Nat) : Nat := q / 16

/-- Entries of queue q's submission ring. -/
def sqSize (s : State) (q : Nat) : Nat := 2 ^ fg s F.TGE_SQ_CTL_SIZE_LOG2 q

/-- Entries of queue q's completion ring. -/
def cqSize (s : State) (q : Nat) : Nat := 2 ^ fg s F.TGE_CQ_CTL_SIZE_LOG2 q

/-- Whether the completion ring is full (R43). -/
def cqFull (s : State) (q : Nat) : Bool :=
  decide ((fg s F.TGE_CQ_TAIL_INDEX q + 1) % cqSize s q = fg s F.TGE_CQ_TAIL_DOORBELL q % cqSize s q)

/-- The released graphs of queue q whose records are not written, in release order (R45). -/
def releasedOf (s : State) (q : Nat) : List Graph :=
  let key := fun (g : Graph) => (g.released.getD 0, g.finished.getD 0, g.seq)
  sortBy (fun a b => decide ((key a).1 < (key b).1) || (decide ((key a).1 = (key b).1) &&
      (decide ((key a).2.1 < (key b).2.1) || (decide ((key a).2.1 = (key b).2.1) && decide (a.seq < b.seq)))))
    (s.tge.graphs.filter fun g => g.queue == q && g.released.isSome)

/-- CQ_WAIT reads 1 while a released record is held for ring space or for CQ_CTL.EN. -/
def showCqWait (s : State) (q : Nat) : State :=
  fs s F.TGE_Q_STATUS_CQ_WAIT ((releasedOf s q).any (fun g => !g.mute) && (cqFull s q || !fb s F.TGE_CQ_CTL_EN q)).toNat q

/-- Whether the module answers doorbells of a queue from a function: not in device reset, not for a fenced partition (Table 15.4). -/
def doorbellOpen (s : State) (f : Func) (p : Nat) : Bool :=
  mayAct s f p && !partFenced s p && !inDeviceReset s

/-- SQ_TAIL_DOORBELL (R40, R41). -/
def execSqTailDoorbell (f : Func) (q : Nat) (v : Word) (s : State) : Ans :=
  finish (
    let t := getBits v 15 0
    if !doorbellOpen s f (queuePart q) then s
    else if sqSize s q ≤ t then fs s F.TGE_Q_STATUS_DOORBELL_RANGE 1 q
    else
      let old := fg s F.TGE_SQ_HEAD_DOORBELL q
      let s := fs s F.TGE_SQ_HEAD_DOORBELL t q
      if t = old then s
      else updTge s fun x => { x with dbells := SMap.set x.dbells q (SMap.get [] x.dbells q ++ [(mer s, t)]) })

/-- CQ_HEAD_DOORBELL (R40, R41, R43). -/
def execCqHeadDoorbell (f : Func) (q : Nat) (v : Word) (s : State) : Ans :=
  finish (
    let t := getBits v 15 0
    if !doorbellOpen s f (queuePart q) then s
    else if cqSize s q ≤ t then fs s F.TGE_Q_STATUS_DOORBELL_RANGE 1 q
    else showCqWait (fs s F.TGE_CQ_TAIL_DOORBELL t q) q)

/-- A write to a queue control register (R42): SIZE_LOG2 is ignored while EN is 1, and EN stays 0 with CFG_ERR where SIZE_LOG2 is outside 4 to 16. -/
def queueCtl (s : State) (q : Nat) (r : RegName) (en size : Fld) (v : Word) : State :=
  let size0 := fg s size q
  let was := fb s en q
  let s := writeReg s r v (-1) q
  let s := if was then fs s size size0 q else s
  if fb s en q && !was && (decide (fg s size q < 4) || decide (16 < fg s size q)) then
    fs (fs s en 0 q) F.TGE_Q_STATUS_CFG_ERR 1 q
  else s

/-- SQ_CTL_WRITE (R42). -/
def execSqCtlWrite (f : Func) (q : Nat) (v : Word) (s : State) : Ans :=
  finish (if mayAct s f (queuePart q) then queueCtl s q .tgeSqCtl F.TGE_SQ_CTL_EN F.TGE_SQ_CTL_SIZE_LOG2 v else s)

/-- CQ_CTL_WRITE (R42). -/
def execCqCtlWrite (f : Func) (q : Nat) (v : Word) (s : State) : Ans :=
  finish (if mayAct s f (queuePart q) then
      showCqWait (queueCtl s q .tgeCqCtl F.TGE_CQ_CTL_EN F.TGE_CQ_CTL_SIZE_LOG2 v) q
    else s)

/-! ### Fetching headers (R34, R37, R39, R41) -/

/-- Nodes that a graph counts as in flight (R39). -/
def Graph.nodeCount (g : Graph) : Nat :=
  let n := db g.hdr 0 16 0
  if 1 ≤ n ∧ n ≤ 65536 ∧ db g.hdr 1 52 32 ≤ 1048576 then n else 0

/-- Nodes in flight. -/
def nodesInFlight (s : State) : Nat := (s.tge.graphs.map Graph.nodeCount).foldl (· + ·) 0

/-- The pending entries of queue q that may be fetched: EN is 1, the partition is in service and the head has not reached the tail. -/
def queuePending (s : State) (q : Nat) : Bool :=
  fb s F.TGE_SQ_CTL_EN q && decide (fg s F.TGE_SQ_HEAD_INDEX q ≠ fg s F.TGE_SQ_HEAD_DOORBELL q) && !partFenced s (queuePart q)

/-- The queue whose oldest unfetched doorbell is oldest (R41). DESIGN CHOICE: of two such doorbells of one Meridian time the lower queue is served first (log entry 82). -/
def oldestQueue (s : State) : Option Nat :=
  (leastBy (fun (a b : Nat × Nat) => decide (a.2 < b.2))
    (((List.range 128).filter (queuePending s)).map fun q => (q, ((SMap.get [] s.tge.dbells q).headD (0, 0)).1))).map (·.1)

/-- The DETAIL of a header's first failed check (Table 2.6), 0 for none. -/
def headerCheck (ws : List Word) : Nat :=
  if db ws 0 63 60 ≠ 2 then 0x01
  else if anyBits ws ([(0, 59, 52), (0, 39, 17), (1, 63, 53)] ++ (rangeFrom 5 11).map fun k => (k, 63, 0)) then 0x02
  else if db ws 0 16 0 = 0 ∨ 65536 < db ws 0 16 0 ∨ 1048576 < db ws 1 52 32 then 0x04
  else if db ws 2 6 0 ≠ 0 ∨ db ws 3 1 0 ≠ 0 then 0x08
  else 0

/-- Doorbells that are still unfetched once the head of queue q stands at i. -/
def dropFetched (i tail : Nat) (l : List (Nat × Nat)) : List (Nat × Nat) :=
  if i = tail then [] else match l with
    | (t, x) :: r => if x = i then r else (t, x) :: r
    | [] => []

/-- GRAPH_HEADER_FETCH (R39, R41): the oldest pending header is fetched with the rights of its partition and checked. DESIGN CHOICE: R40 puts rings in host memory or in the
partition's Tier 1 and names no refusal of another base; any address that the partition may reach is served (log entry 82). -/
def execGraphHeaderFetch (s : State) : Ans :=
  finish (match oldestQueue s with
    | none => s
    | some q =>
      let p := queuePart q
      let i := fg s F.TGE_SQ_HEAD_INDEX q
      let base := (rd s .tgeSqBase q).toNat
      if 4096 ≤ s.tge.graphs.length ∨ awake s = false then s
      else
        match engineRead s p (BitVec.ofNat 64 (base + 128 * i)) 128 with
        | (.wait, s) => s
        | (.refused _ _, s) => fs (fs s F.TGE_Q_STATUS_SQ_ADDR_FAULT 1 q) F.TGE_SQ_CTL_EN 0 q
        | (.data bs, s') =>
          let g : Graph := { queue := q, seq := s.tge.nextSeq, hdr := wordsOf 16 bs, validated := false, nodes := [], edges := [],
                             cancelled := false, aborted := false, appends := 0, unacked := false, status := none, shadow := false, mute := false, finished := none,
                             released := none }
          if 524288 < nodesInFlight s + g.nodeCount then s
          else
            let i' := (i + 1) % sqSize s q
            let s := fs s' F.TGE_SQ_HEAD_INDEX i' q
            let tail := fg s F.TGE_SQ_HEAD_DOORBELL q
            let s := updTge s fun x =>
              { x with graphs := x.graphs ++ [g], nextSeq := x.nextSeq + 1,
                       dbells := SMap.set x.dbells q (dropFetched i' tail (SMap.get [] x.dbells q)) }
            match headerCheck g.hdr with
            | 0 => s
            | d => failGraph s g.seq 2 d true 0)

/-! ### Validation (R37, R38) -/

/-- The arrays of a graph: descriptors and edges, a refusal, or that a peer's data has not arrived. Data that has arrived stays until both arrays have. -/
def fetchArrays (s : State) (g : Graph) : Option (Option (List (List Word) × List Nat)) × State :=
  let n := db g.hdr 0 16 0
  let e := db g.hdr 1 52 32
  match engineRead s g.part (dw g.hdr 2) (128 * n) with
  | (.refused _ _, s) => (some none, s)
  | (.wait, s) => (none, s)
  | (.data bs, s1) =>
    let descs := (List.range n).map fun k => wordsOf 16 (bs.drop (128 * k))
    if e = 0 then (some (some (descs, [])), s1)
    else
      match engineRead s1 g.part (dw g.hdr 3) (4 * e) with
      | (.refused _ _, s) => (some none, s)
      | (.wait, s2) => (none, updXp s2 fun x => { x with arrived := s.xp.arrived })
      | (.data es, s2) => (some (some (descs, (List.range e).map fun k => ofBytes ((es.drop (4 * k)).take 4))), s2)

/-- Validate a graph whose arrays are here (R37, R38). -/
def validateGraph (s : State) (g : Graph) (descs : List (List Word)) (edges : List Nat) : State :=
  if confBad s g.part g descs then failGraph s g.seq 2 0x09 true 0
  else match nodesCheck descs (db g.hdr 1 52 32) edges with
    | some (k, d) => failGraph s g.seq 2 d false k
    | none =>
      if strayBad descs edges then failGraph s g.seq 2 0x02 true 0
      else
        let nodes := descs.map Node.fresh
        match stateTests s g.part nodes with
        | some (k, st) => failGraph s g.seq st 0 false k
        | none =>
          let nodes := if g.cancelled then nodes.map fun n => { n with state := .cancelled } else nodes
          let s := updGraph s g.seq fun g => { g with validated := true, nodes := nodes, edges := edges }
          settleGraphs (evalWaiting s)

/-- Validate the first of a list of graphs whose arrays are here or are refused. -/
def validateFirst (s : State) : List Graph → State
  | [] => s
  | g :: gs =>
    match fetchArrays s g with
    | (none, s) => validateFirst s gs
    | (some none, s) => failGraph s g.seq 2 0x09 true 0
    | (some (some (ds, es)), s) => validateGraph s g ds es

/-- GRAPH_VALIDATE (R37 to R39). -/
def execGraphValidate (s : State) : Ans := finish (validateFirst s (s.tge.graphs.filter fun g => !g.validated))

/-! ### Slots (R47) -/

/-- SLOT_GRANT (R47). -/
def execSlotGrant (s : State) : Ans :=
  finish (match leastBy ageBefore (nodesIn s .eligible) with
    | none => s
    | some (seq, k, _) =>
      let x := freeSlotFrom 0 s.tge.slots
      if 65536 ≤ x then s
      else
        let e := ((slotOf s x).epoch + 1) % 256
        let s := updTge s fun t => { t with slots := SMap.set t.slots x { epoch := e, holder := some (seq, k) } }
        updNode s seq k fun n => { n with state := .ready, slot := some x })

/-! ### Admission (R48 to R53, R161, R163) -/

/-- The context of a record about a node that holds a slot but no region. -/
def nodeCtx (s : State) (seq k : Nat) (r : Rec) : Rec :=
  match graph? s seq, node? s seq k with
  | some g, some n =>
    { (r.ofPart s g.part) with stream := n.stream, task := n.slot.map fun x => ((slotOf s x).epoch, x, k, g.tag), graph := some seq }
  | _, _ => r

/-- Whether admission of a partition's tasks pauses (R53, R373, R380). -/
def partPaused (s : State) (p : Nat) : Bool :=
  partFenced s p || bitOf (rd s .guardResetStatus) (8 + p) || fb s F.GUARD_REJOIN_STATUS_HELD p

/-- The time test of R49 at the present cycle. -/
def timeFits (s : State) (n : Node) : Bool := decide (tickCycle s + n.launch + n.wcd + 3400 ≤ period s * 1700)

/-- The energy tests of R50, in nJ. -/
def energyFits (s : State) (p : Nat) (n : Node) : Bool :=
  let e : Int := (n.energy * 1000 : Nat)
  (match s.tge.budget with | none => true | some b => decide (e ≤ b)) &&
  (match SMap.find s.tge.caps p with | none => true | some b => decide (e ≤ b))

/-- Subtract an admitted task's ENERGY (R50, R52). -/
def chargeEnergy (s : State) (p : Nat) (n : Node) : State :=
  let e : Int := (n.energy * 1000 : Nat)
  let s := updTge s fun x => { x with budget := x.budget.map (· - e), caps := SMap.modify x.caps p (· - e) }
  finc s F.TGE_ENERGY_STATUS_ADMITTED_UJ n.energy

/-- The tile's queues open for a new task (R248): every entry and reservation is cleared and the generation of each reply queue rises. -/
def openChannels (t : Tile) : Tile :=
  { t with chanOpen := true,
           queues := (List.range 16).map fun q =>
             (q, { entries := [], resv := 0, gen := ((SMap.get { entries := [], resv := 0, gen := 0 } t.queues q).gen + q / 8) % 256 }) }

/-- Start a row multicast with RELAY from the unit-strip stop of a row (R244, R245). -/
def startCast (s : State) (die row mask relay : Nat) (load : CastLoad) : State :=
  let m : Mcast :=
    { die := die, column := false, index := row, home := 0, mask := mask, relay := relay, tag := s.nextMc % 65536, sends := 0, born := s.clk.cyc, load := load, parent := none,
      cols := [], done := false }
  { s with mcasts := SMap.set s.mcasts s.nextMc m, nextMc := s.nextMc + 1 }

/-- The multicast of a launch load (R245): along the first row of the region to its columns, and relayed along them to its rows. -/
def launchLoads (s : State) (slot : Nat) (r : Region) (tiles : List Nat) : State :=
  startCast s r.die r.row (((tiles.filter fun n => tileRow n == r.row).map fun n => 2 ^ tileCol n).foldl (· + ·) 0)
    ((rangeFrom r.row r.rows).foldl (fun a y => a + 2 ^ y) 0) (.launch slot)

/-- Admit a READY task onto a region: it becomes LAUNCHING, its region is occupied, its energy is charged, and older READY tasks of its partition are passed over. -/
def launchTask (s : State) (seq k : Nat) (g : Graph) (n : Node) (r : Region) : State :=
  let slot := n.slot.getD 0
  let tiles := regionTiles s r
  let t : Task := { gseq := seq, node := k, part := g.part, stream := n.stream, epoch := (slotOf s slot).epoch, region := r, tiles := tiles,
                    args := (n.words.drop 6).take 4, codeEnd := 0, start := 0, launchAt := s.clk.cyc + n.launch, started := false,
                    sets := [], shadow := g.shadow.toNat }
  let s := launchLoads (setTask s slot t) slot r tiles
  let s := tiles.foldl (fun s i =>
    updTile s i fun x => { openChannels x with slot := some slot, base := fg s F.TS_CTL_RESERVE i * 2 ^ 15 }) s
  let s := chargeEnergy s g.part n
  let s := updTge s fun x => { x with graphs := x.graphs.map fun h =>
    if h.part = g.part then
      { h with nodes := h.nodes.zipIdx.map fun (m, j) =>
          if m.state = .ready ∧ ageBefore (h.seq, j, m) (seq, k, n) = true then { m with passedNow := true } else m }
    else h }
  updNode s seq k fun n => { n with state := .launching, region := some r, passed := 0, passedNow := false, reserved := false }

/-- Whether a search of die d for a node found no origin and no tile of the die has come free since (R163). -/
def searchedInVain (s : State) (seq k d : Nat) : Bool :=
  s.tge.noFit.any fun (q, j, e, c) =>
    q == seq && j == k && e == d &&
    !(s.tiles.any fun (n, t) => tileDie n == d && decide (c < t.freeAt + 80) && decide (t.freeAt + 80 ≤ s.clk.cyc))

/-- Offer a task to the placers of a list of dies in turn (R48, R163). -/
def placeOn (s : State) (seq k : Nat) (g : Graph) (n : Node) : List Nat → Bool × State
  | [] => (false, s)
  | d :: ds =>
    if searchedInVain s seq k d || decide (s.clk.cyc < SMap.get 0 s.tge.placer d) then placeOn s seq k g n ds
    else
      let s := updTge s fun x => { x with placer := SMap.set x.placer d (s.clk.cyc + 64) }
      match findOrigin s g.part d n with
      | some r => (true, launchTask s seq k g n r)
      | none => placeOn (updTge s fun x => { x with noFit := x.noFit ++ [(seq, k, d, s.clk.cyc)], tight := d :: x.tight.erase d }) seq k g n ds

/-- A READY task fails a test of R38 at its examination (R51). -/
def unsatTask (s : State) (seq k why : Nat) : State :=
  faultNode (emit s (nodeCtx s seq k (blankRec s 0x03 why 0))) seq k why

/-- Examine one READY task (R48 to R52): whether a decision was made, and the state. -/
def examine (s : State) (blocked : List Nat) (x : Nat × Nat × Node) : Bool × State :=
  let (seq, k, n) := x
  match graph? s seq with
  | none => (false, s)
  | some g =>
    if partPaused s g.part || (n.restarted && decide ((rd s .tgeTickNow).toNat ≤ n.resetTick)) then (false, s)
    else if unsatisfiable s g.part n then (true, unsatTask s seq k 3)
    else if tooLong s n then (true, unsatTask s seq k 4)
    else if !timeFits s n || (!n.reserved && !energyFits s g.part n) then (false, s)
    else placeOn s seq k g n ((permittedDies n).filter fun d => n.reserved || !blocked.contains d)

/-- Examine tasks in turn until a decision is made. -/
def examineAll (s : State) (blocked : List Nat) : List (Nat × Nat × Node) → Bool × State
  | [] => (false, s)
  | x :: xs =>
    match examine s blocked x with
    | (true, s) => (true, s)
    | (false, s) => examineAll s blocked xs

/-- The dies that waiting reserved tasks keep unreserved tasks off (R52). -/
def reservedDies (l : List (Nat × Nat × Node)) : List Nat :=
  l.flatMap fun (_, _, n) => if n.reserved then permittedDies n else []

/-- Whether the admission window of the Tick is still open (Table 2.17); no task is examined once it has closed (R48). -/
def windowOpen (s : State) : Bool := decide (tickCycle s + 3400 ≤ period s * 1700)

/-- One examination of the READY tasks at the present cycle: reserved tasks first, oldest first, then the others. -/
def admitNow (s : State) : Bool × State :=
  if !windowOpen s then (false, s) else
  let l := sortBy ageBefore (nodesIn s .ready)
  examineAll s (reservedDies l) (l.filter (fun x => x.2.2.reserved) ++ l.filter (fun x => !x.2.2.reserved))

/-- The next cycle after the present one, at most `lim`, at which a placer is free again or a tile that is free now may be used. -/
def nextWake (s : State) (lim : Nat) : Option Nat :=
  let freed := ((SMap.vals s.tiles).filter fun (t : Tile) => t.slot.isNone).map fun (t : Tile) => t.freeAt + 80
  let later := fun (c : Nat) => decide (s.clk.cyc < c) && decide (c ≤ lim)
  leastBy (fun (a b : Nat) => decide (a < b)) ((SMap.vals s.tge.placer ++ freed).filter later)

/-- Examine now and, while nothing is decided and no search starts, at the next cycles up to `lim` at which the outcome may differ. -/
def admitBy : Nat → Nat → State → Option State
  | 0, _, _ => none
  | n + 1, lim, s =>
    match admitNow s with
    | (true, s) => some s
    | (false, u) =>
      if u.tge.noFit.length ≠ s.tge.noFit.length then some u
      else match nextWake u lim with
        | some c => admitBy n lim (advanceTo u c)
        | none => none

/-- ADMISSION (R48): the front end examines READY tasks from cycle 256 of the Tick and takes the first decision, or starts the first searches in vain (R163), that the
next 80 cycles bring. -/
def execAdmission (s : State) : Ans :=
  finish (if !s.tge.admitOn || s.tge.halted || !awake s then s
         else
           let s := advanceTo s (s.clk.tickCyc + 256)
           match admitBy 64 (s.clk.cyc + 80) s with
           | some s => s
           | none => (admitNow s).2)

/-! ### Region resets (R57) -/

/-- REGION_RESET_COMPLETE (R46, R57, Table 2.18). DESIGN CHOICE: R57 speaks of a graph cancelled during RESETTING; a restart of a task whose graph was cancelled or aborted while it
was still RUNNING ends CANCELLED too (log entry 82). -/
def execRegionResetComplete (slot : Nat) (s : State) : Ans :=
  finish (match task? s slot with
    | none => s
    | some t =>
      match graph? s t.gseq, node? s t.gseq t.node with
      | some g, some n =>
        if n.state ≠ .resetting then s
        else
          let noRestart := n.twice || decide (db n.words 11 27 27 = 1)
          let again := !noRestart && (if n.overrun then decide (n.nOverrun < db n.words 11 31 28) else decide (n.nFence < 3))
          let s := freeTiles s t.tiles s.clk.cyc
          if !again then faultNode s t.gseq t.node 1
          else if g.cancelled || g.aborted then
            settleGraphs (freeSlot (updNode s t.gseq t.node fun n => { n with state := .cancelled, slot := none }) slot)
          else
            let s := bumpEpoch { s with tasks := SMap.erase s.tasks slot } slot
            updNode s t.gseq t.node fun n =>
              { n with state := .ready, restarted := true, region := none, nOverrun := n.nOverrun + (if n.overrun then 1 else 0),
                       nFence := n.nFence + (if n.overrun then 0 else 1) }
      | _, _ => s)

/-! ### Completion records (R43 to R45) -/

/-- Whether a node ended FAULTED. -/
def Node.isFaulted (n : Node) : Bool := n.state == .faulted

/-- STATUS of a graph (Table 2.13). -/
def Graph.code (g : Graph) : Nat :=
  let st := (g.status.map (·.1)).getD 0
  let any := fun w => g.nodes.any fun n => n.isFaulted && n.why == w
  if st = 2 then 2
  else if g.cancelled then 5
  else if st = 3 || any 3 then 3
  else if st = 4 || any 4 then 4
  else if g.nodes.any Node.isFaulted then 1
  else if g.unacked then 6
  else 0

/-- A graph's completion record (Table 2.12). -/
def recordOf (g : Graph) (phase : Nat) : List Word :=
  let faulted := (g.nodes.filter Node.isFaulted).length
  let cancelled := (g.nodes.filter fun n => n.state == .cancelled).length
  let first := match g.status with
    | some (_, _, noNode, k) => if noNode then 0 else k
    | none => (g.nodes.findIdx? Node.isFaulted).getD 0
  let detail := if g.code = 2 then (g.status.map (·.2.1)).getD 0 else 0
  let noNode := match g.status with
    | some (2, _, b, _) => b.toNat
    | _ => 0
  [BitVec.ofNat 64 (g.code * 2 ^ 56 + detail * 2 ^ 48 + noNode * 2 ^ 47 + g.queue * 2 ^ 40 + phase), g.tag,
   BitVec.ofNat 64 (g.released.getD 0),
   BitVec.ofNat 64 (first % 65536 * 2 ^ 48 + faulted % 2 ^ 17 * 2 ^ 31 + cancelled % 2 ^ 17 * 2 ^ 14)]

/-- Whether an error record names a task of a graph. -/
def Rec.names (r : Rec) (g : Graph) : Bool := r.graph == some g.seq

/-- Whether an error record of one of a graph's tasks has not been written to the partition log, or counted, yet (R45). -/
def recordsPending (s : State) (g : Graph) : Bool :=
  s.recs.any (·.names g) || ((SMap.find s.logs (1 + g.part)).any fun l => l.queue.any fun (_, r) => r.names g)

/-- The post of a graph whose record is written, or would have been written (R45). -/
def graphPost (s : State) (g : Graph) : State :=
  if g.code ≠ 2 ∧ db g.hdr 0 50 50 = 1 then gateAdd s g.part (db g.hdr 0 49 40) (db g.hdr 1 31 0) else s

/-- Free a graph's state. -/
def dropGraph (s : State) (seq : Nat) : State := updTge s fun x => { x with graphs := x.graphs.filter fun g => g.seq != seq }

/-- Write a graph's record into its ring, wherever the partition may write (DESIGN CHOICE for a base outside host memory and Tier 1, log entry 82). -/
def writeRecord (s : State) (g : Graph) : State :=
  let q := g.queue
  let p := g.part
  let i := fg s F.TGE_CQ_TAIL_INDEX q
  let ga := BitVec.ofNat 64 ((rd s .tgeCqBase q).toNat + 32 * i)
  let bs := bytesOfWords (recordOf g (fg s F.TGE_CQ_TAIL_PHASE q))
  let ((st, _), s) := engineWrite s p ga bs
  let s := dropGraph s g.seq
  if st = stOK then
    let i' := (i + 1) % cqSize s q
    let s := fs s F.TGE_CQ_TAIL_INDEX i' q
    let s := if i' = 0 then fs s F.TGE_CQ_TAIL_PHASE (1 - fg s F.TGE_CQ_TAIL_PHASE q) q else s
    let s := graphPost s g
    if fb s F.TGE_CQ_CTL_IRQ_EN q then signal s (ownerFn s p) (fg s F.TGE_CQ_CTL_VECTOR q) else s
  else graphPost (fs s F.TGE_Q_STATUS_CQ_ADDR_FAULT 1 q) g

/-- COMPLETION_RECORD_WRITE (R43 to R45): the next released record of queue q is written once nothing holds it. One that a Function Level Reset has discarded posts its gate
at the moment at which it would have been written. -/
def execCompletionRecordWrite (q : Nat) (s : State) : Ans :=
  finish (match releasedOf s q with
    | [] => s
    | g :: _ =>
      if recordsPending s g || (!g.mute && (cqFull s q || !fb s F.TGE_CQ_CTL_EN q)) then showCqWait s q
      else
        let s := if g.released = some s.clk.tickMer then advanceTo s (s.clk.tickCyc + 256) else s
        showCqWait (if g.mute then graphPost (dropGraph s g.seq) g else writeRecord s g) q)

/-! ### Gates and cancellation (R54) -/

/-- GATE_VALUE_WRITE (R54). -/
def execGateValueWrite (f : Func) (p g : Nat) (v : Word) (s : State) : Ans :=
  finish (if mayAct s f p then gateSet s p g (fieldOf F.TGE_GATE_VALUE v) else s)

/-- GATE_ADD (R54): through a virtual function the partition is its own. -/
def execGateAdd (f : Func) (v : Word) (s : State) : Ans :=
  finish (
    let add := fun p => gateAdd s p (fieldOf F.TGE_GATE_ADD_GATE v) (fieldOf F.TGE_GATE_ADD_ADD v)
    match f with
    | .vf i => match vfPart s i with
      | some p => if mayAct s f p then add p else s
      | none => s
    | _ => if isPriv s f then add (fieldOf F.TGE_GATE_ADD_PART v) else s)

/-- Whether a queue's partition belongs to the writing function (R54, R323). -/
def cancelReaches (s : State) (f : Func) (p : Nat) : Bool :=
  match f with
  | .vf i => vfPart s i == some p && mayAct s f p
  | _ => isPriv s f && decide (ownerFn s p = 0)

/-- Cancel one graph in flight. -/
def cancelGraph (s : State) (g : Graph) : State :=
  let s := updGraph s g.seq fun g => { g with cancelled := true }
  settleGraphs ((List.range g.nodes.length).foldl (fun s k => cancelNode s g.seq k) s)

/-- GRAPH_CANCEL (R54). -/
def execGraphCancel (f : Func) (v : Word) (s : State) : Ans :=
  finish ((s.tge.graphs.filter fun g => !g.shadow && g.tag == v && cancelReaches s f g.part && g.finished.isNone).foldl cancelGraph s)

/-- ADMIT_CTL_WRITE (R53): a write of 0 to EN pauses admission at once. -/
def execAdmitCtlWrite (f : Func) (v : Word) (s : State) : Ans :=
  finish (if !isPriv s f then s
         else
           let s := writeReg s .tgeAdmitCtl v (-1)
           if fb s F.TGE_ADMIT_CTL_EN then s else updTge s fun x => { x with admitOn := false })

end Sys2Proof.Machine
end

