-- ==== Sys2Proof/Machine/Mcast.lean ====
section
/-! DEFINITION. Multicasts (R244 to R246): launch loads and the broadcast of the tile firmware (R418). -/

namespace Sys2Proof.Machine

/-! ### The tile image (R386, R418) -/

/-- The tile image in use. -/
def tileImage (s : State) : Image := imageCopy s 3 (copyInUse s 3)

/-- The tile image lands at absolute offset 0 of a tile's firmware reserve, and nowhere else (R131, R418). -/
def loadFirmware (s : State) (n : Nat) : State :=
  updTile (putBytes s (keyTile n 0) ((tileImage s).body.take (fg s F.TS_CTL_RESERVE n * 2 ^ 15))) n fun t => { t with fw := copyInUse s 3 }

/-- The first reload of a staged tile image extends M5 (R386, R396). -/
def reloadTiles (s : State) : State := if s.ke.staged.contains 3 then useCopy s 3 (1 - copyInUse s 3) else s

/-- The reserve of a tile that holds another copy of the tile image than the one in use is reloaded, at its next test or launch (R386). -/
def reloadTile (s : State) (n : Nat) : State := if (tile s n).fw = copyInUse s 3 then s else loadFirmware s n

/-! ### Stops of a multicast (R244) -/

/-- The physical tile at a stop of a multicast: bit b of its masks (Table 9.3). -/
def castTile (m : Mcast) (b : Nat) : Nat := if m.column then tileAt m.die b m.index else tileAt m.die m.index b

/-- The bits of a multicast's MASK. -/
def castBits (m : Mcast) : List Nat := (List.range (if m.column then 16 else 18)).filter fun b => m.mask / 2 ^ b % 2 == 1

/-- Source stop and TAG of a multicast: a unit-strip stop for a row, the relaying passage for a column. -/
def castId (m : Mcast) : Nat × Nat := (if m.column then 256 + tileAt m.die m.home m.index else m.die * 64 + m.index, m.tag)

/-- Whether a tile is one that takes no copy: it is fenced, or its stop is shunted (R244, R252). -/
def castGone (s : State) (n : Nat) : Bool := (tile s n).fenced || (tile s n).passFail

/-- The mask of some bits. -/
def maskOf (bs : List Nat) : Nat := (bs.map (2 ^ ·)).foldl (· + ·) 0

/-- The column multicast that a relaying passage issues (R245): MASK := RELAY, the same TAG. -/
def relayCast (s : State) (id : Nat) (m : Mcast) (c : Nat) : State :=
  if m.column || decide (m.relay = 0) then s
  else
    let x : Mcast := { m with column := true, index := c, home := m.index, mask := m.relay, relay := 0, sends := 0, born := s.clk.cyc, parent := some id, cols := [], done := false }
    { s with mcasts := SMap.modify (SMap.set s.mcasts s.nextMc x) id fun y => { y with cols := y.cols ++ [s.nextMc] }, nextMc := s.nextMc + 1 }

/-- A stop accepts a copy of a multicast: it remembers source and TAG of its last 8, takes what the multicast carries, and relays it; a repeat is dropped (R245, R246). -/
def acceptCast (s : State) (id : Nat) (m : Mcast) (b : Nat) : State :=
  let n := castTile m b
  if (tile s n).casts.contains (castId m) then s
  else
    let s := updTile s n fun t => { t with casts := (castId m :: t.casts).take 8 }
    relayCast (if m.load = .firmware then loadFirmware s n else s) id m b

/-- A row multicast that is finished ends once every column has answered; the response of a column gives its final MISS to the source (R245). -/
def closeCast (s : State) (id : Nat) : State :=
  match SMap.find s.mcasts id with
  | some m => if m.done && m.cols.isEmpty then { s with mcasts := SMap.erase s.mcasts id } else s
  | none => s

/-- A multicast is finished with a final miss mask: a column's passage answers its source. -/
def endCast (s : State) (id : Nat) (m : Mcast) : State :=
  match m.parent with
  | none => closeCast { s with mcasts := SMap.modify s.mcasts id fun x => { x with done := true, mask := 0 } } id
  | some p => closeCast { s with mcasts := SMap.modify (SMap.erase s.mcasts id) p fun x => { x with cols := x.cols.filter (· != id) } } p

/-- The stops left in a final miss mask are fenced (R246, Table 15.9). -/
def missCast (s : State) (id : Nat) (m : Mcast) (miss : Nat) : State :=
  (castBits { m with mask := miss }).foldl (fun s b => fenceTile s (castTile m b) 0x05 (BitVec.ofNat 64 m.tag)) (endCast s id m)

/-- A multicast is resent to the stops of a mask, or after the last resend its misses are final (R246). -/
def castAgain (s : State) (id : Nat) (m : Mcast) (mask : Nat) : State :=
  if mask = 0 then endCast s id m
  else if m.sends < fg s F.HAUL_CTL_RESEND_LIMIT then
    { s with mcasts := SMap.modify s.mcasts id fun x => { x with mask := mask, sends := m.sends + 1, born := s.clk.cyc } }
  else missCast s id m mask

/-- The stops of a multicast that set their MISS bit: those that take no copy, and those that could not now, `miss`; one that has accepted the packet before drops the repeat. -/
def castMiss (s : State) (m : Mcast) (miss : Nat) : List Nat :=
  (castBits m).filter fun b => castGone s (castTile m b) || (decide (miss / 2 ^ b % 2 = 1) && !(tile s (castTile m b)).casts.contains (castId m))

/-- MCAST_RETURN (R244 to R246): the packet has been round; `miss` names the stops whose endpoint could take no copy, or found the CRC of the tile image wrong (R418). -/
def execMcastReturn (id : Nat) (miss : BitVec 18) (s : State) : Ans :=
  finish (match SMap.find s.mcasts id with
    | none => s
    | some m =>
      if m.done then s
      else
        let gone := castMiss s m miss.toNat
        castAgain (((castBits m).filter fun b => !gone.contains b).foldl (fun s b => acceptCast s id m b) s) id m (maskOf gone))

/-- MCAST_RETURN_TIMEOUT (R246): 1,024 haul cycles after it was sent the packet has not returned. -/
def execMcastReturnTimeout (lost : CastLost) (s : State) : Ans :=
  let id := lost.id
  finish (match SMap.find s.mcasts id with
    | none => s
    | some m =>
      if m.done then s
      else
        let at_ := m.born + 1024
        let s := advanceTo (settle s (max s.clk.cyc at_)) at_
        let took := (castBits m).filter fun b => decide (lost.taken.toNat / 2 ^ b % 2 = 1) && !castGone s (castTile m b)
        castAgain (took.foldl (fun s b => acceptCast s id m b) s) id m m.mask)

/-! ### The broadcast of the tile image (R418) -/

/-- Whether the tile image fits the reserve of every tile. -/
def imageFits (s : State) : Bool := (List.range 1152).all fun n => decide ((tileImage s).size ≤ fg s F.TS_CTL_RESERVE n * 2 ^ 15)

/-- Each die's unit strip sends the tile image along one row to its serving columns, and it is relayed to every row (R158, R245, R418). The spec does not name the row: row 0 (DESIGN CHOICE, log
entry 84). -/
def broadcastImage (s : State) : State :=
  (List.range 4).foldl (fun s d => startCast s d 0 (maskOf (diePlace s d).map) 0xFFFF .firmware) s

/-- A broadcast ends: every stop that takes copies has accepted, and the others are left in the final miss mask. -/
def finishCast (s : State) (id : Nat) : State :=
  match SMap.find s.mcasts id with
  | some m =>
    if m.done || m.load != .firmware then s
    else
      let gone := castMiss s m 0
      missCast (((castBits m).filter fun b => !gone.contains b).foldl (fun s b => acceptCast s id m b) s) id m (maskOf gone)
  | none => s

/-- Every multicast of the tile image ends, rows first, then the columns that they relay (R418: within 1 ms). -/
def finishCasts (s : State) : State :=
  let ends := fun (s : State) => (s.mcasts.map (·.1)).foldl finishCast s
  ends (ends s)

end Sys2Proof.Machine
end

