-- ==== Sys2Proof/Machine/Place.lean ====
section
/-! DEFINITION. Fences, passage failures and re-placement (R165 to R170, R173). -/

namespace Sys2Proof.Machine

/-- PL_FENCE_WRITE (R173): a write of 1 by the PF or the Overman fences the tile. -/
def execPlFenceWrite (f : Func) (n : Nat) (v : Word) (s : State) : Ans :=
  finish (if isPriv s f && decide (n < 1152) && decide (fieldOf F.PL_TILE_STATE_FENCE v = 1) then fenceTile (settle s s.clk.cyc) n 0x01 0 else s)

/-- The stop of a failed passage leaves a ring: the flits that its buffer and its entry queue hold are discarded and counted, and their requesters have no response (R247). -/
def shuntRing (s : State) (i pos : Nat) : State :=
  let r := ring s i
  let gone := (r.flits.filter fun x => x.pos == pos).map (·.fl) ++ (r.queue.filter fun x => x.pos == pos).map (·.fl)
  let s := gone.foldl loseFlit s
  finc (setRing s i { r with flits := r.flits.filter fun x => x.pos != pos, queue := r.queue.filter fun x => x.pos != pos,
                             refused := r.refused.filter fun x => x.pos != pos }) F.HAUL_RING_ERR_DISCARDED gone.length i

/-- The logical columns whose connection to the next one crosses physical column c (Table 6.1). -/
def crossedBy (s : State) (d c : Nat) : List Nat :=
  let m := (diePlace s d).map
  (List.range (m.length - 1)).filter fun l => nth m l 0 + 1 == c && nth m (l + 1) 0 == c + 1

/-- The passage of a tile fails (R166, R247): the tile is fenced, its crosscuts are breaks, tasks that use them enter RESETTING, and its stop leaves four rings. -/
def passageFail (s : State) (n : Nat) : State :=
  if (tile s n).passFail || decide (1152 ≤ n) then s
  else
    let d := tileDie n
    let r := tileRow n
    let c := tileCol n
    let s := updTile s n fun t => { t with passFail := true }
    let ls := crossedBy s d c
    let x := diePlace s d
    let s := setDie s d { x with breaks := (List.range 15).filter fun l => x.breaks.contains l || ls.contains l }
    let hit := s.tasks.filter fun (_, t) =>
      t.region.die == d && decide (t.region.row ≤ r) && decide (r < t.region.row + t.region.rows) &&
      ls.any fun l => decide (t.region.col ≤ l) && decide (l + 1 < t.region.col + t.region.cols)
    let was := (tile s n).fenced
    let s := fenceTile s n 0x03 0
    let s := if was then showDie s d else s
    let s := hit.foldl (fun s (k, _) => if (task? s k).isSome then enterResetting s k false else s) s
    let s := shuntRing (shuntRing s (d * 68 + 2 * r) (c + 1)) (d * 68 + 2 * r + 1) (c + 1)
    let s := shuntRing (shuntRing s (d * 68 + 32 + 2 * c) (r + 1)) (d * 68 + 33 + 2 * c) (r + 1)
    haulRecord (finc s F.HAUL_STATUS_SHUNTS) 3 (d * 68 + 2 * r)

/-- PASSAGE_FAIL (R166). -/
def execPassageFail (n : Nat) (s : State) : Ans := finish (passageFail (settle s s.clk.cyc) n)

/-- PLACE_CTL_WRITE (R170). -/
def execPlaceCtlWrite (f : Func) (v : Word) (s : State) : Ans := finish (if isPriv s f then writeReg s .tgePlaceCtl v (-1) else s)

/-- Columns of a die, not retired, that hold a fenced tile (R167). -/
def columnsToRetire (s : State) (d : Nat) : List Nat := (servingCols (retiredCols s d)).filter (colFenced s d)

/-- The mapping that a die has once further columns retire. -/
def nextMap (s : State) (d : Nat) (cols : List Nat) : List Nat := columnMap s (retiredCols s d ++ cols)

/-- A re-placement of die d starts at boundary b when it is due (R167, R170): the columns that retire, and the logical columns held. -/
def startReplacement (s : State) (d b : Nat) : State :=
  let cols := columnsToRetire s d
  let x := diePlace s d
  if !fb s F.TGE_PLACE_CTL_RETIRE_EN || cols.isEmpty || x.repl.isSome then s
  else
    let m := nextMap s d cols
    let held := (List.range x.map.length).filter fun l => m[l]? != x.map[l]?
    let s := setDie s d { x with repl := some (b, cols, false), held := held }
    fs s F.TGE_PLACE_STATUS_REPLACING (Nat.lor (fg s F.TGE_PLACE_STATUS_REPLACING) (2 ^ d))

/-- Whether a region on a held column of die d is still being reset. -/
def heldResetting (s : State) (d : Nat) : Bool :=
  (nodesIn s .resetting).any fun (_, _, n) =>
    n.region.any fun r => r.die == d && (rangeFrom r.col r.cols).any fun l => (diePlace s d).held.contains l

/-- REPLACEMENT_LINK_SELECT (R168): each physical tile whose logical tile or partition changes is zeroed. -/
def execReplacementLinkSelect (d : Nat) (s : State) : Ans :=
  let x := diePlace s d
  finish (match x.repl with
    | some (b, cols, false) =>
      if heldResetting s d then s
      else
        let m := nextMap s d cols
        let s := setDie s d { x with repl := some (b, cols, true) }
        ((List.range m.length).filter fun l => m[l]? != x.map[l]?).foldl (fun s l =>
          let p := sectionPart s (2 * d + l / 8)
          (List.range 16).foldl (fun s r => zeroStore s (tileAt d r (nth m l 0)) p) s) s
    | _ => s)

/-- REPLACEMENT_IN_FORCE (R168, R169, R171): the mapping, the registers and the capacity-change event; the retirements are to be recorded. Held columns stay
so until the next boundary. -/
def execReplacementInForce (d : Nat) (s : State) : Ans :=
  let x := diePlace s d
  finish (match x.repl with
    | some (_, cols, true) =>
      let m := nextMap s d cols
      let s := fs s F.TGE_PLACE_DIE_RETIRED ((retiredCols s d ++ cols).foldl (fun a c => Nat.lor a (2 ^ c)) 0) d
      let s := setDie s d { x with map := m, breaks := breaksOf s d m, repl := none }
      let s := fs s F.TGE_PLACE_STATUS_REPLACING (fg s F.TGE_PLACE_STATUS_REPLACING - 2 ^ d)
      let s := queueStore { s with mapPend := s.mapPend ++ cols.map fun c => (d, c) } 3
      capacityChange { s with tge := { s.tge with noFit := [] } } d 1 none
    | _ => s)

end Sys2Proof.Machine
end

