-- ==== Sys2Proof/Machine/BootOps.lean ====
section
/-! DEFINITION. The persistent store (R420 to R423), self-test's failures and their repair (R413 to R416), and the phases of a cold boot and the steps of the warm-reset fast path (R408 to R411). -/

namespace Sys2Proof.Machine

/-! ### Slots (R420 to R423) -/

/-- The slots of a bank (0 A, 1 B) of a record type, in the order of their writing. -/
def bankSlots (s : State) (t b : Nat) : List StoreSlot := SMap.get [] s.om.store (2 * t + b)

/-- Whether slot x is newer than slot y (R423). -/
def newerSlot (x y : StoreSlot) : Bool :=
  let d := (x.seq + 2 ^ 32 - y.seq) % 2 ^ 32
  decide (1 ≤ d) && decide (d ≤ 2 ^ 31 - 1)

/-- The newest valid slot of a record type with its bank. -/
def newestSlot (s : State) (t : Nat) : Option (Nat × StoreSlot) :=
  let all := ([0, 1].flatMap fun b => (bankSlots s t b).map fun x => (b, x)).filter fun x => x.2.ok
  match all with
  | [] => none
  | x :: xs => some (xs.foldl (fun m y => if newerSlot y.2 m.2 then y else m) x)

/-- Bytes of a slot of a record type (Table 17.8). -/
def slotBytes (t : Nat) : Nat := if t = 3 then 16384 else if t = 4 then 65536 else if t = 1 ∨ t = 5 ∨ t = 8 then 4096 else 256

/-- Bytes of a bank of a record type (Table 17.8). -/
def bankBytes (t : Nat) : Nat := if t = 3 ∨ t = 4 then 2 ^ 20 else if t = 8 then 2 ^ 23 else 2 ^ 18

/-- Whether a bank has no free slot. -/
def bankFull (s : State) (t b : Nat) : Bool := decide (bankBytes t / slotBytes t ≤ (bankSlots s t b).length)

/-- Replace a bank. -/
def setBank (s : State) (t b : Nat) (l : List StoreSlot) : State := updOm s fun o => { o with store := SMap.set o.store (2 * t + b) l }

/-- Erase a bank: its sectors of 64 KiB are counted. -/
def eraseBank (s : State) (t b : Nat) : State := finc (setBank s t b []) F.PSTORE_FLASH_ERASES (bankBytes t / 65536)

/-- Erase a full bank where the other holds a newer valid slot than every slot of it (R422). -/
def eraseOld (s : State) (t b : Nat) : State :=
  match newestSlot s t with
  | some (c, x) => if bankFull s t b && c != b && (bankSlots s t b).all (newerSlot x) then eraseBank s t b else s
  | none => s

/-- Write a slot under the two-bank rule (R422); `ok` says whether it reads back correctly. -/
def putSlot (s : State) (t : Nat) (body : List Byte) (ok : Bool) : State :=
  let (seq, want) := match newestSlot s t with
    | some (b, x) => ((x.seq + 1) % 2 ^ 32, 1 - b)
    | none => (0, 0)
  let x : StoreSlot := { seq := seq, ok := ok, body := body }
  let s := if bankFull s t want && bankFull s t (1 - want) then eraseOld s t want else s
  let b := if bankFull s t want then 1 - want else want
  let s := setBank s t b (bankSlots s t b ++ [x])
  eraseOld s t (1 - b)

/-! ### Bodies. The spec gives the layouts of types 3 and 4; the others are DESIGN CHOICE. -/

/-- A repair-map entry (R421): KIND, UNIT_KIND, UNIT_INDEX, spare, ADDRESS. -/
def mapEntry (kind unit ix spare addr : Nat) : Word :=
  BitVec.ofNat 64 (kind * 2 ^ 60 + unit % 16 * 2 ^ 56 + ix % 2 ^ 11 * 2 ^ 45 + spare % 256 * 2 ^ 37 + addr % 2 ^ 37)

/-- Kind and number of a memory device as a unit of Table 15.3. -/
def devUnit (dev : Nat) : Nat × Nat := if dev < 8 then (5, dev) else (6, dev - 8)

/-- The repair map (R421): retired columns, fenced tiles, spares in use and unrepaired rows, and rows that await hard repair. -/
def mapBody (s : State) : List Word :=
  let cols := (List.range 4).flatMap fun d => (retiredCols s d).map fun c => mapEntry 1 0xC d 0 c
  let tiles := ((List.range 1152).filter fun n => (tile s n).fenced).map fun n => mapEntry 2 1 n 0 0
  cols ++ tiles ++ s.om.spares ++ s.memc.hppr.map fun (dev, row) => mapEntry 7 (devUnit dev).1 (devUnit dev).2 0 (Config.rowFirst dev row)

/-- A failure entry (Table 17.4). -/
def failWords (e : FailEntry) : List Word :=
  [BitVec.ofNat 64 (e.kind % 16 * 2 ^ 60 + e.unit % 2 ^ 11 * 2 ^ 49 + e.test % 4 * 2 ^ 47 + e.array % 16 * 2 ^ 43 + e.action % 16 * 2 ^ 39 + e.addr % 2 ^ 37),
   BitVec.ofNat 64 (e.bit % 256 * 2 ^ 56 + e.bank % 256 * 2 ^ 48 + e.bits % 2 ^ 16 * 2 ^ 32 + e.sig % 2 ^ 32)]

/-- The boot epoch. -/
def bootEpoch (s : State) : Nat := fg s F.PSTORE_BOOT_BOOT_EPOCH

/-- The SELF_TEST record (R417): the sections whose result was recorded in the present boot epoch. -/
def testBody (s : State) : List Word :=
  let mine := s.om.tested.filter fun x => x.2.1 == bootEpoch s
  let es := mine.flatMap fun x => x.2.2
  [BitVec.ofNat 64 (bootEpoch s * 2 ^ 32 + es.length % 2 ^ 16), BitVec.ofNat 64 (mine.foldl (fun a x => a + 2 ^ x.1) 0), BitVec.ofNat 64 (mer s), 0, 0, 0, 0, 0] ++
    es.flatMap failWords

/-- The body that a new slot of a record type takes. -/
def storeBody (s : State) (t : Nat) : List Byte :=
  if t = 1 then s.ke.cert
  else if t = 2 then bytesOfWords [rd s .secFwFloor, BitVec.ofNat 64 (fg s F.SEC_FW_CTL_OWNER_REQ)] ++ fit 32 s.ke.owner
  else if t = 3 then bytesOfWords (mapBody s)
  else if t = 4 then bytesOfWords (testBody s)
  else if t = 5 then bytesOfWords [BitVec.ofNat 64 (bootEpoch s), BitVec.ofNat 64 ((List.range 8).foldl (fun a p => a + partEpoch s p * 2 ^ (8 * p)) 0)]
  else if t = 6 then bytesOfWords ((List.range 4).flatMap fun d => [BitVec.ofNat 64 (fg s F.GUARD_PROSPECT_DIE_POSITION d), BitVec.ofInt 64 (patrol s d).start])
  else if t = 7 then bytesOfWords ((List.range 8).flatMap fun p => [rd s .guardRejoinPlan p, BitVec.ofNat 64 (fg s F.GUARD_REJOIN_CTL_MODE p)])
  else bytesOfWords ((s.om.errLog.drop (s.om.errLog.length - 63)).flatMap fun r => recWords r 0 false)

/-- A body's words; a word past its end reads as 0. -/
def bodyWord (bs : List Byte) (k : Nat) : Word := BitVec.ofNat 64 (ofBytes ((bs.drop (8 * k)).take 8))

/-! ### Recovery (R423) -/

/-- What the repair map says of columns, tiles, spares and rows; `tiles` says whether KIND 2 entries count, which they do on the fast path (R416). -/
def loadMap (s : State) (ws : List Word) (tiles : Bool) : State :=
  let kind := fun (w : Word) => getBits w 63 60
  let ix := fun (w : Word) => getBits w 55 45
  let s := (List.range 4).foldl (fun s d =>
    fs s F.TGE_PLACE_DIE_RETIRED ((ws.filter fun w => kind w == 1 && ix w == d).foldl (fun a w => Nat.lor a (2 ^ (getBits w 36 0 % 18))) 0) d) s
  let bad := (ws.filter fun w => tiles && kind w == 2).map ix
  let s := { s with tiles := SMap.mapVals s.tiles fun _ (t : Tile) => { t with fenced := false } }
  let s := bad.foldl (fun s n => if n < 1152 then updTile s n fun t => { t with fenced := true } else s) s
  let rows := (ws.filter fun w => kind w == 7).map fun w =>
    let dev := if getBits w 59 56 = 5 then ix w else 8 + ix w
    (dev, deviceRow dev (getBits w 36 0))
  let s := { s with memc := { s.memc with hppr := rows } }
  updOm s fun o => { o with spares := ws.filter fun w => [3, 4, 5, 6, 8].contains (kind w) }

/-- A record type takes its newest valid slot, or the outcome of Table 17.10. -/
def recoverType (cold : Bool) (s : State) (t : Nat) : State :=
  let x := newestSlot s t
  let s := fs s F.PSTORE_REC_DEFAULTED x.isNone.toNat (t - 1)
  let bs := (x.map fun y => y.2.body).getD []
  if t = 1 then updKe s fun e => { e with cert := bs }
  else if t = 2 then
    let own := (bs.drop 16).take 32
    let has := own.any (· ≠ 0)
    let s := updKe (wr s .secFwFloor (bodyWord bs 0)) fun e => { e with owner := if has then own else [] }
    fs (fs s F.SEC_FW_CTL_OWNER_REQ (getBits (bodyWord bs 1) 0 0)) F.SEC_FW_CTL_OWNER_ENROLLED has.toNat
  else if t = 3 then loadMap s ((List.range (bs.length / 8)).map (bodyWord bs)) (!cold)
  else if t = 5 then
    let s := fs s F.PSTORE_BOOT_BOOT_EPOCH (if x.isNone then (if cold then 0 else 1) else getBits (bodyWord bs 0) 31 0)
    if x.isNone then (List.range 8).foldl (fun s p =>
      let (r, s) := drawBytes s 1
      fs s F.PORT_DEVID_EPOCH (r.headD 0).toNat p) s
    else (List.range 8).foldl (fun s p => fs s F.PORT_DEVID_EPOCH (getBits (bodyWord bs 1) (8 * p + 7) (8 * p)) p) s
  else if t = 6 then
    if cold || x.isNone then (List.range 4).foldl (fun s d => fs s F.GUARD_PROSPECT_DIE_POSITION (getBits (bodyWord bs (2 * d)) 8 0 % 288) d) s else s
  else if t = 7 then (List.range 8).foldl (fun s p =>
    fs (wr s .guardRejoinPlan (bodyWord bs (2 * p)) p) F.GUARD_REJOIN_CTL_MODE (getBits (bodyWord bs (2 * p + 1)) 0 0) p) s
  else s

/-- The store is recovered (R423). -/
def recoverStore (s : State) (cold : Bool) : State := (rangeFrom 1 8).foldl (recoverType cold) s

/-! ### Repair (R414 to R416) -/

/-- The die of a unit of Table 15.3. -/
def unitDie (kind ix : Nat) : Nat :=
  (if kind = 1 then ix / 288 else if kind = 5 then ix / 2 else if kind = 6 ∨ kind = 8 then ix / 4 else if kind = 7 then ix / 8
   else if kind = 9 then ix / 68 else if kind = 4 then 1 else ix) % 4

/-- The memory device of a unit. -/
def unitDev (kind ix : Nat) : Nat := if kind = 5 then ix % 8 else 8 + ix % 16

/-- A spare is used (Table 17.6): fused while a fuse entry is left on the die, else in the repair map. Whether a store failure takes a row or a bit-column is not stated: a free value. -/
def useSpare (s : State) (e : FailEntry) : FailEntry × State :=
  let d := unitDie e.kind e.unit
  let (w, s) := drawFree s
  let col := decide (e.kind = 1) && bitOf w 0
  let s := if col then finc s F.PSTORE_BIST_COLS_SPARED 1 d else finc s F.PSTORE_BIST_ROWS_SPARED 1 d
  let left := fg s F.PSTORE_BIST_FUSES_LEFT d
  if left = 0 then
    let kind := if e.kind ≠ 1 then 5 else if col then 4 else 3
    ({ e with action := 1 }, updOm s fun o => { o with spares := o.spares ++ [mapEntry kind e.kind e.unit 0 e.addr] })
  else ({ e with action := 2 }, fs (updOm s fun o => { o with fuses := o.fuses ++ [(d, e)] }) F.PSTORE_BIST_FUSES_LEFT (left - 1) d)

/-- A failure that self-test has found is handled by its ACTION (R415). Answers the entry as it is recorded. -/
def applyFail (s : State) (e : FailEntry) : FailEntry × State :=
  let d := unitDie e.kind e.unit
  let dev := unitDev e.kind e.unit
  let row := deviceRow dev e.addr
  let key := rowKey dev (Config.bankOf dev row)
  let (i, j) := devIx dev
  if e.action = 1 ∨ e.action = 2 then useSpare s e
  else if e.action = 3 then
    let s := finc s F.PSTORE_BIST_PPR_HARD 1 d
    (e, { s with memc := { s.memc with used := SMap.set s.memc.used key (SMap.get 0 s.memc.used key + 1) } })
  else if e.action = 4 then
    if e.kind ≠ 1 ∨ 1152 ≤ e.unit then (e, s)
    else
      let s := finc s F.PSTORE_BIST_TILES_FENCED (if (tile s e.unit).fenced then 0 else 1) d
      let s := fenceTile s e.unit 0x02 0
      (e, if e.array = 3 then passageFail s e.unit else s)
  else if e.action = 5 then (e, updOm s fun o => { o with dead := o.dead ++ [e.unit] })
  else if e.action = 6 then
    let s := updOm s fun o => { o with spares := o.spares ++ [mapEntry 8 e.kind e.unit 0 e.addr] }
    let s := finc s F.MEM_DEV_REPAIR_EXHAUSTED 1 i j
    (e, emit s { blankRec s 0x0A 0 0 with unit := e.kind, unitIx := e.unit, aux := BitVec.ofNat 64 (Config.rowFirst dev row) })
  else (e, if e.action = 8 then finc s F.PSTORE_BIST_FATAL 1 d else s)

/-- Every failure of a list is handled in order. -/
def applyFails (s : State) (es : List FailEntry) : List FailEntry × State :=
  es.foldl (fun (acc : List FailEntry × State) e =>
    let (e, s) := applyFail acc.2 e
    (acc.1 ++ [e], s)) ([], s)

/-- The result of a section's self-test is in force, and the record is to be written (R382, R417). -/
def recordTest (s : State) (secs : List Nat) (es : List FailEntry) : State :=
  let s := secs.foldl (fun s k =>
    let own := es.filter fun e => unitSection s e.kind e.unit == some k
    updOm s fun o => { o with tested := SMap.set o.tested k (bootEpoch s, own) }) s
  queueStore (queueStore s 3) 4

/-! ### Boots (R408, R409) -/

/-- A boot halts (R419). -/
def bootHalt (s : State) (code : Nat) : State :=
  let s := fs (updOm s fun o => { o with boot := none }) F.PSTORE_BOOT_HALT_CODE code
  showBusy (bootResult s 3)

/-- Change the boot in progress. -/
def updBoot (s : State) (f : Boot → Boot) : State := updOm s fun o => { o with boot := o.boot.map f }

/-- A reset that cannot finish (R371): a power cycle where AUTO_PC was 1 at its start, else the module stays in reset, at no step. -/
def escalateDevice (s : State) : State :=
  match s.om.boot with
  | some b => if b.cold then s else if b.autoPc then startPowerCycle s 2 else updBoot s fun b => { b with next := 0 }
  | none => s

/-- Verify and measure an image, then go on; with no accepted copy the boot halts with 0x01 (R396). -/
def bootThen (s : State) (t : Nat) (f : State → State) : State :=
  match bootImage s t with
  | some s => f s
  | none => bootHalt s 1

/-- Whether the SELF_TEST record of the present boot epoch is valid in the store (Table 17.3). -/
def testStored (s : State) : Bool := (newestSlot s 4).any fun x => getBits (bodyWord x.2.body 0) 63 32 == bootEpoch s

/-- Store recovery and what follows it (phase 5, step 3): BOOT_EPOCH on a cold boot, new partition epochs, M3 and M4. -/
def bootRecover (s : State) (cold : Bool) : State :=
  let s := recoverStore s cold
  if fb s F.PSTORE_REC_DEFAULTED 1 then bootHalt s 2
  else if !cold && (fb s F.PSTORE_REC_DEFAULTED 2 || !testStored s) then escalateDevice s
  else
    let s := if cold then fs s F.PSTORE_BOOT_BOOT_EPOCH ((bootEpoch s + 1) % 2 ^ 32) else s
    let s := (List.range 8).foldl (fun s p => bumpPartEpoch s p) (queueStore s 5)
    bootThen (measureSecurity s) 4 id

/-- The memory interfaces are trained. -/
def memReady (s : State) : State :=
  (List.range 24).foldl (fun s dev =>
    let (i, j) := devIx dev
    fs s F.MEM_DEV_STATUS_READY (decide (dev < 8) || t2Populated s (dev - 8)).toNat i j) s

/-- Rows that the repair map holds for hard repair are repaired (phase 6). -/
def hardRepair (s : State) : State :=
  let s := s.memc.hppr.foldl (fun s (dev, _) => finc s F.PSTORE_BIST_PPR_HARD 1 (unitDie (devUnit dev).1 (devUnit dev).2)) s
  let s := (List.range 24).foldl (fun s dev => fs (fs s F.MEM_DEV_REPAIR_HPPR_PENDING 0 (devIx dev).1 (devIx dev).2) F.MEM_DEV_REPAIR_SPPR_DONE 0 (devIx dev).1 (devIx dev).2) s
  { s with memc := { s.memc with hppr := [] } }

/-- SPARES_LEFT of every device after self-test: what it found free, less the rows in use (Table 10.13). -/
def showSpares (s : State) : State :=
  (List.range 24).foldl (fun s dev =>
    let used := s.memc.used.foldl (fun n x => if x.1 % 32 = dev then n + x.2 else n) 0
    fs s F.MEM_DEV_REPAIR_SPARES_LEFT (min 0xFFFF (Config.devSpares dev - used)) (devIx dev).1 (devIx dev).2) s

/-- Phase 8: what self-test found is handled in the order of its entries, and a fatal failure halts the boot. -/
def bootRepair (s : State) : State :=
  let es := (List.range 4).flatMap fun d => SMap.get [] s.om.dies d
  let (es, s) := applyFails s es
  match es.find? fun e => e.action == 8 with
  | some e => bootHalt s (if e.kind = 5 ∨ e.kind = 6 then 3 else 5)
  | none => recordTest (showSpares s) (List.range 8) es

/-- The mapping of R158 comes into force from the repair map, and the tile image is verified, measured and broadcast; one that exceeds a reserve halts the boot with 0x06
(phase 9, step 6; R418). -/
def bootMap (s : State) : State :=
  let s := (List.range 4).foldl (fun s d =>
    let m := columnMap s (retiredCols s d)
    showFence (showDie (setDie s d { map := m, breaks := breaksOf s d m, repl := none, held := [] }) d) d) s
  bootThen s 3 fun s => if imageFits s then broadcastImage s else bootHalt s 6

/-- The ports train (phase 10, step 6): those whose EN is 1; with the fabric reference lost they are HELD (R424). -/
def bootPorts (s : State) : State :=
  (List.range 32).foldl (fun s n =>
    if !portEnabled s n || !fb s F.PORT_LINK_CTL_EN n || s.om.dead.contains n then s
    else if fb s F.CLK_REF_STATUS_FABRIC_LOST then enterHeld s n 4
    else startTraining s n) s

/-- The boot ends (phase 11, step 7). -/
def bootDone (s : State) (b : Boot) : State :=
  let s := updOm s fun o => { o with boot := none }
  let s := fs s F.PSTORE_BOOT_LAST_RESET (if b.cold then 0 else if b.controlled then 1 else 2)
  let s := bootResult s (if b.degraded || fb s F.CLK_REF_STATUS_FABRIC_LOST then 2 else 1)
  let s := makePaks s
  let s := (List.range 8).foldl (fun s p => if fb s F.GUARD_REJOIN_CTL_MODE p then rejoinHold s p true else s) s
  showBusy (if fb s F.GUARD_PROSPECT_CTL_EN then patrolSwitch s true else s)

/-- A phase of a cold boot starts (Table 17.1). -/
def startPhase (s : State) (n : Nat) : State :=
  if n = 3 then
    let s := fs (fs (fs s F.GUARD_OVERMAN_ACTIVE_DIE2 0) F.GUARD_OVERMAN_STANDBY 1) F.GUARD_OVERMAN_FAILOVERS 0
    bootThen s 1 id
  else if n = 4 then bootThen s 2 id
  else if n = 5 then bootRecover s true
  else if n = 6 then hardRepair (memReady s)
  else if n = 8 then bootRepair s
  else if n = 9 then bootMap s
  else if n = 10 then bootPorts s
  else s

/-- A step of the fast path starts (Table 17.2); memory was zeroed when the module was reset. -/
def startStep (s : State) (n : Nat) : State :=
  if n = 2 then bootThen s 1 fun s => bootThen s 2 id
  else if n = 3 then bootRecover s false
  else if n = 4 then memReady s
  else if n = 6 then
    let s := bootMap s
    if s.om.boot.isSome then bootPorts s else s
  else s

/-- Whether a phase or step of the boot may end: what it writes to the store is written (R408, R416, R424), and every die's self-test has ended. -/
def phaseDone (s : State) (b : Boot) : Bool :=
  let pend := fun (ts : List Nat) => ts.any s.om.pend.contains
  if b.next = 0 then false
  else if b.cold then
    if b.next = 5 then !pend [5]
    else if b.next = 7 then (List.range 4).all fun d => (SMap.find s.om.dies d).isSome
    else if b.next = 8 then !pend [3, 4]
    else true
  else if b.next = 2 then !pend [3]
  else if b.next = 3 then !pend [5]
  else true

/-- A phase or step of the boot ends and the next begins; a broadcast of the tile image ends with it. A degraded end of the core self-tests leaves no standby (R411); where die 0's Overman is the one that failed, die 2's is active on a cold boot. -/
def endPhase (s : State) (b : Boot) (bad : Bool) (begin : State → Nat → State) (last : Nat) : State :=
  let s := updBoot (fs (finishCasts s) F.PSTORE_BOOT_PHASE b.next) fun x => { x with next := b.next + 1, degraded := x.degraded || bad }
  let s := if bad ∧ b.cold = true ∧ b.next = 3 then fs (fs s F.GUARD_OVERMAN_ACTIVE_DIE2 1) F.GUARD_OVERMAN_STANDBY 0
    else if b.cold = false ∧ b.next = 2 then fs s F.GUARD_OVERMAN_STANDBY (!bad).toNat
    else s
  if b.next = last then bootDone s { b with degraded := b.degraded || bad } else begin s (b.next + 1)

/-- A cold boot starts (R408): registers at reset values, nothing in memory, and every fence to be found anew. -/
def startColdBoot (s : State) : State :=
  let b : Boot := { cold := true, controlled := false, cause := 0, start := 0, next := 1, degraded := false, autoPc := false }
  let om := { (s.om.rebooted (some b)) with powered := true, pend := [], tested := [], dead := [], railMiss := 0 }
  let old := { s with tiles := [], mapPend := [] }
  let s := resetModule old om
  let s := (List.range 4).foldl (fun s d =>
    fs (fs (fs s F.PSTORE_BIST_TILES_FENCED 0 d) F.PSTORE_BIST_PPR_HARD 0 d) F.PSTORE_BIST_FATAL 0 d) s
  let s := (List.range 24).foldl (fun s dev => fs s F.MEM_DEV_REPAIR_EXHAUSTED 0 (devIx dev).1 (devIx dev).2) s
  let s := fs (fs (fs s F.PSTORE_BOOT_PHASE 0) F.PSTORE_BOOT_RESULT 0) F.PSTORE_BOOT_HALT_CODE 0
  showBusy (startPhase s 1)

end Sys2Proof.Machine
end

