-- ==== Sys2Proof/Machine/Guard.lean ====
section
/-! DEFINITION. The commands of containment and recovery (chapter 15): logs, resets, Overman failover and rejoin. -/

namespace Sys2Proof.Machine

/-! ### Logs (R366) -/

/-- ERROR_RECORD_WRITE (R366): the oldest event is given to the logs. Nothing is written while the module is in reset. -/
def execErrorRecordWrite (s : State) : Ans :=
  finish (match s.recs with
    | [] => s
    | r :: rest => if inDeviceReset s then s else giveRecord { s with recs := rest } r)

/-- LOG_HEAD_WRITE (R366). -/
def execLogHeadWrite (f : Func) (log : Nat) (v : Word) (s : State) : Ans :=
  finish (if mayLog s f log then
      let s := writeReg s .guardLogHead v (-1) (logIx log).1 (logIx log).2
      drainLog (logOf s log).queue.length s log
    else s)

/-- LOG_CTL_WRITE (R366, Table 15.17): EN is refused where SIZE_LOG2 lies outside 4 to 16. -/
def execLogCtlWrite (f : Func) (log : Nat) (v : Word) (s : State) : Ans :=
  finish (if mayLog s f log then
      let s := writeReg s .guardLogCtl v (-1) (logIx log).1 (logIx log).2
      let n := lg s F.GUARD_LOG_CTL_SIZE_LOG2 log
      let s := if n < 4 ∨ 16 < n then ls s F.GUARD_LOG_CTL_EN 0 log else s
      drainLog (logOf s log).queue.length s log
    else s)

/-! ### Engine, partition and device resets (R367 to R375) -/

/-- ENGINE_WATCHDOG (R369, Table 15.7): the engine takes an engine reset with cause 1, or the device one where the TGE fails. A reset of the same engine in progress hides it (R387). -/
def execEngineWatchdog (kind : BitVec 4) (ix : Nat) (s : State) : Ans :=
  let k := kind.toNat
  finish (if inDeviceReset s then s
    else if k = 4 then uncontrolledReset s 2 []
    else if k = 1 || !enginePresent s k ix || engineFenced s k ix then s
    else startEngineReset (settle s s.clk.cyc) k ix 1)

/-- ENGINE_RESET_REQ (R375). -/
def execEngineResetReq (f : Func) (v : Word) (s : State) : Ans := finish (resetReqWrite (settle s s.clk.cyc) f v)

/-- ENGINE_RESET_COMPLETE (R369): the unit serves again. A port completes once it has left RETRAIN. -/
def execEngineResetComplete (kind : BitVec 4) (ix : Nat) (s : State) : Ans :=
  let k := kind.toNat
  finish (if !engineFenced s k ix || (k == 7 && portState s ix == lRetrain) then s else endEngineReset s k ix)

/-- ESCALATION_TIMEOUT (R371, Table 15.7): a level that has not finished hands the fault to the next. -/
def execEscalationTimeout (lvl : EscLevel) (s : State) : Ans :=
  finish (match lvl with
    | .context slot =>
      match task? s slot with
      | none => s
      | some t =>
        if (node? s t.gseq t.node).map (·.state) ≠ some .resetting then s
        else
          let s := settle s s.clk.cyc
          t.tiles.foldl (fun s n => fenceTile s n 0x04 (BitVec.ofNat 64 (s.clk.cyc - t.start))) s
    | .engine k ix =>
      if !engineFenced s k ix then s
      else if k = 1 then passageFail (endEngineReset (settle s s.clk.cyc) k ix) ix
      else if k = 7 then strand (enterHeld (endEngineReset s k ix) ix 3)
      else uncontrolledReset s 2 []
    | .partition p => if (part s p).phase = 0 then s else uncontrolledReset s 2 []
    | .device => escalateDevice s)

/-- PARTITION_RESET_REQ (R373, R375). -/
def execPartitionResetReq (f : Func) (v : Word) (s : State) : Ans := finish (resetReqWrite (settle s s.clk.cyc) f v)

/-- PARTITION_FENCE (R373): 2 µs after the last herald. -/
def execPartitionFence (p : Nat) (s : State) : Ans :=
  finish (if (part s p).phase ≠ 1 then s
    else
      let s := advanceToNs s ((part s p).since + 2000)
      let s := fencePart (settle s s.clk.cyc) p
      setPart s p { part s p with phase := 2, since := mer s })

/-- PARTITION_DRAIN_END (R368): DRAIN_MS after the fence. -/
def execPartitionDrainEnd (p : Nat) (s : State) : Ans :=
  finish (if (part s p).phase ≠ 2 then s
    else
      let s := advanceToNs s ((part s p).since + drainNs s)
      setPart (endDrain s p) p { part s p with phase := 3, since := mer s })

/-- PARTITION_RESET_COMPLETE (R373). -/
def execPartitionResetComplete (p : Nat) (s : State) : Ans := finish (if (part s p).phase = 3 then completePart s p else s)

/-- RESET_RELEASE (R373): the fence of each held partition named by PARTS is lifted. -/
def execResetRelease (f : Func) (v : Word) (s : State) : Ans :=
  finish (if !isPriv s f then s
    else showBusy ((List.range 8).foldl (fun s p =>
      if bitOf v p && bitOf (rd s .guardResetStatus) p && decide ((part s p).phase = 0) then liftFence s p else s) s))

/-- DEVICE_RESET_REQ (R374, R375). -/
def execDeviceResetReq (f : Func) (v : Word) (s : State) : Ans := finish (resetReqWrite (settle s s.clk.cyc) f v)

/-- POWER_CYCLE_REQ (R375, R456). -/
def execPowerCycleReq (f : Func) (v : Word) (s : State) : Ans := finish (resetReqWrite (settle s s.clk.cyc) f v)

/-! ### Overman failover (R379) -/

/-- The Overman's record (Table 15.2): the unit is the die of the Overman that takes over. -/
def overmanRecord (s : State) (cause : Nat) : State :=
  emit s { blankRec s 0x18 cause 0 with unit := 0xB, unitIx := 2 * fg s F.GUARD_OVERMAN_ACTIVE_DIE2 }

/-- The other Overman becomes active; `left` says whether a standby remains. A Prospector test in progress is repeated. -/
def takeOver (s : State) (cause : Nat) (left : Bool) : State :=
  let s := fs (fs s F.GUARD_OVERMAN_ACTIVE_DIE2 (1 - fg s F.GUARD_OVERMAN_ACTIVE_DIE2)) F.GUARD_OVERMAN_STANDBY left.toNat
  let s := updOm (finc s F.GUARD_OVERMAN_FAILOVERS) fun o => { o with switching := false, beat := mer s }
  overmanRecord s cause

/-- Prospector tests in progress start again at the present time (R357, R379). -/
def repeatTests (s : State) : State :=
  { s with patrols := SMap.mapVals s.patrols fun _ (x : Patrol) => { x with test := x.test.map fun t => (t.1, mer s) } }

/-- Whether an Overman runs: power is up, the boot has not halted, and a cold boot has reached phase 5. -/
def overmanRuns (s : State) : Bool := !halted s && !(s.om.boot.any fun b => b.cold && decide (b.next < 5))

/-- OVERMAN_HEARTBEAT (R379): every 1 ms; a standby that is to take over by SWITCH does so, on the staged image where there is one (R395, R396). -/
def execOvermanHeartbeat (s : State) : Ans :=
  finish (if !overmanRuns s then s
    else
      let s := advanceToNs s (s.om.beat + 1000000)
      let s := updOm s fun o => { o with beat := mer s }
      if !s.om.switching then s
      else
        let s := if s.ke.staged.contains 2 then useCopy s 2 (1 - copyInUse s 2) else s
        takeOver s 2 true)

/-- OVERMAN_FAILOVER (R379, R387, Table 17.11): 10 ms without a heartbeat. -/
def execOvermanFailover (s : State) : Ans :=
  finish (if !overmanRuns s || cycling s || s.om.boot.any (fun b => !b.cold) then s
    else
      let s := advanceToNs s (s.om.beat + 10000000)
      let stand := fb s F.GUARD_OVERMAN_STANDBY
      match s.om.boot with
      | some b =>
        if !stand then bootHalt s 7
        else
          let s := takeOver s 1 false
          if b.next = 7 then updOm s fun o => { o with dies := [] } else s
      | none => if stand then repeatTests (takeOver s 1 false) else uncontrolledReset s 2 [])

/-- OVERMAN_SWITCH (R379). -/
def execOvermanSwitch (f : Func) (v : Word) (s : State) : Ans :=
  finish (if isPriv s f && decide (fieldOf F.GUARD_OVERMAN_SWITCH v = 1) && fb s F.GUARD_OVERMAN_STANDBY then updOm s fun o => { o with switching := true } else s)

/-! ### Rejoin (R380 to R385) -/

/-- Whether the stored self-test result of every section of partition p is valid (R382). -/
def testsValid (s : State) (p : Nat) : Bool :=
  !s.om.pend.contains 4 && (sectionsOf s p).all fun k => (SMap.find s.om.tested k).any fun x => x.1 == bootEpoch s

/-- A rejoin with nothing read. -/
def Rejoin.fresh (test : Bool) : Rejoin := { plan := none, test := test, entries := none, todo := [], bad := false, streams := none, trim := [] }

/-- GO (R382): a rejoin starts at stage 1 or 2, or is refused. -/
def rejoinGo (s : State) (p : Nat) : State :=
  let st := fg s F.GUARD_REJOIN_STATUS_STAGE p
  if !fb s F.GUARD_REJOIN_CTL_MODE p || (devId s p).isNone || decide ((part s p).phase ≠ 0) || !(st == 0 || st == 5 || st == 6) then fs s F.GUARD_REJOIN_CTL_REFUSED 1 p
  else
    let test := !testsValid s p
    let s := fs (fs (fs s F.GUARD_REJOIN_STATUS_STAGE (if test then 1 else 2) p) F.GUARD_REJOIN_STATUS_RESULT 0 p) F.GUARD_REJOIN_STATUS_DONE 0 p
    let s := fs (fs s F.GUARD_REJOIN_COUNT_RESTORED 0 p) F.GUARD_REJOIN_COUNT_FAILED 0 p
    rejoinPump (updOm s fun o => { o with rejoins := SMap.set o.rejoins p (Rejoin.fresh test) }) p

/-- A write to GUARD_REJOIN_CTL (R380, R382, R385): MODE first, then ABORT, then GO. -/
def rejoinCtlWrite (s : State) (f : Func) (p : Nat) (v : Word) : State :=
  if !isPriv s f || decide (8 ≤ p) then s
  else
    let was := fg s F.GUARD_REJOIN_CTL_MODE p
    let s := writeReg s .guardRejoinCtl v (-1) p
    let now := fg s F.GUARD_REJOIN_CTL_MODE p
    let s := if was = now then s else queueStore s 7
    let s := if now = 0 then rejoinHold (rejoinStop s p 7) p false
      else if fg s F.GUARD_REJOIN_STATUS_STAGE p = 0 then rejoinHold s p true
      else s
    let s := if fieldOf F.GUARD_REJOIN_CTL_ABORT v = 1 then rejoinStop s p 7 else s
    if fieldOf F.GUARD_REJOIN_CTL_GO v = 1 then rejoinGo s p else s

/-- REJOIN_GO (R382). -/
def execRejoinGo (f : Func) (p : Nat) (v : Word) (s : State) : Ans := finish (rejoinCtlWrite s f p v)

/-- REJOIN_ABORT (R385). -/
def execRejoinAbort (f : Func) (p : Nat) (v : Word) (s : State) : Ans := finish (rejoinCtlWrite s f p v)

/-- REJOIN_MODE_WRITE (R380). -/
def execRejoinModeWrite (f : Func) (p : Nat) (v : Word) (s : State) : Ans := finish (rejoinCtlWrite s f p v)

/-- The stage of a rejoin in progress, 0 when there is none. -/
def rejoinStage (s : State) (p : Nat) : Nat := if (SMap.find s.om.rejoins p).isSome then fg s F.GUARD_REJOIN_STATUS_STAGE p else 0

/-- Tier 1, Tier 2 and tile stores of a section are zero. -/
def zeroSection (s : State) (p k : Nat) : State :=
  let s := zeroBytes s (keyT1 k 0) (stackBytes s)
  let s := zeroBytes (zeroBytes s (keyT2 (2 * k) 0) positionBytes) (keyT2 (2 * k + 1) 0) positionBytes
  (sectionTiles s k).foldl (fun s n => zeroStore s n p) s

/-- REJOIN_SELF_TEST_END (R383): failures of the partition's sections are handled as at cold boot, and the result is stored. A fatal failure fails the stage (DESIGN CHOICE). -/
def execRejoinSelfTestEnd (p : Nat) (entries : List FailEntry) (s : State) : Ans :=
  let secs := sectionsOf s p
  finish (match SMap.find s.om.rejoins p with
    | none => s
    | some r =>
      match r.plan with
      | none => s
      | some w =>
        if fg s F.GUARD_REJOIN_STATUS_STAGE p ≠ 1 then s
        else
          let s := secs.foldl (fun s k => zeroSection s p k) s
          let own := entries.filter fun e => (unitSection s e.kind e.unit).any secs.contains
          let (es, s) := applyFails s own
          let s := recordTest s secs es
          if es.any (fun e => e.action == 8) || (List.range 4).all fun d => decide (usableWidth s p d < db w 0 44 40) then rejoinStop s p 2
          else rejoinPump (fs (fs s F.GUARD_REJOIN_STATUS_STAGE 2 p) F.GUARD_REJOIN_STATUS_DONE 0 p) p)

/-- REJOIN_WEIGHTS_END (R383): the first entry that fails ends the rejoin; `ok` is false when a path reports an error. -/
def execRejoinWeightsEnd (p : Nat) (ok : Bool) (s : State) : Ans :=
  finish (if rejoinStage s p ≠ 2 then s
    else
      let s := rejoinPump s p
      match SMap.find s.om.rejoins p with
      | none => s
      | some r =>
        if r.bad || !ok then rejoinStop s p 3
        else if r.entries.isNone || !r.todo.isEmpty || s.xp.ops.any (·.isWeight p) then s
        else fs (fs s F.GUARD_REJOIN_STATUS_STAGE 3 p) F.GUARD_REJOIN_STATUS_DONE 0 p)

/-- Restore a stream for a rejoin (R210, R383): it is left OPEN or PARKED with its mirror as it was, or FREE. None while data of a peer is on its way. -/
def rejoinStream (s : State) (p sid : Nat) (park t2 : Bool) : Option Bool × State :=
  let st := eState (entryRaw s p sid)
  if !fb s F.SEAM_CTL_EN p || decide (streamCount s p ≤ sid) || decide (leaseFrames s p = 0) || !(st == sFree || st == sRestoring) then (some false, s)
  else
    let e := entryRaw s p sid
    let s := if st = sFree then putEntry s p sid (used s (eset (eset e 0 63 61 sRestoring) 0 15 0 (eGen e + 1))) else s
    let fail := fun (s : State) => (some false, putEntry s p sid (freedEntry (entryRaw s p sid)))
    match readMirror s p sid fun r => r.ofPart s p with
    | (.error .wait, s) => (none, s)
    | (.error _, s) => fail s
    | (.ok m, s) =>
      if eState m.entry ≠ sOpen ∧ eState m.entry ≠ sParked then fail s
      else
        match restoreInto s p sid (entryRaw s p sid) m park t2 with
        | none => fail s
        | some (e, s) => (some true, putEntry (dropLines s p sid) p sid e)

/-- Restore the listed streams in order; answers whether all have been tried. -/
def rejoinStreams (s : State) (p : Nat) (park t2 : Bool) : List Nat → Bool × State
  | [] => (true, updRejoin s p fun r => { r with streams := some [] })
  | k :: ks =>
    match rejoinStream s p k park t2 with
    | (none, s) => (false, updRejoin s p fun r => { r with streams := some (k :: ks) })
    | (some ok, s) =>
      let s := if ok then finc (updRejoin s p fun r => { r with trim := r.trim ++ [k] }) F.GUARD_REJOIN_COUNT_RESTORED 1 p
        else finc s F.GUARD_REJOIN_COUNT_FAILED 1 p
      rejoinStreams (finc s F.GUARD_REJOIN_STATUS_DONE 1 p) p park t2 ks

/-- The stream list of a plan, once it is read; none while it is on its way. -/
def streamList (s : State) (p : Nat) (w : List Word) : Option (Option (List Nat)) × State :=
  let n := db w 2 31 0
  if n = 0 then (some (some []), s)
  else
    match engineRead s p (dw w 3) (4 * n) with
    | (.wait, s) => (none, s)
    | (.refused _ _, s) => (some none, s)
    | (.data bs, s) => (some (some ((List.range n).map fun i => ofBytes ((bs.drop (4 * i)).take 4) % 2 ^ 20)), s)

/-- Whether GUARD_REJOIN_ADMIT.TIME asks for a boundary that is still to come, or for none. -/
def admitAhead (s : State) (p : Nat) : Bool :=
  let t := (rd s .guardRejoinAdmit p).toNat
  t == 0 || (decide (mer s < t) && isBoundary s t)

/-- Stage 4 starts (R383): ADMIT_MISSED is recorded where TIME is no future boundary, and the stage waits for a new TIME. -/
def startAdmit (s : State) (p : Nat) : State :=
  let s := fs (fs s F.GUARD_REJOIN_STATUS_STAGE 4 p) F.GUARD_REJOIN_STATUS_DONE 0 p
  if admitAhead s p then s
  else
    let r := { blankRec s 0x19 5 0 with aux := 4, aux2 := BitVec.ofNat 64 (fg s F.GUARD_REJOIN_COUNT_FAILED p) }
    emit (fs s F.GUARD_REJOIN_STATUS_RESULT 5 p) (r.ofPart s p)

/-- REJOIN_STREAMS_END (R383): the streams that can be restored are, and the stage ends once every one has been tried. -/
def execRejoinStreamsEnd (p : Nat) (s : State) : Ans :=
  finish (if rejoinStage s p ≠ 3 then s
    else
      match (SMap.find s.om.rejoins p).bind (·.plan) with
      | none => s
      | some w =>
        let got := ((SMap.find s.om.rejoins p).bind (·.streams))
        match (match got with
          | some l => (some (some l), s)
          | none => streamList s p w) with
        | (none, s) => s
        | (some none, s) => rejoinStop s p 4
        | (some (some l), s) =>
          match rejoinStreams s p (bitOf (dw w 2) 34) (db w 2 33 32 == 1) l with
          | (false, s) => s
          | (true, s) =>
            if db w 4 31 0 < fg s F.GUARD_REJOIN_COUNT_FAILED p ∨ fg s F.SEAM_CONTRAIL_CTL_RESULT p ≠ 1 then rejoinStop s p 4
            else startAdmit s p)

/-- The rejoins whose admission boundary is b complete (R380, R383): mirrors are trimmed, and the hold lifts. -/
def rejoinAdmit (s : State) (b : Nat) : State :=
  s.om.rejoins.foldl (fun s (p, r) =>
    let t := (rd s .guardRejoinAdmit p).toNat
    if fg s F.GUARD_REJOIN_STATUS_STAGE p ≠ 4 ∨ fg s F.GUARD_REJOIN_STATUS_RESULT p ≠ 0 ∨ (t ≠ 0 ∧ t ≠ b) then s
    else
      let s := r.trim.foldl (fun s k => trimMirror s p k (entryRaw s p k)) s
      rejoinEnd (rejoinHold s p false) p 1) s

/-- A write to GUARD_REJOIN_ADMIT: a stage 4 that has missed its boundary takes a new TIME (R383). -/
def rejoinAdmitWrite (s : State) (p : Nat) (v m : Word) : State :=
  let s := writeReg s .guardRejoinAdmit v m p
  if rejoinStage s p = 4 ∧ fg s F.GUARD_REJOIN_STATUS_RESULT p = 5 ∧ admitAhead s p = true then fs s F.GUARD_REJOIN_STATUS_RESULT 0 p else s

end Sys2Proof.Machine
end

