-- ==== Sys2Proof/Machine/Boot.lean ====
section
/-! DEFINITION. The commands of bring-up and of the persistent store (chapter 17): the fast path, the cold boot, self-test results, slots and transfers. -/

namespace Sys2Proof.Machine

/-! ### Phases and steps (R408, R409) -/

/-- The reset of a controlled device reset, at the end of its drain (R374): the DEVICE_RESET record waits for a log. -/
def drainedReset (s : State) (b : Boot) : State :=
  let r := { blankRec s 0x14 b.cause 4 with aux := BitVec.ofNat 64 b.start }
  fs (fs (emit (resetModule s (s.om.rebooted (some b))) r) F.PSTORE_BOOT_PHASE 0) F.PSTORE_BOOT_RESULT 0

/-- FAST_PATH_STEP_END (R409). -/
def execFastPathStepEnd (v : BootVerdict) (s : State) : Ans :=
  finish (match s.om.boot with
    | none => s
    | some b =>
      if b.cold || !phaseDone s b then s
      else
        let s := if b.next = 1 then drainedReset (settle s s.clk.cyc) b else s
        match v with
        | .failed code => bootHalt s code.toNat
        | .degraded => showBusy (endPhase s b true startStep 7)
        | .ok => showBusy (endPhase s b false startStep 7))

/-- COLD_BOOT_PHASE_END (R408). -/
def execColdBootPhaseEnd (v : BootVerdict) (s : State) : Ans :=
  finish (match s.om.boot with
    | none => s
    | some b =>
      if !b.cold || !phaseDone s b then s
      else
        match v with
        | .failed code => bootHalt s code.toNat
        | .degraded => showBusy (endPhase s b true startPhase 11)
        | .ok => showBusy (endPhase s b false startPhase 11))

/-- SELF_TEST_COMPLETE (R412): phase 7 of a die ends with its failure entries. -/
def execSelfTestComplete (die : Nat) (entries : List FailEntry) (s : State) : Ans :=
  finish (if s.om.boot.any (fun b => b.cold && b.next == 7) && decide (die < 4) && (SMap.find s.om.dies die).isNone then
      updOm s fun o => { o with dies := SMap.set o.dies die entries }
    else s)

/-! ### The persistent store (R421, R422, R425) -/

/-- PSTORE_SLOT_WRITE (R422): the pending write of a record type is made. A slot that does not read back is counted, and the write stays pending. -/
def execPstoreSlotWrite (ty : Nat) (readBackOk : Bool) (s : State) : Ans :=
  finish (if !s.om.powered || (halted s && ty != 1) || !s.om.pend.contains ty || decide (ty = 0) || decide (8 < ty) then s
    else
      let s := putSlot s ty (storeBody s ty) readBackOk
      if !readBackOk then finc s F.PSTORE_FLASH_WRITE_FAIL
      else
        let s := updOm (finc s F.PSTORE_FLASH_WRITES) fun o => { o with pend := o.pend.filter (· != ty) }
        if ty = 2 then fs s F.SEC_FW_CTL_COMMIT 0
        else if ty = 3 then { s with mapPend := [] }
        else s)

/-- One bit of a CRC-32C division (reflected polynomial). -/
def crcBit (c : BitVec 32) : BitVec 32 := if c &&& 1 = 1 then (c >>> 1) ^^^ 0x82F63B78 else c >>> 1

/-- CRC-32C of bytes (R421). -/
def crc32c (bs : List Byte) : BitVec 32 :=
  (bs.foldl (fun (c : BitVec 32) b => (List.range 8).foldl (fun c _ => crcBit c) (c ^^^ b.setWidth 32)) 0xFFFFFFFF) ^^^ 0xFFFFFFFF

/-- A slot as it stands in flash (Table 17.9): its header and body. The CRC covers word 0, SEQ and the body. -/
def slotImage (t : Nat) (x : StoreSlot) : List Byte :=
  let w0 := bytesOf 8 (0x5053 * 2 ^ 48 + t % 256 * 2 ^ 40 + 2 ^ 32 + x.body.length)
  let sq := bytesOf 4 x.seq
  w0 ++ bytesOf 4 (crc32c (w0 ++ sq ++ x.body)).toNat ++ sq ++ x.body

/-- Put a slot into a list that has the newest first. -/
def insertSlot (x : StoreSlot) : List StoreSlot → List StoreSlot
  | [] => [x]
  | y :: ys => if newerSlot x y then x :: y :: ys else y :: insertSlot x ys

/-- The valid slots of a record type, newest first. -/
def validSlots (s : State) (t : Nat) : List StoreSlot :=
  ((bankSlots s t 0 ++ bankSlots s t 1).filter (·.ok)).foldl (fun l x => insertSlot x l) []

/-- PSTORE_XFER_GO (R425): the slot is the one valid at GO (Table 17.11). -/
def execPstoreXferGo (f : Func) (v : Word) (s : State) : Ans :=
  let t := fieldOf F.PSTORE_XFER_CTL_TYPE v
  finish (if !isPriv s f || decide (fieldOf F.PSTORE_XFER_CTL_GO v = 0) then s
    else if s.om.xfer.isSome then fs s F.PSTORE_XFER_STATUS_BUSY_ERR 1
    else if t = 0 ∨ 8 < t then fs s F.PSTORE_XFER_STATUS_RESULT 5
    else
      let x := (validSlots s t)[fieldOf F.PSTORE_XFER_CTL_INDEX v]?
      fs (updOm s fun o => { o with xfer := some (x.map (slotImage t)) }) F.PSTORE_XFER_STATUS_RESULT 1)

/-- PSTORE_XFER_COMPLETE (R425). -/
def execPstoreXferComplete (s : State) : Ans :=
  finish (match s.om.xfer with
    | none => s
    | some x =>
      let s := updOm s fun o => { o with xfer := none }
      match x with
      | none => fs s F.PSTORE_XFER_STATUS_RESULT 3
      | some bs =>
        let ((st, _), s) := pfWrite s (rd s .pstoreXferAddr) bs
        if st ≠ stOK then fs s F.PSTORE_XFER_STATUS_RESULT 4
        else fs (fs s F.PSTORE_XFER_STATUS_RESULT 2) F.PSTORE_XFER_STATUS_LENGTH bs.length)

end Sys2Proof.Machine
end

