-- ==== Sys2Proof/Machine/HostIf.lean ====
section
/-! DEFINITION. The commands of the host interface (chapter 13): link, resets of functions, BAR2, DMA rings and MSI-X. -/

namespace Sys2Proof.Machine

/-! ### Link and functions -/

/-- A core's request whose path to host memory breaks off ends with HOST_ABORT (R322, R334). -/
def HaulReq.hostLost (r : HaulReq) : HaulReq := if hostAddr r.addr ∧ r.err = stOK then { r with err := stHostAbort, errAt := r.addr.toNat } else r

/-- Host-memory accesses in progress fail with HOST_ABORT (R322, Table 13.9): those of ring descriptors and of cores' requests. -/
def abortHost (s : State) : State :=
  let s := s.dmas.foldl (fun s (r, ds) => ds.foldl (fun s d =>
    if hostAddr (dw d.words 1) || hostAddr (dw d.words 2) then dmaAbort s r d else s) s) s
  { s with cores := s.cores.map fun (k, c) => (k, { c with haul := c.haul.map HaulReq.hostLost }) }

/-- The link goes down (R322): no TLP leaves, and host-memory accesses fail with HOST_ABORT, those in progress too. -/
def linkDown (s : State) : State :=
  if hostUp s then finc (fs (abortHost s) F.HOST_LINK_STATUS_DL_UP 0) F.HOST_LINK_ERR_DOWN else s

/-- HOST_LINK_DOWN (R322). -/
def execHostLinkDown (s : State) : Ans := finish (linkDown s)

/-- PERST_ASSERT (R447). -/
def execPerstAssert (s : State) : Ans := finish (linkDown s)

/-- The speeds and widths of Table 13.1. -/
def linkMode (gen width : Nat) : Bool := decide (4 ≤ gen) && decide (gen ≤ 6) && (width == 4 || width == 8 || width == 16)

/-- The link runs at a speed and width. -/
def setLink (s : State) (gen width : Nat) : State :=
  fs (fs (fs s F.HOST_LINK_STATUS_GEN gen) F.HOST_LINK_STATUS_WIDTH width) F.HOST_LINK_STATUS_FLIT (if gen = 6 then 1 else 0)

/-- HOST_LINK_UP (R322, Table 18.2): configuration space returns to its reset values. -/
def execHostLinkUp (gen : BitVec 4) (width : BitVec 6) (s : State) : Ans :=
  finish (if hostUp s || !linkMode gen.toNat width.toNat || fb s F.CLK_REF_STATUS_HOST_LOST then s
    else fs (setLink { s with numVfs := 0, bar2 := [], d3hot := [], cfgs := [] } gen.toNat width.toNat) F.HOST_LINK_STATUS_DL_UP 1)

/-- HOST_LINK_RETRAIN (R322): to a lower speed or a lower width. -/
def execHostLinkRetrain (gen : BitVec 4) (width : BitVec 6) (s : State) : Ans :=
  let g := fg s F.HOST_LINK_STATUS_GEN
  let w := fg s F.HOST_LINK_STATUS_WIDTH
  finish (if hostUp s && linkMode gen.toNat width.toNat && decide (gen.toNat < g ∨ width.toNat < w) then
      finc (setLink s gen.toNat width.toNat) F.HOST_LINK_ERR_RETRAINS
    else s)

/-- Partitions whose owning function is `fn` (R323). -/
def ownedBy (s : State) (fn : Nat) : List Nat := (List.range 8).filter fun p => partExists s p && ownerFn s p == fn

/-- The rings of a function (R324). -/
def ringsOf (s : State) (fn : Nat) : List Nat :=
  (ownedBy s fn).flatMap (fun p => rangeFrom (8 * p) 8) ++ (if fn = 0 then rangeFrom 64 8 else [])

/-- The queues of a partition stop, and records not yet written are discarded; each posts its gate when it would have been written (R45, R324). -/
def muteQueues (s : State) (p : Nat) : State :=
  let s := (rangeFrom (16 * p) 16).foldl (fun s q => fs (fs s F.TGE_SQ_CTL_EN 0 q) F.TGE_CQ_CTL_EN 0 q) s
  let s := updTge s fun x => { x with graphs := x.graphs.map fun g => if g.part = p ∧ g.shadow = false then { g with mute := true } else g }
  (rangeFrom (16 * p) 16).foldl showCqWait s

/-- The host command ring of a partition stops, and ring completions not yet written are discarded (R324). -/
def muteHq (s : State) (p : Nat) : State :=
  let s := fs s F.SEAM_HQ_CTL_EN 0 p
  let mute := fun (c : SeamCmd) => match c.origin with
    | .host ix _ => if c.part = p then { c with origin := CmdFrom.host ix true } else c
    | _ => c
  { s with seam := { s.seam with queue := s.seam.queue.map mute, jobs := s.seam.jobs.map fun (j : SeamJob) => { j with cmd := mute j.cmd } } }

/-- The keys of a function's MSI-X structures and HOST_EVENT_VEC go back to reset. -/
def clearMsix (s : State) (fn : Nat) : State :=
  let mine := fun (k : Nat) => decide (k / 2 ^ 32 = fn) && (decide (k % 2 ^ 32 = RegName.hostEventVec.off 0 0) ||
    (decide (0x680000 ≤ k % 2 ^ 32) && decide (k % 2 ^ 32 < 0x6D0000)))
  { s with regs := s.regs.filter fun (k, _) => !mine k, vecs := s.vecs.filter fun (k, _) => k / 4096 != fn }

/-- Whether a function exists. -/
def funcExists (s : State) : Func → Bool
  | .pf => true
  | .vf i => decide (1 ≤ i) && decide (i ≤ s.numVfs)
  | .overman => false

/-- FUNCTION_LEVEL_RESET (R324). No TLP of the function leaves afterwards, until a configuration write lets it send requests again (DEDUCED, log entry 83). -/
def execFunctionLevelReset (f : Func) (s : State) : Ans :=
  finish (if !funcExists s f then s
    else
      let s := (ringsOf s (fnOf f)).foldl ringAbandon s
      let s := updCfg (clearMsix s (fnOf f)) (fnOf f) fun c => { c with master := false }
      (ownedBy s (fnOf f)).foldl (fun s p => muteHq (muteQueues s p) p) s)

/-- The messages that wait in a function's pending bits, sent where nothing masks them any longer. -/
def sendPending (s : State) (fn : Nat) : State :=
  (List.range (tableSize fn / 64)).foldl (fun s i =>
    let pba := rd s .hostMsixPba i 0 fn
    if pba = 0 then s
    else (List.range 64).foldl (fun s b =>
      if bitOf pba b && hostUp s then sendMsg (wr s .hostMsixPba (setBit (rd s .hostMsixPba i 0 fn) b false) i 0 fn) fn (64 * i + b) else s) s) s

/-- The effect of a configuration write on a function's configuration space (Table 13.1). Sizes beyond those of the table, and a timeout value of no range of it, change nothing. -/
def FuncCfg.write (c : FuncCfg) : CfgWrite → FuncCfg
  | .maxPayload k => if k ≤ 2 then { c with mps := k } else c
  | .maxRead k => if k ≤ 5 then { c with mrrs := k } else c
  | .timeout v => if [0, 1, 2, 5, 6, 9, 10].contains v.toNat then { c with cto := v } else c
  | .msixEnable on => { c with msix := on }
  | .msixMask on => { c with mask := on }
  | .master on => { c with master := on }
  | .aerClear bits => { c with aer := c.aer &&& ~~~bits }
  | _ => c

/-- CONFIGURATION_WRITE (R323, R325, Table 13.1). -/
def execConfigurationWrite (f : Func) (w : CfgWrite) (s : State) : Ans :=
  finish (if !funcExists s f || !hostUp s then s
    else match w with
      | .numVfs n => if fnOf f = 0 ∧ n ≤ 8 then { s with numVfs := n } else s
      | .bar2Size k => if 30 ≤ k ∧ k ≤ 42 then { s with bar2 := SMap.set s.bar2 (fnOf f) k } else s
      | .power on =>
        let rest := s.d3hot.filter (· != fnOf f)
        let s := { s with d3hot := if on then rest ++ [fnOf f] else rest }
        if on then s else sendPending s (fnOf f)
      | w => sendPending (updCfg s (fnOf f) (·.write w)) (fnOf f))

/-! ### BAR2 -/

/-- BAR2_READ (R326, R327, Table 13.4): each line is judged and answered. -/
def execBar2Read (f : Func) (off len : Nat) (s : State) : Ans :=
  finish (if !bar2Served s f off len false then s
    else ((pieces off len).foldl (fun (acc : Nat × State) n => (acc.1 + n, bar2Line acc.2 f acc.1 n)) (off, s)).2)

/-- BAR2_WRITE (R326, R327, Table 13.4): each line is judged, and written or discarded. -/
def execBar2Write (f : Func) (off : Nat) (bytes : List Byte) (s : State) : Ans :=
  finish (if !bar2Served s f off bytes.length true then s
    else ((pieces off bytes.length).foldl (fun (acc : Nat × State) n =>
    (acc.1 + n, bar2Put acc.2 f acc.1 ((bytes.drop (acc.1 - off)).take n))) (off, s)).2)

/-! ### DMA rings -/

/-- DMA_DOORBELL (R328, R332, Table 15.4). -/
def execDmaDoorbell (f : Func) (r : Nat) (v : Word) (s : State) : Ans :=
  let t := getBits v 15 0
  finish (if !mayRing s f r || partFenced s (ringPart s r) || inDeviceReset s then s
    else if ringSize s r ≤ t then fs s F.HOST_DMA_STATUS_DOORBELL_RANGE 1 r
    else fs s F.HOST_DMA_HEAD_TAIL t r)

/-- Whether ring r may start a descriptor (R332, R441, Table 15.4). -/
def ringRuns (s : State) (r : Nat) : Bool :=
  decide (r < 72) && fb s F.HOST_DMA_CTL_EN r && decide (fg s F.HOST_DMA_HEAD_HEAD r ≠ fg s F.HOST_DMA_HEAD_TAIL r) &&
  decide ((dmaProg s r).length < 4) && !partFenced s (ringPart s r) && !inDeviceReset s && awake s

/-- A fetched descriptor starts (R332), or is done at once where it is invalid (Table 13.8) or its ring is the PF's and names a confidential partition (R327). -/
def startDesc (s : State) (r ix : Nat) (ws : List Word) : State :=
  let st := if 64 ≤ r ∧ confOn s (ringPart s r) = true then stPrivileged else if dmaBad ws then stDescInvalid else stOK
  let d : DmaDesc := { ix := ix, words := ws, sent := decide (st ≠ stOK), st := st, errAt := 0 }
  let s := setDma s r (dmaProg s r ++ [d])
  let s := fs s F.HOST_DMA_HEAD_HEAD ((ix + 1) % ringSize s r) r
  dmaMove s r d false none

/-- DMA_DESC_START (R332). -/
def execDmaDescStart (r : Nat) (s : State) : Ans :=
  let ix := fg s F.HOST_DMA_HEAD_HEAD r
  finish (if !ringRuns s r then s
    else if !ringBaseOk s r then ringFail s r ix
    else match engineRead s (ringPart s r) (BitVec.ofNat 64 (descAddr s r ix)) 64 id (ringWho s r) with
      | (.data bs, s) =>
        let ws := wordsOf 8 bs
        if db ws 0 58 58 = 1 ∧ (dmaProg s r).isEmpty = false then s else startDesc s r ix ws
      | (.refused _ _, s) => ringFail s r ix
      | (.wait, s) => s)

/-- Write a descriptor back (R332, R333): word 7, the gate post of an OK descriptor, the interrupt, and the stop of the ring on a failure. -/
def writeBack (s : State) (r : Nat) (d : DmaDesc) : State :=
  let p := ringPart s r
  let bytes := if d.st = stOK then d.len else d.errAt
  let w := BitVec.ofNat 64 (2 ^ 63 + d.st * 2 ^ 48 + bytes % 2 ^ 32)
  let s := setDma s r ((dmaProg s r).drop 1)
  let s := (engineWrite s p (BitVec.ofNat 64 (descAddr s r d.ix + 56)) (bytesOf 8 w.toNat) (ringWho s r)).2
  let s := finc s F.HOST_DMA_STATUS_DONE_COUNT 1 r
  let s := if d.st = stOK ∧ db d.words 0 57 57 = 1 then gateAdd s p (db d.words 0 41 32) (db d.words 3 31 0) else s
  let s := if db d.words 0 59 59 = 1 ∧ fb s F.HOST_DMA_CTL_IRQ_EN r = true then signal s (ringFn s r) (fg s F.HOST_DMA_CTL_VECTOR r) else s
  if d.st = stOK then s else ringFail s r d.ix

/-- DMA_DESC_COMPLETE (R332, R333): the oldest descriptor in progress, once its data has moved. Where a host read fails, the lines that it gave are a free value; one that timed out is
counted. -/
def execDmaDescComplete (r : Nat) (host : HostRead) (s : State) : Ans :=
  finish (match dmaProg s r with
    | [] => s
    | d :: _ =>
      if dmaHeld s r d then s else
      let lost := host ≠ .given ∧ hostAddr (dw d.words 1) = true ∧ d.sent = false
      let s := if lost ∧ host = .timedOut then aerSet (finc s F.HOST_LINK_ERR_CPL_TIMEOUT) (ringFn s r) aerTimeout else s
      let s := if lost then dmaAbort s r d else dmaMove s r d true none
      match dmaProg s r with
      | d :: _ =>
        if !d.sent || s.xp.ops.any fun o => o.why == .dma r d.ix then s else writeBack s r d
      | [] => s)

/-- HOST_DMA_CTL_WRITE (R331, Table 13.11, Table 16.6). -/
def execHostDmaCtlWrite (f : Func) (r : Nat) (v : Word) (s : State) : Ans :=
  finish (if !mayRing s f r then s
    else
      let was := fb s F.HOST_DMA_CTL_EN r
      let size := fg s F.HOST_DMA_CTL_SIZE_LOG2 r
      let s := writeReg s .hostDmaCtl v (-1) r
      let s := if was then fs s F.HOST_DMA_CTL_SIZE_LOG2 size r else s
      let s := if r < 64 then fs s F.HOST_DMA_CTL_PART 0 r else s
      let n := fg s F.HOST_DMA_CTL_SIZE_LOG2 r
      let conf := decide (r < 64) && confOn s (r / 8) && !decide ((rd s .hostDmaBase r).toNat < t1Size s (r / 8))
      if !was && fb s F.HOST_DMA_CTL_EN r && (decide (n < 4) || decide (16 < n) || conf) then ringStop s r else s)

/-! ### MSI-X (R336) -/

/-- A vector is unmasked: a pending message is sent. -/
def unmask (s : State) (fn v : Nat) : State :=
  let s := fs s F.HOST_MSIX_DATA_MASK 0 v 0 fn
  let pba := rd s .hostMsixPba (v / 64) 0 fn
  if bitOf pba (v % 64) && hostUp s then sendMsg (wr s .hostMsixPba (setBit pba (v % 64) false) (v / 64) 0 fn) fn v else s

/-- MSIX_UNMASK (R336). -/
def execMsixUnmask (f : Func) (vec : Nat) (s : State) : Ans :=
  finish (if funcExists s f && decide (vec < tableSize (fnOf f)) && !s.d3hot.contains (fnOf f) then unmask s (fnOf f) vec else s)

/-- MSIX_MOD_TIMEOUT (R336): TIME_US after the first unsent event. -/
def execMsixModTimeout (f : Func) (vec : Nat) (s : State) : Ans :=
  finish (match SMap.find s.vecs (vecKey (fnOf f) vec) with
    | some (_, t0) => sendMsg (advanceToNs s (t0 + fg s F.HOST_MSIX_MOD_TIME_US vec 0 (fnOf f) * 1000)) (fnOf f) vec
    | none => s)

end Sys2Proof.Machine
end

