-- ==== Sys2Proof/Machine/Sec.lean ====
section
/-! DEFINITION. The commands of the key engine (chapter 16): floors, staging, attestation, confidential partitions, sessions and sealed transfers. -/

namespace Sys2Proof.Machine

/-- Whether every byte is 0. -/
def allZero (bs : List Byte) : Bool := bs.all (· == 0)

/-- The little-endian word at byte 8k. -/
def wordAt (bs : List Byte) (k : Nat) : Word := bodyWord bs k

/-! ### Firmware (R393 to R395) -/

/-- FW_COMMIT (R395): each type's floor rises to its running SVN; COMMIT reads 1 until the SECURITY record is written. -/
def execFwCommit (f : Func) (v : Word) (s : State) : Ans :=
  finish (if !isPriv s f || decide (fieldOf F.SEC_FW_CTL_COMMIT v = 0) then s
    else
      let s := writeReg s .secFwCtl v (-1)
      let s := [1, 2, 3, 4].foldl (fun s t =>
        if bitOf v (t - 1) then fs s (floorFld t) (max (fg s (floorFld t)) (fg s (svnFld t))) else s) s
      queueStore s 2)

/-- Bytes of a flash copy of an image type (Table 17.8); an owner-key record is its header and 64 bytes. -/
def copyBytes (t : Nat) : Nat := if t = 2 then 8 * 2 ^ 20 else if t = 4 then 4 * 2 ^ 20 else if t = 5 then 320 else 2 ^ 20

/-- STAGE_GO (R395, Table 16.11). -/
def execStageGo (f : Func) (v : Word) (s : State) : Ans :=
  finish (if !isPriv s f then s
    else
      let s := writeReg s .secStageCtl v (-1)
      let t := fieldOf F.SEC_STAGE_CTL_TYPE v
      let n := fieldOf F.SEC_STAGE_CTL_LENGTH v
      if fieldOf F.SEC_STAGE_CTL_GO v = 0 then s
      else if s.ke.staging.isSome then fs s F.SEC_STAGE_STATUS_BUSY_ERR 1
      else if t = 0 ∨ 5 < t ∨ n < 256 ∨ copyBytes t < n then fs s F.SEC_STAGE_STATUS_RESULT 8
      else fs (updKe s fun e => { e with staging := some (t, n, rd s .secStageAddr) }) F.SEC_STAGE_STATUS_RESULT 1)

/-- What Table 16.3 says of an image of a type: 0 accepted, or the RESULT of its refusal. An owner-key record needs the current owner's signature where a key is enrolled (R393). -/
def imageCheck (s : State) (t : Nat) (bs : List Byte) : Nat :=
  let body := bs.drop 256
  let own := slice bs 144 64
  let vendor := Config.edVerify Config.firmwareKey (slice bs 0 80) (slice bs 80 64) && fit 64 (Config.sha512 body) == slice bs 16 64
  let svn := getBits (wordAt bs 1) 63 48
  let floor := if t = 5 then 0 else fg s (floorFld t)
  let signed := Config.edVerify s.ke.owner (slice bs 0 144) own
  if !vendor then 4
  else if svn < floor then 5
  else if s.ke.owner.isEmpty || signed then 0
  else if t = 5 || !allZero own || fb s F.SEC_FW_CTL_OWNER_REQ then 6
  else 0

/-- An accepted owner-key record replaces the owner key and OWNER_REQ (R394). -/
def applyOwner (s : State) (body : List Byte) : State :=
  let key := slice body 0 32
  let s := updKe s fun e => { e with owner := if allZero key then [] else key }
  let s := fs (fs s F.SEC_FW_CTL_OWNER_ENROLLED (!allZero key).toNat) F.SEC_FW_CTL_OWNER_REQ (getBits (wordAt body 4) 0 0)
  queueStore s 2

/-- STAGE_COMPLETE (R393, R395): the image goes over the copy not in use, or the owner record is applied, or the image is refused. A header whose MAGIC, TYPE or LENGTH is not that of the request, and
an owner record with other bytes set, is refused as TYPE or LENGTH invalid (DESIGN CHOICE). -/
def execStageComplete (s : State) : Ans :=
  finish (match s.ke.staging with
    | none => s
    | some (t, n, ga) =>
      match pfRead s ga n with
      | (.wait, s) => s
      | (.refused _ _, s) => fs (updKe s fun e => { e with staging := none }) F.SEC_STAGE_STATUS_RESULT 7
      | (.data bs, s) =>
        let s := updKe s fun e => { e with staging := none }
        let body := bs.drop 256
        let w0 := wordAt bs 0
        if getBits w0 63 32 ≠ 0x4E525846 ∨ getBits w0 31 28 ≠ t ∨ getBits (wordAt bs 1) 31 0 + 256 ≠ n then fs s F.SEC_STAGE_STATUS_RESULT 8
        else
          let r := imageCheck s t bs
          if r ≠ 0 then fs s F.SEC_STAGE_STATUS_RESULT r
          else if t = 5 then
            (if !allZero (body.drop 33) || decide (1 < (nth body 32 0).toNat) then fs s F.SEC_STAGE_STATUS_RESULT 8
             else fs (applyOwner s body) F.SEC_STAGE_STATUS_RESULT 3)
          else
            let x : Image := { svn := getBits (wordAt bs 1) 63 48, digest := slice bs 16 64, ok := true, size := body.length, body := body }
            let c := 1 - copyInUse s t
            fs (updKe s fun e => { e with images := SMap.set e.images (2 * t + c) x, staged := e.staged.filter (· != t) ++ [t] }) F.SEC_STAGE_STATUS_RESULT 2)

/-! ### Attestation (R397) -/

/-- ATTEST_GO (R397). -/
def execAttestGo (f : Func) (v : Word) (s : State) : Ans :=
  finish (if !isPriv s f || decide (fieldOf F.SEC_ATTEST_CTL_GO v = 0) then s
    else if s.ke.attest.isSome then fs s F.SEC_ATTEST_STATUS_BUSY_ERR 1
    else fs (updKe s fun e => { e with attest := some (fieldOf F.SEC_ATTEST_CTL_PART v, rd s .secAttestAddr) }) F.SEC_ATTEST_STATUS_RESULT 1)

/-- The tenant key of partition p. -/
def tenantKey (s : State) (p : Nat) : List Byte := bytesOfWords ((List.range 4).map fun k => rd s .secTenantKey p k)

/-- The first 512 bytes of an attestation report (Table 16.5). -/
def reportBytes (s : State) (p : Nat) (nonce : List Byte) : List Byte :=
  let w0 := 6 * 2 ^ 60 + 2 ^ 56 + fg s F.GLB_PART_STEPPING * 2 ^ 48 + grade s * 2 ^ 44 + p * 2 ^ 41 + (confOn s p).toNat * 2 ^ 40 + partEpoch s p * 2 ^ 32 + (devId s p).getD 0
  let slots := countIf (fun k => fg s F.SEC_SLOT_STATE p k == 2) (List.range 64)
  let w2 := (sectionsOf s p).foldl (fun a k => a + 2 ^ k) 0 * 2 ^ 56 + slots * 2 ^ 48
  bytesOf 8 w0 ++ bytesOf 8 (mer s) ++ bytesOf 8 w2 ++ bytesOfWords [rd s .secFwStatus] ++ fit 64 nonce ++ ((rangeFrom 1 5).flatMap (meas s)) ++ pakPub s p ++
    (if confOn s p then tenantKey s p else List.replicate 32 0) ++ List.replicate 32 0

/-- ATTEST_COMPLETE (R397): the report, signed by the PAK, and the certificates go into the buffer. A partition that is absent, or an identity that is (Table 17.10), ends with RESULT 4. -/
def execAttestComplete (s : State) : Ans :=
  finish (match s.ke.attest with
    | none => s
    | some (p, ga) =>
      let done := fun (s : State) r => fs (updKe s fun e => { e with attest := none }) F.SEC_ATTEST_STATUS_RESULT r
      if !partExists s p || (fb s F.PSTORE_REC_DEFAULTED 0 && s.ke.cert.isEmpty) then done s 4
      else
        match pfRead s (ga + 32) 64 with
        | (.wait, s) => s
        | (.refused _ _, s) => done s 3
        | (.data nonce, s) =>
          let rep := reportBytes s p nonce
          let sig := fit 64 (Config.edSign (pak s p).1 rep)
          let ((st, _), s) := pfWrite s ga (rep ++ sig ++ chainBytes s p)
          done s (if st = stOK then 2 else 3))

/-! ### Confidential partitions (R398) -/

/-- A handshake of partition p in progress ends (Table 16.10): its slot is FREE, and its RESULT is a free value. -/
def dropShake (s : State) (p : Nat) : State :=
  match SMap.find s.ke.shakes p with
  | none => s
  | some (v, _) =>
    let (w, s) := drawFree s
    fs (updKe (endSession s p (fieldOf F.SEC_SESS_CTL_SLOT v)) fun e => { e with shakes := SMap.erase e.shakes p }) F.SEC_SESS_STATUS_RESULT (getBits w 3 0) p

/-- CONF_WRITE (R398). A write that leaves CONF as it is changes nothing but CFG_ERR's W1C bit. -/
def execConfWrite (f : Func) (p : Nat) (v : Word) (s : State) : Ans :=
  finish (if !isPriv s f || decide (8 ≤ p) then s
    else
      let was := fg s F.SEC_PART_CTL_CONF p
      let now := fieldOf F.SEC_PART_CTL_CONF v
      let s1 := fs (writeReg s .secPartCtl v (-1) p) F.SEC_PART_CTL_CONF was p
      if now = was then s1
      else if !partHeld s p || fb s F.SEAM_CTL_EN p || confChanging s p || (now == 1 && allZero (tenantKey s p)) then fs s1 F.SEC_PART_CTL_CFG_ERR 1 p
      else
        let s := dropShake (fs (fs s1 F.SEC_PART_CTL_CONF now p) F.SEC_PART_CTL_STATE (if now = 1 then 1 else 3) p) p
        if now = 0 then s
        else
          let (k, s) := drawBytes s 64
          showCrypt (updKe s fun e => { e with memKeys := SMap.set e.memKeys p k }))

/-- The partition's Tier 1 and Tier 2 ranges are zero. -/
def zeroTiers (s : State) (p : Nat) : State :=
  (sectionsOf s p).foldl (fun s k =>
    zeroBytes (zeroBytes (zeroBytes s (keyT1 k 0) (stackBytes s)) (keyT2 (2 * k) 0) positionBytes) (keyT2 (2 * k + 1) 0) positionBytes) s

/-- CONF_CHANGE_COMPLETE (R398). -/
def execConfChangeComplete (p : Nat) (s : State) : Ans :=
  finish (if !confChanging s p then s
    else if fg s F.SEC_PART_CTL_STATE p = 1 then fs (zeroTiers s p) F.SEC_PART_CTL_STATE 2 p
    else
      let s := updKe (zeroTiers s p) fun e => { e with memKeys := SMap.erase e.memKeys p }
      let s := (List.range 64).foldl (fun s k => endSession s p k) s
      showCrypt (fs s F.SEC_PART_CTL_STATE 0 p))

/-! ### Sessions (R401 to R404) -/

/-- A hello of partition p to a peer (Table 16.8): its session ID, ephemeral public key and nonce. -/
def helloBytes (s : State) (p peer id : Nat) (pub nonce : List Byte) : List Byte :=
  let w0 := 7 * 2 ^ 60 + (confOn s p).toNat * 2 ^ 58 + (devId s p).getD 0 * 2 ^ 40 + partEpoch s p * 2 ^ 32 + id * 2 ^ 16
  let m := bytesOf 8 w0 ++ bytesOf 8 peer ++ bytesOf 8 (mer s) ++ bytesOf 8 0 ++ pub ++ nonce ++ pakPub s p ++ tenantKey s p
  m ++ fit 64 (Config.edSign (pak s p).1 m)

/-- A session ID that no slot of partition p has: which one the sender chooses is not stated, and a free value picks it. -/
def newSessionId (s : State) (p : Nat) : Nat × State :=
  let (w, s) := drawFree s
  let own := ((List.range 64).filter fun k => fg s F.SEC_SLOT_STATE p k != 0).map fun k => fg s F.SEC_SLOT_SESSION_ID p k
  let c := ((List.range 65).map fun i => (w.toNat + i) % 65536).find? fun i => !own.contains i
  (c.getD 0, s)

/-- RESULT of a handshake whose buffer cannot be reached: the spec has no code for it, a free value. -/
def shakeFree (s : State) (p : Nat) : State :=
  let (w, s) := drawFree s
  fs s F.SEC_SESS_STATUS_RESULT (getBits w 3 0) p

/-- OPEN (R401): an ephemeral pair is made and the local hello is written, for a module peer with the chain after it. -/
def sessOpen (s : State) (p : Nat) (v ga : Word) : State :=
  let k := fieldOf F.SEC_SESS_CTL_SLOT v
  let tenant := fieldOf F.SEC_SESS_CTL_TENANT v
  let peer := fieldOf F.SEC_SESS_CTL_PEER_ID v
  if !confOn s p || decide (fg s F.SEC_SLOT_STATE p k ≠ 0) then fs s F.SEC_SESS_STATUS_RESULT 9 p
  else
    let (eph, s) := drawBytes s 32
    let (nonce, s) := drawBytes s 32
    let (id, s) := newSessionId s p
    let h := helloBytes s p peer id (fit 32 (Config.x25519 eph [])) nonce
    let ((st, _), s) := pfWrite s ga (if tenant = 1 then h else h ++ chainBytes s p)
    if st ≠ stOK then shakeFree s p
    else
      let s := setSession s p k { Session.fresh with eph := eph, hello := h }
      let s := fs (fs (fs (fs s F.SEC_SLOT_STATE 1 p k) F.SEC_SLOT_TENANT tenant p k) F.SEC_SLOT_PEER_ID peer p k) F.SEC_SLOT_SESSION_ID id p k
      fs s F.SEC_SESS_STATUS_RESULT 2 p

/-- The first check of Table 16.9 that a peer's hello fails; 0 when it passes. `buf` holds the hello and, for a module peer, the chain. -/
def helloCheck (s : State) (p k : Nat) (buf z : List Byte) : Nat :=
  let w := wordAt buf
  let tenant := fb s F.SEC_SLOT_TENANT p k
  let signer := slice buf 96 32
  let pakLen := ofBytes (slice buf 224 2)
  let dikLen := ofBytes (slice buf 226 2)
  let pc := slice buf 288 pakLen
  let dc := slice buf (288 + pakLen) dikLen
  let t := (w 2).toNat
  if getBits (w 0) 63 60 ≠ 7 ∨ getBits (w 0) 15 0 ≠ 0 ∨ getBits (w 1) 63 18 ≠ 0 ∨ w 3 ≠ 0 ∨ allZero z = true then 3
  else if getBits (w 1) 17 0 ≠ (devId s p).getD 0 ∨ getBits (w 0) 57 40 ≠ fg s F.SEC_SLOT_PEER_ID p k then 4
  else if !Config.edVerify signer (slice buf 0 160) (slice buf 160 64) then 5
  else if tenant then (if signer = tenantKey s p then 0 else 6)
  else if !Config.certRooted dc || !Config.certIssued pc dc || fit 32 (Config.certKey pc) != signer then 6
  else if getBits (w 0) 58 58 = 0 ∨ slice buf 128 32 ≠ tenantKey s p then 7
  else if t + 10000000000 < mer s ∨ mer s + 10000000000 < t then 8
  else 0

/-- The keys of a session (R402), from the X25519 result and the two hellos. -/
def sessionKeys (x : Session) (z peer : List Byte) : Session :=
  let lo := decide (ofBytes (slice x.hello 32 32) < ofBytes (slice peer 32 32))
  let a := if lo then x.hello else peer
  let b := if lo then peer else x.hello
  let okm := fit 72 (Config.hkdf z (slice a 64 32 ++ slice b 64 32) (ascii "NRX-SESS-1" ++ fit 64 (Config.sha512 (a ++ b))) 72)
  let up := slice okm 0 32
  let down := slice okm 32 32
  let su := slice okm 64 4
  let sd := slice okm 68 4
  { x with keyTx := if lo then up else down, keyRx := if lo then down else up, saltTx := if lo then su else sd, saltRx := if lo then sd else su, eph := [] }

/-- Older ACTIVE sessions of partition p with the peer of slot k are RETIRING (R404). -/
def retireOlder (s : State) (p k : Nat) : State :=
  (List.range 64).foldl (fun s j =>
    if j ≠ k ∧ fg s F.SEC_SLOT_STATE p j = 2 ∧ fg s F.SEC_SLOT_TENANT p j = fg s F.SEC_SLOT_TENANT p k ∧
       fg s F.SEC_SLOT_PEER_ID p j = fg s F.SEC_SLOT_PEER_ID p k then fs s F.SEC_SLOT_STATE 3 p j else s) s

/-- COMPLETE (R401, R402): the peer's hello is checked and the keys are derived. Answers whether the operation has ended. A hello that fails leaves the slot OPENED (DESIGN CHOICE). -/
def sessFinish (s : State) (p : Nat) (v ga : Word) : Bool × State :=
  let k := fieldOf F.SEC_SESS_CTL_SLOT v
  if !confOn s p || decide (fg s F.SEC_SLOT_STATE p k ≠ 1) then (true, fs s F.SEC_SESS_STATUS_RESULT 9 p)
  else
    match pfRead s (ga + 2048) 2048 with
    | (.wait, s) => (false, s)
    | (.refused _ _, s) => (true, shakeFree s p)
    | (.data buf, s) =>
      let x := session s p k
      let z := fit 32 (Config.x25519 x.eph (slice buf 32 32))
      let r := helloCheck s p k buf z
      if r ≠ 0 then (true, fs s F.SEC_SESS_STATUS_RESULT r p)
      else
        let w0 := wordAt buf 0
        let s := setSession s p k { sessionKeys x z (slice buf 0 224) with peer := getBits w0 31 16, since := mer s }
        let s := retireOlder (fs (fs s F.SEC_SLOT_STATE 2 p k) F.SEC_SLOT_PEER_EPOCH (getBits w0 39 32) p k) p k
        (true, fs s F.SEC_SESS_STATUS_RESULT 2 p)

/-- A handshake operation of partition p in progress goes on. -/
def shakePump (s : State) (p : Nat) : State :=
  match SMap.find s.ke.shakes p with
  | none => s
  | some (v, ga) =>
    match sessFinish s p v ga with
    | (true, s) => updKe s fun e => { e with shakes := SMap.erase e.shakes p }
    | (false, s) => s

/-- A write to SEC_SESS_CTL (R401, R404, R407). A reserved OP does nothing. -/
def sessCtlWrite (s : State) (f : Func) (p : Nat) (v : Word) : State :=
  let op := fieldOf F.SEC_SESS_CTL_OP v
  let k := fieldOf F.SEC_SESS_CTL_SLOT v
  if !isPriv s f || decide (8 ≤ p) || decide (fieldOf F.SEC_SESS_CTL_GO v = 0) then s
  else
    let s := shakePump s p
    if (SMap.find s.ke.shakes p).isSome then fs s F.SEC_SESS_STATUS_BUSY_ERR 1 p
    else if op = 1 then sessOpen s p v (rd s .secSessAddr p)
    else if op = 2 then
      shakePump (fs (updKe s fun e => { e with shakes := SMap.set e.shakes p (v, rd s .secSessAddr p) }) F.SEC_SESS_STATUS_RESULT 1 p) p
    else if op = 3 then
      (if !confOn s p || decide (fg s F.SEC_SLOT_STATE p k = 0) then fs s F.SEC_SESS_STATUS_RESULT 9 p
       else fs (endSession s p k) F.SEC_SESS_STATUS_RESULT 2 p)
    else s

/-- SESS_OPEN (R401). -/
def execSessOpen (f : Func) (p : Nat) (v : Word) (s : State) : Ans := finish (sessCtlWrite s f p v)

/-- SESS_COMPLETE (R401, R402). -/
def execSessComplete (f : Func) (p : Nat) (v : Word) (s : State) : Ans := finish (sessCtlWrite s f p v)

/-- SESS_CLOSE (R404). -/
def execSessClose (f : Func) (p : Nat) (v : Word) (s : State) : Ans := finish (sessCtlWrite s f p v)

/-- SESS_OVERLAP_EXPIRE (R404): 10 ms after the newest session with the same peer became ACTIVE. -/
def execSessOverlapExpire (p slot : Nat) (s : State) : Ans :=
  finish (if 8 ≤ p ∨ 64 ≤ slot ∨ fg s F.SEC_SLOT_STATE p slot ≠ 3 then s
    else
      let same := (List.range 64).filter fun j => fg s F.SEC_SLOT_STATE p j == 2 && fg s F.SEC_SLOT_TENANT p j == fg s F.SEC_SLOT_TENANT p slot &&
        fg s F.SEC_SLOT_PEER_ID p j == fg s F.SEC_SLOT_PEER_ID p slot
      let s := match same with
        | j :: _ => advanceToNs s ((session s p j).since + 10000000)
        | [] => s
      endSession s p slot)

/-- SESS_COUNTER_LIMIT (R404): a counter of the session has reached 2^48. -/
def execSessCounterLimit (p slot : Nat) (s : State) : Ans :=
  let x := session s p slot
  finish (if decide (p < 8) && decide (slot < 64) && (decide (2 ^ 48 ≤ x.tx) || decide (2 ^ 48 < x.rx) || decide (2 ^ 48 < x.imported)) then endSession s p slot else s)

/-! ### Sealed transfers (R405) -/

/-- A write to SEC_SEAL_CTL (R405, R407). -/
def sealCtlWrite (s : State) (f : Func) (p : Nat) (v : Word) : State :=
  if !isPriv s f || decide (8 ≤ p) then s
  else
    let s := writeReg s .secSealCtl v (-1) p
    if fieldOf F.SEC_SEAL_CTL_GO v = 0 then s
    else if (SMap.find s.ke.seals p).isSome then fs s F.SEC_SEAL_STATUS_BUSY_ERR 1 p
    else
      fs (updKe s fun e => { e with seals := SMap.set e.seals p (v, rd s .secSealHost p, rd s .secSealLocal p) }) F.SEC_SEAL_STATUS_RESULT 1 p

/-- SEAL_IMPORT_GO (R405). -/
def execSealImportGo (f : Func) (p : Nat) (v : Word) (s : State) : Ans := finish (sealCtlWrite s f p v)

/-- SEAL_EXPORT_GO (R405). -/
def execSealExportGo (f : Func) (p : Nat) (v : Word) (s : State) : Ans := finish (sealCtlWrite s f p v)

/-- Bytes at a global address that a sealed transfer reads, if every one of them can be had. -/
def sealRead (s : State) (p : Nat) (ga : Word) (n : Nat) : Option (List Byte) × State :=
  match readGlobal s (.engine p) p ga n with
  | (.data bs [], s) => (some bs, s)
  | (_, s) => (none, s)

/-- The IV of a counter. -/
def sealIv (salt : List Byte) (ctr : Nat) : List Byte := salt ++ bytesOf 8 ctr

/-- The header of a blob. -/
def sealHeader (dir units : Nat) (addr : Word) (ctr : Nat) : List Byte :=
  fit 64 (bytesOf 8 (8 * 2 ^ 60 + dir * 2 ^ 59 + units) ++ bytesOf 8 addr.toNat ++ bytesOf 8 ctr)

/-- An import (R405): RESULT and the state. A refused import writes nothing. -/
def sealImport (s : State) (p k units : Nat) (host la : Word) : Nat × State :=
  let n := 64 * units
  match sealRead s p host (n + 128) with
  | (none, s) => (6, s)
  | (some bs, s) =>
    let x := session s p k
    let hdr := slice bs 0 64
    let ct := slice bs 64 n
    let ctr := (wordAt hdr 2).toNat
    let iv := sealIv x.saltRx ctr
    if wordAt hdr 1 ≠ la ∨ getBits (wordAt hdr 0) 18 0 ≠ units then (5, s)
    else if ctr < x.imported then (4, s)
    else if fit 16 (Config.gcmTag x.keyRx iv hdr ct) ≠ slice bs (64 + n) 16 then (3, s)
    else
      let ((st, _), s) := writeGlobal s (.engine p) p la (fit n (Config.gcmOpen x.keyRx iv hdr ct))
      if st ≠ stOK then (6, s) else (2, setSession s p k { x with imported := ctr + 1 })

/-- An export (R405): the Tier 1 range is sealed with the session's next send counter. -/
def sealExport (s : State) (p k units : Nat) (host la : Word) : Nat × State :=
  let n := 64 * units
  match sealRead s p la n with
  | (none, s) => (6, s)
  | (some bs, s) =>
    let x := session s p k
    let hdr := sealHeader 1 units la x.tx
    let iv := sealIv x.saltTx x.tx
    let ct := fit n (Config.gcmSeal x.keyTx iv hdr bs)
    let tag := fit 64 (fit 16 (Config.gcmTag x.keyTx iv hdr ct))
    let s := setSession s p k { x with tx := x.tx + 1 }
    let ((st, _), s) := writeGlobal s (.engine p) p host (hdr ++ ct ++ tag)
    (if st = stOK then 2 else 6, s)

/-- SEAL_COMPLETE (R405): the transfer ends with its RESULT, and where it is OK and POST_EN is 1 a gate is posted. UNITS outside its range, a host address that is not one, and a local range outside
Tier 1 end it with access refused (DESIGN CHOICE for UNITS). -/
def execSealComplete (p : Nat) (s : State) : Ans :=
  finish (match SMap.find s.ke.seals p with
    | none => s
    | some (v, host, la) =>
      let s := updKe s fun e => { e with seals := SMap.erase e.seals p }
      let k := fieldOf F.SEC_SEAL_CTL_SLOT v
      let units := fieldOf F.SEC_SEAL_CTL_UNITS v
      let (r, s) :=
        if !confOn s p || !fb s F.SEC_SLOT_TENANT p k || decide (fg s F.SEC_SLOT_STATE p k ≠ 2) then (7, s)
        else if units = 0 ∨ 262144 < units ∨ getBits host 63 62 ≠ 2 ∨ inTier1 s p la (64 * units) = false then (6, s)
        else if fieldOf F.SEC_SEAL_CTL_DIR v = 0 then sealImport s p k units host la
        else sealExport s p k units host la
      let s := fs s F.SEC_SEAL_STATUS_RESULT r p
      if r = 2 ∧ fieldOf F.SEC_SEAL_CTL_POST_EN v = 1 then gateAdd s p (fieldOf F.SEC_SEAL_CTL_GATE v) 1 else s)

end Sys2Proof.Machine
end

