-- ==== Sys2Proof/Machine/Clk.lean ====
section
/-! DEFINITION. The commands of clocks, Meridian time, rails, power, heat and Dormant (chapter 18). -/

namespace Sys2Proof.Machine

/-! ### References (R426 to R429) -/

/-- ON_FALLBACK shows whether a PLL runs from the fallback. -/
def showFallback (s : State) : State :=
  fs s F.CLK_REF_STATUS_ON_FALLBACK (fb s F.CLK_REF_STATUS_HOST_LOST || fb s F.CLK_REF_STATUS_FABRIC_LOST).toNat

/-- Whether a window's edge count lies within 10 % of the nominal count: 50 edges of the host reference, 78.125 of the fabric reference. -/
def windowOk (fabric : Bool) (n : Nat) : Bool := if fabric then decide (71 ≤ n) && decide (n ≤ 85) else decide (45 ≤ n) && decide (n ≤ 55)

/-- The host reference is lost (Table 18.2): the link goes down. -/
def loseHost (s : State) : State :=
  let s := fs (finc (fs s F.CLK_REF_STATUS_HOST_LOST 1) F.CLK_REF_STATUS_HOST_LOSSES) F.CLK_REF_STATUS_HOST_EVT 1
  linkDown (emit (showFallback s) (blankRec s 0x15 1 0))

/-- The fabric reference is lost (Table 18.2): ports are HELD and Meridian is in holdover; admission pauses from the closing boundary. -/
def loseFabric (s : State) : State :=
  let s := fs (finc (fs s F.CLK_REF_STATUS_FABRIC_LOST 1) F.CLK_REF_STATUS_FABRIC_LOSSES) F.CLK_REF_STATUS_FABRIC_EVT 1
  let s := updOm s fun o => { o with refs := { o.refs with resume := none } }
  timeState (strand (holdAllPorts (emit (showFallback s) (blankRec s 0x15 2 0)))) 3

/-- The fabric reference returns (R429): admission resumes at the first boundary at least 1 ms later, and Meridian waits for beacons. -/
def regainFabric (s : State) : State :=
  let s := showFallback (fs s F.CLK_REF_STATUS_FABRIC_LOST 0)
  let s := updOm s fun o => { o with refs := { o.refs with resume := some (mer s + 1000000) } }
  timeState s (if s.sync.good = 0 then 0 else 2)

/-- Windows of 0.5 µs in 1 ms. -/
def returnWindows : Nat := 2000

/-- REF_MONITOR_WINDOW (R427): a second failing window in a row loses a reference, and 1 ms of passing windows returns it. -/
def execRefMonitorWindow (host fabric : Nat) (s : State) : Ans :=
  finish (if !s.om.powered then s
    else
      let h := windowOk false host
      let g := windowOk true fabric
      let r := s.om.refs
      let s := updOm s fun o => { o with refs := { o.refs with
        hostBad := if h then 0 else r.hostBad + 1, fabBad := if g then 0 else r.fabBad + 1,
        hostGood := if h then r.hostGood + 1 else 0, fabGood := if g then r.fabGood + 1 else 0 } }
      let hl := fb s F.CLK_REF_STATUS_HOST_LOST
      let gl := fb s F.CLK_REF_STATUS_FABRIC_LOST
      let s := if !hl && !h && decide (1 ≤ r.hostBad) then loseHost s
        else if hl && h && decide (returnWindows ≤ r.hostGood + 1) then showFallback (fs s F.CLK_REF_STATUS_HOST_LOST 0)
        else s
      if !gl && !g && decide (1 ≤ r.fabBad) then loseFabric s
      else if gl && g && decide (returnWindows ≤ r.fabGood + 1) then regainFabric s
      else s)

/-- FALLBACK_TRIM (R426): while the fabric reference is there. -/
def execFallbackTrim (ppm : BitVec 16) (s : State) : Ans :=
  finish (if fb s F.CLK_REF_STATUS_FABRIC_LOST || !s.om.powered then s else fs s F.CLK_REF_STATUS_FALLBACK_PPM ppm.toNat)

/-- CLK_TIME_SET_WRITE (R435): the Tick schedule moves with the time. -/
def execClkTimeSetWrite (f : Func) (v : Word) (s : State) : Ans :=
  finish (if !isPriv s f then s
    else if fg s F.CLK_TIME_STATUS_STATE = 0 ∧ fb s F.TGE_ADMIT_CTL_EN = false then reanchor (setMer s v.toNat)
    else fs s F.CLK_TIME_STATUS_CFG_ERR 1)

/-! ### Rails (R436) -/

/-- Nominal value of a rail in mV, and the half-widths of its warning and fault windows in tenths of a mV (Table 18.5). -/
def railSpec (r : Nat) : Nat × Nat × Nat :=
  if r ≤ 4 then (750, 225, 450) else if r ≤ 8 then (800, 240, 480) else if r = 9 then (1100, 330, 550)
  else if r = 10 then (1050, 315, 525) else if r = 11 then (900, 270, 540) else (1800, 540, 1080)

/-- Whether a rail lies within its warning window, and within its fault window. -/
def railOk (r mv : Nat) : Bool × Bool :=
  if r = 0 then (decide (42000 ≤ mv) && decide (mv ≤ 58000), decide (40000 ≤ mv) && decide (mv ≤ 60000))
  else
    let (n, w, f) := railSpec r
    let within := fun d => decide (10 * n ≤ 10 * mv + d) && decide (10 * mv ≤ 10 * n + d)
    (within w, within f)

/-- The rails are down (R451): nothing runs, and the host link is down. Flash and fuses keep what they hold; writes in progress are lost. -/
def powerDown (s : State) : State :=
  if !s.om.powered then s
  else
    let om := { (s.om.rebooted none) with powered := false, pend := [], errLog := [], dynAddr := none }
    let s := resetModule (linkDown s) om
    showBusy (fs (fs (fs s F.PSTORE_BOOT_PHASE 0) F.PSTORE_BOOT_RESULT 0) F.PSTORE_BOOT_HALT_CODE 0)

/-- Set a bit of CLK_RAIL_STATUS. -/
def railBit (s : State) (f : Fld) (r : Nat) : State := fs s f (Nat.lor (fg s f) (2 ^ r))

/-- RAIL_EXCURSION (R436): a warning is recorded; a fault takes the action of Table 18.5, with its record written after the reset. -/
def execRailExcursion (rail mv : Nat) (s : State) : Ans :=
  finish (if !s.om.powered || decide (12 < rail) then s
    else
      let s := updOm s fun o => { o with sensors := SMap.set o.sensors (14 + rail) mv }
      let (warn, fault) := railOk rail mv
      let r := { blankRec s 0x16 rail 0 with aux := BitVec.ofNat 64 mv }
      if warn then s
      else if fault then emit (railBit s F.CLK_RAIL_STATUS_WARN rail) r
      else
        let s := railBit s F.CLK_RAIL_STATUS_FAULT rail
        let r := { r with action := 4 }
        if rail = 0 then emit (powerDown (settle s s.clk.cyc)) r
        else uncontrolledReset (settle s s.clk.cyc) 3 [r])

/-! ### Power (R437) -/

/-- LIMIT_MW in force: at most the limit of the grade (Table 0.1, R445). -/
def limitMw (s : State) : Nat := min (fg s F.CLK_PWR_CTL_LIMIT_MW) (gradeLimitMw s)

/-- target (R437, R439) as one exact fraction, numerator and denominator: the least of the limit, the cap where it is not 0, and THERM_MW, over the
denominator of THERM_MW. -/
def targetFrac (s : State) : Nat × Nat :=
  let t := fg s F.CLK_THERM_STATUS_HOTTEST_C
  let th := fg s F.CLK_THERM_CTL_THROTTLE_C
  let cap := fg s F.CLK_PWR_CAP_CAP_MW
  let most := if cap = 0 then limitMw s else min (limitMw s) cap
  if t ≤ th then (most, 1) else (min (most * (105 - th)) (limitMw s * (105 - t)), 105 - th)

/-- TARGET_MW (R437): the target in whole mW, which is what the register holds. -/
def targetMw (s : State) : Nat := (targetFrac s).1 / (targetFrac s).2

/-- The budget of R437, as one fraction that is rounded down once: tile + out × (target × (100 − margin) − 100 × in) ÷ (100 × in); a negative result
is 0. -/
def budgetMw (target : Nat × Nat) (margin inMw outMw tileMw : Nat) : Nat :=
  ((tileMw : Int) + ((outMw : Int) * ((target.1 : Int) * (100 - (margin : Int)) - 100 * (target.2 : Int) * (inMw : Int))) /
    (100 * (target.2 : Int) * (inMw : Int))).toNat

/-- POWER_POLICY_UPDATE (R437). Where the measured input or output is 0 the formula divides by 0, and the budget is a free value. -/
def execPowerPolicyUpdate (inMw outMw tileMw : Nat) (s : State) : Ans :=
  finish (if !overmanRuns s || s.om.boot.isSome || cycling s then s
    else
      let s := updOm s fun o => { o with sensors := SMap.set o.sensors 1 inMw }
      let s := fs (fs (fs s F.CLK_PWR_STATUS_INPUT_MW inMw) F.CLK_PWR_MEAS_OUTPUT_MW outMw) F.CLK_PWR_MEAS_TILE_MW tileMw
      if !fb s F.CLK_PWR_CTL_POLICY_EN then fs s F.TGE_ENERGY_BUDGET_BUDGET_MW (2 ^ 32 - 1)
      else
        let t := targetFrac s
        let s := fs s F.CLK_PWR_STATUS_TARGET_MW (targetMw s)
        if inMw = 0 ∨ outMw = 0 then
          let (w, s) := drawFree s
          fs s F.TGE_ENERGY_BUDGET_BUDGET_MW (getBits w 31 0)
        else fs s F.TGE_ENERGY_BUDGET_BUDGET_MW (min (2 ^ 32 - 1) (budgetMw t (min 20 (fg s F.CLK_PWR_CTL_MARGIN_PCT)) inMw outMw tileMw)))

/-! ### Dormant (R441 to R443) -/

/-- A Prospector test in progress stops and is to be repeated (Table 18.7): a nominated tile is nominated again, and a scheduled one is the next of its die. -/
def stopTests (s : State) : State :=
  (List.range 4).foldl (fun s d =>
    let x := patrol s d
    match x.test with
    | none => s
    | some (n, _) =>
      let s := endTest s d
      let x' := patrol s d
      if x.lastNom then
        let l := (n, mer s) :: x'.noms
        fs (setPatrol s d { x' with noms := l }) F.GUARD_PROSPECT_DIE_QUEUED (min 4 l.length) d
      else fs (setPatrol s d { x' with due := some (mer s) }) F.GUARD_PROSPECT_DIE_POSITION (n % 288) d) s

/-- Dormant is asked for (R441): STATE 1, and admission pauses. A thermal request outranks another (Table 18.10). -/
def askDormant (s : State) (cause : Nat) : State :=
  let st := fg s F.CLK_DORMANT_STATUS_STATE
  if st = 1 ∨ st = 2 then (if cause = 1 then fs s F.CLK_DORMANT_STATUS_CAUSE 1 else s)
  else if st = 3 ∧ cause = 0 then s
  else
    let s := stopTests (fs (fs s F.CLK_DORMANT_STATUS_STATE 1) F.CLK_DORMANT_STATUS_CAUSE cause)
    updTge s fun x => { x with admitOn := false }

/-- Whether T lies at or below RESUME_C. -/
def cool (s : State) : Bool := decide (fg s F.CLK_THERM_STATUS_HOTTEST_C ≤ fg s F.CLK_THERM_CTL_RESUME_C)

/-- An exit is asked for (Table 18.8): wake, or EXIT_ERR. Answers whether it is refused. A module that is not Dormant has nothing to leave. -/
def askWake (s : State) : Bool × State :=
  if fg s F.CLK_DORMANT_STATUS_STATE ≠ 2 then (false, s)
  else if cool s then (false, startWake s)
  else (true, fs s F.CLK_DORMANT_STATUS_EXIT_ERR 1)

/-- DORMANT_ENTER (R441). -/
def execDormantEnter (f : Func) (v : Word) (s : State) : Ans :=
  finish (if isPriv s f && decide (fieldOf F.CLK_DORMANT_CTL_ENTER v = 1) then askDormant s 0 else s)

/-- Whether accepted work has ended (Table 18.7, orders 2 and 3). -/
def workDone (s : State) : Bool :=
  s.tasks.isEmpty && s.seam.queue.isEmpty && s.seam.jobs.isEmpty && s.seam.moves.isEmpty && s.dmas.all (fun x => x.2.isEmpty) && s.xp.ops.isEmpty && s.memc.repairs.isEmpty

/-- Ports enter STANDBY; a width restoration lapses (R292). -/
def standbyPorts (s : State) : State :=
  (List.range 32).foldl (fun s n =>
    if portState s n = portActive ∨ portState s n = lPause then
      setPort (updLink s n fun k => { k with proposal := none }) n lStandby
    else s) s

/-- DORMANT_ENTRY_COMPLETE (R441, R442). -/
def execDormantEntryComplete (s : State) : Ans :=
  finish (if fg s F.CLK_DORMANT_STATUS_STATE ≠ 1 ∨ workDone s = false then s
    else
      let s := finc (fs (strand (standbyPorts s)) F.CLK_DORMANT_STATUS_STATE 2) F.CLK_DORMANT_STATUS_ENTRIES
      if fg s F.CLK_TIME_STATUS_STATE = 3 then s else timeState s 2)

/-- DORMANT_EXIT (R443). -/
def execDormantExit (f : Func) (v : Word) (s : State) : Ans :=
  finish (if isPriv s f && decide (fieldOf F.CLK_DORMANT_CTL_EXIT v = 1) then (askWake s).2 else s)

/-- WAKE_COMPLETE (R443, Table 18.9): ports retrain, tile stores are zero, and the tile image is broadcast, unless it exceeds a reserve (R418). -/
def execWakeComplete (us : BitVec 16) (s : State) : Ans :=
  finish (if fg s F.CLK_DORMANT_STATUS_STATE ≠ 3 then s
    else
      let s := (List.range 32).foldl (fun s n => if portState s n = lStandby then enterRetrain s n 0 else s) s
      let s := reloadTiles (zeroBytes s (keyTile 0 0) (1152 * 2 ^ 21))
      let s := if imageFits s then finishCasts (broadcastImage s) else s
      let s := fs (fs (fs s F.CLK_DORMANT_STATUS_STATE 0) F.CLK_DORMANT_STATUS_LAST_WAKE_US us.toNat) F.CLK_THERM_STATUS_HALT 0
      updTge s fun x => { x with halted := false })

/-! ### Heat (R439, R440) -/

/-- The hottest of a list with its index, the first where several are equal. -/
def hottest (l : List Nat) : Nat × Nat := l.zipIdx.foldl (fun m x => if m.1 < x.1 then x else m) (0, 0)

/-- A THERMAL record: sensors 0 to 63 are junctions, 64 + k stands for stack k (DESIGN CHOICE). -/
def thermRecord (s : State) (sensor t action : Nat) : Rec := { blankRec s 0x17 sensor action with aux := BitVec.ofNat 64 t }

/-- The samples show in the registers and in the PLDM sensors (R454); a stack at 85 °C or more doubles its refresh (Table 10.1). -/
def showTemps (s : State) (junctions hbm : List Nat) : State :=
  let (t, k) := hottest junctions
  let s := fs (fs s F.CLK_THERM_STATUS_HOTTEST_C (min 255 t)) F.CLK_THERM_STATUS_SENSOR k
  let s := (List.range 4).foldl (fun s d =>
    updOm s fun o => { o with sensors := SMap.set o.sensors (2 + d) (hottest ((junctions.drop (16 * d)).take 16)).1 }) s
  (hbm.take 8).zipIdx.foldl (fun s (x, k) =>
    let s := updOm s fun o => { o with sensors := SMap.set o.sensors (6 + k) x }
    fs (fs s F.MEM_DEV_STATUS_TEMP (min 255 x) 0 k) F.MEM_DEV_STATUS_REF_RATE (if 85 ≤ x then 1 else 0) 0 k) s

/-- THERMAL_SAMPLE (R439, R440, R443): derate, halt into Dormant, wake, and the request for power removal. -/
def execThermalSample (junctions hbm : List Nat) (s : State) : Ans :=
  finish (if halted s then s
    else
      let s := showTemps s junctions hbm
      let (t, k) := hottest junctions
      let (ts, ks) := hottest (hbm.take 8)
      let warm := decide (fg s F.CLK_THERM_CTL_THROTTLE_C < t)
      let s := if warm && !fb s F.CLK_THERM_STATUS_DERATE then emit s (thermRecord s k t 0) else s
      let s := fs s F.CLK_THERM_STATUS_DERATE warm.toNat
      let hot := decide (105 ≤ t) || decide (100 ≤ ts)
      let st := fg s F.CLK_DORMANT_STATUS_STATE
      let thermal := fb s F.CLK_DORMANT_STATUS_CAUSE
      if inDeviceReset s then s
      else if hot && !fb s F.CLK_THERM_STATUS_HALT then
        let s := emit s (if 105 ≤ t then thermRecord s k t 0 else thermRecord s (64 + ks) ts 0)
        askDormant (updTge (fs s F.CLK_THERM_STATUS_HALT 1) fun x => { x with halted := true }) 1
      else if st = 2 ∧ thermal = true ∧ 115 ≤ t then
        (if s.om.power.any (·.off) then s
         else
           let r := thermRecord s k t 5
           updOm (noteError (emit s r) r) fun o => { o with power := some { off := true, reset := false, at_ := mer s, pulses := 0 } })
      else if st = 2 ∧ thermal = true ∧ cool s = true then startWake s
      else s)

end Sys2Proof.Machine
end

