-- ==== Sys2Proof/Machine/Launch.lean ====
section
/-! DEFINITION. The launch of a task (R87 to R89, R131 to R133, R342) and its end (R46). -/

namespace Sys2Proof.Machine

/-! ### The image -/

/-- Whether an image header keeps to Table 4.1 (R88, step 2). -/
def imageOk (ws : List Word) (imageBytes : Nat) : Bool :=
  let ent := fun (e : Nat) => decide (e % 4 = 0) && decide (128 ≤ e) && decide (e < db ws 2 63 32)
  decide (db ws 0 63 32 = 0x584F5231) && decide (db ws 0 31 16 = 1) &&
  !anyBits ws ([(0, 15, 0), (2, 31, 0)] ++ (rangeFrom 4 12).map fun k => (k, 63, 0)) &&
  ent (db ws 1 63 32) && ent (db ws 1 31 0) && decide (db ws 2 63 32 ≤ imageBytes)

/-- The global address of the first line of n bytes at ga that holds an uncorrectable word (R88). -/
def badLine (s : State) (p : Nat) (ga : Word) (n : Nat) : Nat :=
  let a := ga.toNat / 64 * 64
  (((List.range (n / 64 + 2)).map fun k => a + 64 * k).find? fun x =>
    match readGlobal s (.engine p) p (BitVec.ofNat 64 x) 64 with
    | (.data _ bad, _) => !bad.isEmpty
    | _ => false).getD a

/-! ### The sentinel block (R339 to R342) -/

/-- Whether FP32 bits are finite. -/
def f32Finite (x : Nat) : Bool := decide (x / 2 ^ 23 % 256 ≠ 255)

/-- Whether the value of FP32 bits x exceeds that of y. -/
def f32Above (x y : Nat) : Bool := Num.lt false (f32 (BitVec.ofNat 32 y)) (f32 (BitVec.ofNat 32 x))

/-- Whether a declared set keeps to Table 14.2 and R342. -/
def setOk (ws : List Word) : Bool :=
  let range := bitOf (dw ws 0) 63
  let norm := bitOf (dw ws 0) 60
  let rowsum := bitOf (dw ws 0) 59
  let int := sentInt ws
  !anyBits ws ([(0, 57, 32)] ++ (rangeFrom 4 4).map fun k => (k, 63, 0)) &&
  !(int && (bitOf (dw ws 0) 62 || bitOf (dw ws 0) 61 || norm || rowsum)) &&
  (!range || (if int then decide (signed 32 (db ws 1 63 32) ≤ signed 32 (db ws 1 31 0))
    else f32Finite (db ws 1 63 32) && f32Finite (db ws 1 31 0) && !f32Above (db ws 1 63 32) (db ws 1 31 0))) &&
  (!norm || (f32Finite (db ws 2 63 32) && f32Finite (db ws 2 31 0) && !f32Above (db ws 2 63 32) (db ws 2 31 0))) &&
  (!rowsum || (f32Finite (db ws 3 63 32) && f32Finite (db ws 3 31 0) && !f32Above 0 (db ws 3 31 0)))

/-- Whether a header keeps to Table 14.1 and declares its drain set. -/
def sentHeadOk (ws : List Word) : Bool :=
  decide (db ws 0 63 60 = 3) && !anyBits ws ([(0, 59, 48), (0, 35, 0)] ++ (rangeFrom 1 7).map fun k => (k, 63, 0)) &&
  (!bitOf (dw ws 0) 39 || bitOf (dw ws 0) (40 + db ws 0 38 36))

/-- What the read of a sentinel block gives: sets and header as a task holds them, a trip reason, or that a peer's data has not arrived. -/
inductive SentBlock where
  | sets (l : List (List Word))
  | trip (reason : Nat)
  | wait
deriving DecidableEq, Repr

/-- Read the declared sets from set k on. -/
def readSets (s : State) (p : Nat) (a : Word) (hd : List Word) : List Nat → SentBlock × State
  | [] => (.sets [hd], s)
  | k :: ks =>
    if bitOf (dw hd 0) (40 + k) then
      match engineRead s p (a + BitVec.ofNat 64 (64 + 64 * k)) 64 with
      | (.wait, s) => (.wait, s)
      | (.refused _ _, s) => (.trip 6, s)
      | (.data bs, s) =>
        let ws := wordsOf 8 bs
        match readSets s p a hd ks with
        | (.sets l, s) => if setOk ws then (.sets (ws :: l), s) else (.trip 7, s)
        | r => r
    else
      match readSets s p a hd ks with
      | (.sets l, s) => (.sets ([] :: l), s)
      | r => r

/-- Read and check the sentinel block at an address; address 0 declares no set (R339). -/
def readSentinels (s : State) (p : Nat) (a : Word) : SentBlock × State :=
  if a = 0 then (.sets [], s)
  else match engineRead s p a 64 with
    | (.wait, s) => (.wait, s)
    | (.refused _ _, s) => (.trip 6, s)
    | (.data bs, s) => if sentHeadOk (wordsOf 8 bs) then readSets s p a (wordsOf 8 bs) (List.range 8) else (.trip 7, s)

/-! ### The launch -/

/-- A launch fault (R88): its record names the lowest logical tile of the region, the issue core and PC 0. -/
def launchFault (s : State) (slot : Nat) (t : Task) (cause : Nat) (aux aux2 : Word) : State :=
  faultTask s slot (tileCtx s (nth t.tiles 0 0) false { blankRec s 0x01 cause 1 with aux := aux, aux2 := aux2 })

/-- A core at schedule cycle 0 (R89). -/
def Core.atStart (pc start : Nat) : Core := { Core.idle with pc := BitVec.ofNat 64 pc, st := .run, readyAt := start }

/-- Load the image into one tile of a region (R88, R131 to R133): the reserve where a newer tile image is in use (R386), the image, and zeros over the window table. -/
def loadTile (p : Nat) (image : List Byte) (s : State) (n : Nat) : State :=
  let s := if (tile s n).lastPart = some p then s else zeroStore s n p
  let s := reloadTile s n
  let base := (tile s n).base
  let s := putBytes s (keyTile n base) image
  let s := zeroBytes s (keyTile n (base + windowTable base)) 128
  let s := fs s F.TS_STATUS_WIN_REJECT 0 n
  updTile s n fun (t : Tile) => { t with windows := [] }

/-- Set the cores of one tile at the start (R82, R89): reset state. -/
def startTile (start : Nat) (hd : List Word) (seeds : List (BitVec 32)) (s : State) (n : Nat) : State :=
  let s := setCore s ⟨n, false⟩ (Core.atStart (db hd 1 63 32) start)
  let s := setCore s ⟨n, true⟩ (Core.atStart (db hd 1 31 0) start)
  setArith s n { Arith.fresh with sr := seeds }

/-- The region of a task whose image and sentinel block have passed starts; schedule cycle 0 is the latest that R49 allows, or now where that has passed. -/
def startRegion (s : State) (slot : Nat) (t : Task) (hd : List Word) (sets : List (List Word)) : State :=
  let at_ := max s.clk.cyc t.launchAt
  let s := advanceTo (settle s at_) at_
  let seeds := (List.range 64).map fun i => Config.srSeed slot t.epoch (mer s) i
  let s := t.tiles.foldl (startTile at_ hd seeds) s
  let s := setTask s slot { t with codeEnd := db hd 2 63 32, start := at_, started := true, sets := sets }
  updNode s t.gseq t.node fun n => { n with state := .running }

/-- The launch of a task whose node is LAUNCHING: image fetch and load, header check, sentinel block, start (R88). While data of a peer has not arrived
nothing else happens, and what has arrived stays. -/
def launchChecks (s : State) (slot : Nat) (t : Task) (n : Node) : State :=
  let done := fun (s : State) => { s with mcasts := SMap.keep s.mcasts fun _ m => m.load != .launch slot }
  match engineRead s t.part (dw n.words 3) n.imageBytes with
  | (.wait, s) => s
  | (.refused st a, s1) =>
    let a := if st = stUncorrectable ∧ isRemote s (.engine t.part) t.part (dw n.words 3) = false then badLine s t.part (dw n.words 3) n.imageBytes else a
    launchFault (done s1) slot t (statusCause st) (BitVec.ofNat 64 a) 0
  | (.data bs, s1) =>
    let hd := wordsOf 16 (fit 128 bs)
    let s1 := t.tiles.foldl (loadTile t.part bs) (reloadTiles s1)
    if !imageOk hd n.imageBytes then launchFault (done s1) slot t 0x24 0 0
    else if dw hd 3 ≠ dw n.words 12 then launchFault (done s1) slot t 0x25 0 0
    else match readSentinels s1 t.part (dw n.words 10) with
      | (.wait, s2) => updXp s2 fun x => { x with arrived := s.xp.arrived }
      | (.trip w, s2) => launchFault (done s2) slot t 0x23 0 (tripWord w 0 false 0 0 0)
      | (.sets l, s2) => startRegion (done s2) slot t hd l

/-- TASK_LAUNCH (R88, R89, R133). -/
def execTaskLaunch (slot : Nat) (s : State) : Ans :=
  finish (match task? s slot with
    | none => s
    | some t =>
      match node? s t.gseq t.node with
      | some n => if n.state = .launching then launchChecks s slot t n else s
      | none => s)

/-! ### The end of a task -/

/-- The first cycle at which the results and flags of every operation that a tile's issue core has issued are there (R83). -/
def retireCycle (s : State) (n : Nat) : Nat :=
  (arith s n).due.foldl (fun m x => max m x.1) (((coreAt s ⟨n, false⟩).rdy).foldl (fun m x => max m x.2) 0)

/-- The first cycle at which a tile's part in the task end event may be over: its vector operations have retired (R83), 16 cycles have passed since its last value was
checked (R346), and its gather entries are written (R140). -/
def endCycle (s : State) (n : Nat) : Nat :=
  let t := tile s n
  (t.gatherI ++ t.gatherM).foldl (fun m (e : GEntry) => max m (e.last + 16)) (max (retireCycle s n) ((arith s n).check + 16))

/-- Whether a core has ended and nothing of it is outstanding (R46). -/
def coreDone (s : State) (c : CoreRef) : Bool :=
  let k := coreAt s c
  k.st == .ended && k.haul.isEmpty && k.cmds.isEmpty && k.gates.isEmpty

/-- Whether a tile meets the conditions of R46 and R83: both cores done, its streams, matrix unit and store engine idle and no trip pending. -/
def tileDone (s : State) (n : Nat) : Bool :=
  let a := arith s n
  coreDone s ⟨n, false⟩ && coreDone s ⟨n, true⟩ && !schedActive s n && (tile s n).stops.isEmpty &&
  a.mmas.isEmpty && a.drains.isEmpty && a.trip.isNone

/-- The task end event of a region whose conditions hold: gather entries are written, windows and channels close, the tiles are free and the task is DONE. -/
def endTask (s : State) (t : Task) : State :=
  let s := t.tiles.foldl (fun s n => flushGather (flushGather s n false) n true) s
  doneNode (freeTiles s t.tiles s.clk.cyc) t.gseq t.node

/-- TASK_END_EVENT (R46): the event happens once every condition holds before the closing boundary; otherwise nothing changes. -/
def execTaskEndEvent (slot : Nat) (s : State) : Ans :=
  finish (match task? s slot with
    | none => s
    | some t =>
      let e := t.tiles.foldl (fun m n => max m (endCycle s n)) s.clk.cyc
      if !t.started || decide (cycleAt s (closing s) ≤ e) then s
      else
        let s1 := advanceTo (settle s e) e
        match task? s1 slot with
        | some t1 => if t1.tiles.all (tileDone s1) && (node? s1 t1.gseq t1.node).any (fun n => n.state == .running) then endTask s1 t1 else s
        | none => s)

end Sys2Proof.Machine
end

