-- ==== Sys2Proof/Machine/Link.lean ====
section
/-! DEFINITION. The commands of the Ulbopin links (chapter 11): training, replay, background rounds and width restoration. -/

namespace Sys2Proof.Machine

/-- Whether a port exists and may be written by a function (R293). -/
def portWritable (s : State) (f : Func) (n : Nat) : Bool := isPriv s f && decide (n < 32) && portEnabled s n

/-- A write to PORT_LINK_CTL (Table 11.9): EN starts training or takes the port to DISABLED; RETRAIN acts on an ACTIVE port. -/
def linkCtl (s : State) (n : Nat) (v : Word) : State :=
  let was := fg s F.PORT_LINK_CTL_EN n
  let s := writeReg s .portLinkCtl v (-1) n
  let on := fg s F.PORT_LINK_CTL_EN n
  if was = 0 ∧ on = 1 then startTraining s n
  else if on = 0 then (if portState s n = lDisabled then s else enterDisabled s n)
  else if fieldOf F.PORT_LINK_CTL_RETRAIN v = 1 ∧ portState s n = portActive then enterRetrain s n 0
  else s

/-- A link command has run: operations of a partition that has no home port left complete with NO_PLANE (R299). -/
def linkEnd (s : State) : Ans := finish (strand s)

/-- PORT_EN_WRITE (R284). -/
def execPortEnWrite (f : Func) (n : Nat) (v : Word) (s : State) : Ans := linkEnd (if portWritable s f n then linkCtl s n v else s)

/-- PORT_RETRAIN_WRITE (R284). -/
def execPortRetrainWrite (f : Func) (n : Nat) (v : Word) (s : State) : Ans := linkEnd (if portWritable s f n then linkCtl s n v else s)

/-- Time moves on to a bound after the entry to the port's state. -/
def portWait (s : State) (n ns : Nat) : State := advanceToNs s ((link s n).since + ns)

/-- DETECT_DONE (R284). -/
def execDetectDone (n : Nat) (lanes : BitVec 8) (s : State) : Ans :=
  finish (if portState s n = lDetect ∧ 4 ≤ laneCount lanes.toNat then
      setPort (updLink s n fun k => { k with det := lanes.toNat }) n lEqualize
    else s)

/-- DETECT_TIMEOUT (R284): 10 ms. -/
def execDetectTimeout (n : Nat) (lanes : BitVec 8) (s : State) : Ans :=
  linkEnd (if portState s n = lDetect ∧ laneCount lanes.toNat < 4 then
      enterHeld (updLink (portWait s n 10000000) n fun k => { k with det := lanes.toNat }) n 1
    else s)

/-- EQUALIZE_DONE (R284). -/
def execEqualizeDone (n : Nat) (lanes : BitVec 8) (s : State) : Ans :=
  let m := Nat.land lanes.toNat (link s n).det
  finish (if portState s n = lEqualize ∧ 4 ≤ laneCount m then setPort (updLink s n fun k => { k with eq := m }) n lCheck else s)

/-- EQUALIZE_TIMEOUT (R284): 100 ms. -/
def execEqualizeTimeout (n : Nat) (lanes : BitVec 8) (s : State) : Ans :=
  let m := Nat.land lanes.toNat (link s n).det
  linkEnd (if portState s n ≠ lEqualize then s
    else
      let s := portWait s n 100000000
      if 4 ≤ laneCount m then setPort (updLink s n fun k => { k with eq := m }) n lCheck else enterHeld s n 5)

/-- Lanes that pass a check with a limit of errors (R285): adapted, not among those disabled, and measured within it. -/
def lanesPass (off lanes : Nat) (errs : List Nat) (limit : Nat) : Nat :=
  laneMask fun l => laneIn lanes l && !laneIn off l && (errs[l]?).any fun e => decide (e ≤ limit)

/-- A check of the adapted lanes is done (R285): the lanes that passed go to the partner in a lane report (Table 11.4). -/
def checkDone (s : State) (n : Nat) (errs : List Nat) (limit : Nat) : State :=
  let pass := lanesPass (fg s F.PORT_LINK_CTL_LANE_DISABLE n) (link s n).eq errs limit
  sendControl (updLink s n fun k => { k with passed := pass }) n 0 pass

/-- LANE_CHECK_DONE (R285). -/
def execLaneCheckDone (n : Nat) (errs : List Nat) (s : State) : Ans :=
  finish (if portState s n = lCheck then checkDone (setPort s n lConfig) n errs 10000 else s)

/-- CONFIG_DONE (R286): the lanes good at both ends choose the width. -/
def execConfigDone (n : Nat) (partner : BitVec 8) (s : State) : Ans :=
  linkEnd (if portState s n = lConfig then
      let (ok, s) := chooseWidth s n (Nat.land (link s n).passed partner.toNat)
      if ok then setPort s n lAlign else s
    else s)

/-- ALIGN_LOCK (R284). -/
def execAlignLock (n : Nat) (s : State) : Ans := finish (if portState s n = lAlign then enterActive s n else s)

/-- ALIGN_TIMEOUT (R284): 10 µs. -/
def execAlignTimeout (n : Nat) (s : State) : Ans :=
  linkEnd (if portState s n = lAlign then enterHeld (portWait s n 10000) n 3 else s)

/-- RETRAIN_DONE (R284, R285, R286): the short check, CONFIG and ALIGN. -/
def execRetrainDone (n : Nat) (errs : List Nat) (partner : BitVec 8) (lock : Bool) (s : State) : Ans :=
  linkEnd (if portState s n ≠ lRetrain then s
    else
      let s := checkDone s n errs 100
      let (ok, s) := chooseWidth s n (Nat.land (link s n).passed partner.toNat)
      if !ok then s else if lock then enterActive s n else enterHeld s n 3)

/-- LANE_LOSS (R284): a detected lane of an ACTIVE port. -/
def execLaneLoss (n lane : Nat) (s : State) : Ans :=
  linkEnd (if portState s n = portActive ∧ laneIn (link s n).det lane = true then enterRetrain s n 0 else s)

/-- REPLAY_TIMEOUT (R280). -/
def execReplayTimeout (n : Nat) (s : State) : Ans :=
  linkEnd (if portState s n ≠ portActive ∨ (link s n).held.isEmpty = true then s
    else
      let s := advanceToNs s ((link s n).ackAt + max 500 (fg s F.PORT_LINK_GLB_REPLAY_TIMEOUT_NS))
      let s := updLink s n fun k => { k with ackAt := mer s }
      let (ok, s) := replayTrigger s n
      if ok then finc s F.PORT_REPLAY_TIMEOUTS 1 n else s)

/-- Whether a port runs background rounds (R287): ACTIVE at x4, or HELD. -/
def roundsRun (s : State) (n : Nat) : Bool :=
  decide (portState s n = lHeld) || (decide (portState s n = portActive) && decide (fg s F.PORT_LINK_STATUS_WIDTH n = 4))

/-- BACKGROUND_ROUND (R287): LANE_RETRY_S after the count's start; a HELD port runs DETECT and the states that follow, but not while the fabric reference that it was held for is lost
(R429). -/
def execBackgroundRound (n : Nat) (s : State) : Ans :=
  let t := fg s F.PORT_LINK_GLB_LANE_RETRY_S
  let lost := fb s F.CLK_REF_STATUS_FABRIC_LOST && fg s F.PORT_LINK_STATUS_HELD_REASON n == 4
  finish (if !roundsRun s n || (link s n).round.isSome || t == 0 || !portEnabled s n || lost then s
    else
      let s := advanceToNs s ((link s n).count + t * 1000000000)
      let held := decide (portState s n = lHeld)
      let s := updLink s n fun k => { k with round := some !held }
      if held then startTraining s n else s)

/-- The first Tick boundary at or after a Meridian time (R29): in the schedule in force, or from an armed switch on in the schedule that it brings (R31). -/
def boundaryFrom (s : State) (t : Nat) : Nat :=
  let next := fun (from_ p : Nat) => from_ + ceilDiv (t - from_) (p * 1000) * (p * 1000)
  let b := next s.clk.tickMer (period s)
  match s.clk.switch with
  | some (at_, p) => if at_ ≤ b then next at_ p else b
  | none => b

/-- A round at x4 ends (R287, R288): its lanes that passed are adapted; with all 8 lanes good the port proposes the first boundary at least 100 µs ahead in a link control block. -/
def fourRoundEnd (s : State) (n : Nat) (pass partner : Nat) : State :=
  let good := Nat.lor (fg s F.PORT_LINK_STATUS_LANE_MAP n) (Nat.land pass partner)
  let s := updLink (fs s F.PORT_LINK_STATUS_GOOD good n) n fun k => { k with eq := Nat.lor k.eq pass, det := Nat.lor k.det pass }
  if good = 0xFF then
    let b := boundaryFrom s (mer s + 100000)
    sendControl (updLink s n fun k => { k with proposal := some (b, false) }) n 1 b
  else s

/-- BACKGROUND_ROUND_END (R287, R288): the outcome of a round at x4, or of one from HELD that has ended ACTIVE or HELD. -/
def execBackgroundRoundEnd (n : Nat) (errs : List Nat) (partner : BitVec 8) (s : State) : Ans :=
  let k := link s n
  let done := fun (four : Bool) => decide (portState s n = portActive) || (!four && decide (portState s n = lHeld))
  finish (match k.round with
    | none => s
    | some four =>
      if !done four then s
      else
        let tested := if four then 0xFF - fg s F.PORT_LINK_STATUS_LANE_MAP n else k.det
        let pass := if four then lanesPass k.disable tested errs 10000 else k.passed
        let s := fs (fs s F.PORT_LANE_TEST_PASSED pass n) F.PORT_LANE_TEST_TESTED tested n
        let s := wr s .portLaneTime (BitVec.ofNat 64 (mer s)) n
        let s := updLink s n fun k => { k with round := none, count := mer s }
        if four then fourRoundEnd s n pass partner.toNat else s)

/-- WIDTH_PROPOSAL_ACK (R288): in time when it comes before B - 10 µs. -/
def execWidthProposalAck (n : Nat) (s : State) : Ans :=
  finish (match (link s n).proposal with
    | some (b, false) => if mer s + 10000 < b then updLink s n fun k => { k with proposal := some (b, true) } else s
    | _ => s)

/-- WIDTH_PROPOSAL_LAPSE (R288). -/
def execWidthProposalLapse (n : Nat) (s : State) : Ans :=
  finish (match (link s n).proposal with
    | some (b, false) => updLink (advanceToNs s (b - 10000)) n fun k => { k with proposal := none }
    | _ => s)

/-- At boundary b, a port whose proposal for it, or for an earlier time, is acknowledged enters PAUSE (R288). -/
def pauseAt (s : State) (n b : Nat) : State :=
  match (link s n).proposal with
  | some (t, ok) =>
    if t ≤ b then
      let s := updLink s n fun k => { k with proposal := none, oldMap := fg s F.PORT_LINK_STATUS_LANE_MAP n }
      if ok && decide (portState s n = portActive) then setPort s n lPause else s
    else s
  | none => s

/-- PAUSE_DONE (R288): ACTIVE at x8, or at x4 on the former map with the failed lane not good. -/
def execPauseDone (n : Nat) (lock : Bool) (lane : Nat) (s : State) : Ans :=
  finish (if portState s n ≠ lPause then s
    else if lock then
      enterActive (finc (fs (fs s F.PORT_LINK_STATUS_WIDTH 8 n) F.PORT_LINK_STATUS_LANE_MAP 0xFF n) F.PORT_EVENTS_WIDTH_UP 1 n) n
    else
      let g := fg s F.PORT_LINK_STATUS_GOOD n
      let s := fs s F.PORT_LINK_STATUS_GOOD (if laneIn g lane then g - 2 ^ lane else g) n
      enterActive (fs s F.PORT_LINK_STATUS_LANE_MAP (link s n).oldMap n) n)

end Sys2Proof.Machine
end

