-- ==== Sys2Proof/Machine/Boundary.lean ====
section
/-! DEFINITION. The Tick boundary (R55): what happens in each of its parts, and TICK_BOUNDARY, which puts them together in the order of Table 2.17. -/

namespace Sys2Proof.Machine

/-! ### Overruns (R55, R56) -/

/-- The record of a TICK_OVERRUN at boundary b (R56): the lowest logical tile whose issue core has not reached task end, none while the task was launching. -/
def overrunRec (s : State) (slot b : Nat) (t : Task) : Rec :=
  let r := { blankRec s 0x02 0 1 with aux := BitVec.ofNat 64 b, time := b }
  let late := if t.started then t.tiles.find? fun n => (coreAt s ⟨n, false⟩).st != .ended else none
  taskCtx s slot (match late with
    | some n => tileCtx s n false r
    | none => r)

/-- Every task still LAUNCHING or RUNNING at boundary b enters RESETTING with TICK_OVERRUN. -/
def overruns (s : State) (b : Nat) : State :=
  s.tasks.foldl (fun s (slot, t) =>
    match node? s t.gseq t.node with
    | some n =>
      if n.state = .launching ∨ n.state = .running then enterResetting (emit s (overrunRec s slot b t)) slot true else s
    | none => s) s

/-! ### Period, budget and caps (R31, R50, R52) -/

/-- An armed switch whose time is boundary b takes effect (R31). -/
def switchPeriod (s : State) (b : Nat) : State :=
  match s.clk.switch with
  | some (t, p) =>
    if t ≤ b then fs (fs { s with clk := { s.clk with switch := none, origin := t } } F.TGE_TICK_CTL_PERIOD p) F.TGE_TICK_CTL_PENDING 0 else s
  | none => s

/-- The budget of the Tick that opens, in nJ, with the debt of the one that closes subtracted (R50, R52), and the partitions' caps. An unlimited budget repays
any debt; DEBT_UJ is rounded up (DESIGN CHOICE). -/
def openBudget (s : State) : State :=
  let mw := fg s F.TGE_ENERGY_BUDGET_BUDGET_MW
  let debt : Nat := if mw = 0xFFFFFFFF then 0 else (match s.tge.budget with
    | some b => (-b).toNat
    | none => 0)
  let budget : Option Int := if mw = 0xFFFFFFFF then none else some ((mw * period s : Nat) - (debt : Int))
  let caps := (List.range 8).filterMap fun p =>
    let c := fg s F.TGE_PART_ENERGY_CAP_CAP_MW p
    if c = 0 then none else some (p, ((c * period s : Nat) : Int))
  let s := updTge s fun x => { x with budget := budget, caps := caps, debt := debt }
  fs (fs s F.TGE_ENERGY_STATUS_DEBT_UJ (min (2 ^ 32 - 1) (ceilDiv debt 1000))) F.TGE_ENERGY_STATUS_ADMITTED_UJ 0

/-- TEST_UJ of each tile under test is subtracted from the module budget, before admission (R355). -/
def chargeTests (s : State) : State :=
  let n := countIf (fun (d : Nat) => (patrol s d).test.isSome) (List.range 4)
  let e : Int := (n * (1000 * ceilDiv (1718 * period s) 1000) : Nat)
  updTge s fun x => { x with budget := x.budget.map (· - e) }

/-! ### Starvation and admission (R52, R53) -/

/-- Count the Ticks in which each READY task has been passed over, and reserve those that reach STARVE_TICKS (R52). -/
def starve (s : State) : State :=
  let lim := max 1 (fg s F.TGE_ADMIT_CTL_STARVE_TICKS)
  updTge s fun x => { x with graphs := x.graphs.map fun (g : Graph) => { g with nodes := g.nodes.map fun (n : Node) =>
    if n.state = .ready then
      let k := if n.passedNow then n.passed + 1 else 0
      { n with passed := k, passedNow := false, reserved := n.reserved || decide (lim ≤ k) }
    else n } }

/-- Whether admission is on from boundary b (R53, R429, R441, R443): the time of an awaited return of the fabric reference has come. -/
def openAdmission (s : State) (b : Nat) : State :=
  let s := match s.om.refs.resume with
    | some t => if t ≤ b then updOm s fun o => { o with refs := { o.refs with resume := none } } else s
    | none => s
  let on := fb s F.TGE_ADMIT_CTL_EN && awake s && !s.tge.halted && !fb s F.CLK_REF_STATUS_FABRIC_LOST && s.om.refs.resume.isNone
  updTge s fun x => { x with admitOn := on, noFit := [], tight := [] }

/-! ### Releases (R45) -/

/-- Graphs that are finished are released at boundary b. -/
def releaseGraphs (s : State) (b : Nat) : State :=
  let s := settleGraphs s
  let s := updTge s fun x => { x with graphs := x.graphs.map fun (g : Graph) =>
    if g.finished.isSome && g.released.isNone && !g.shadow then { g with released := some b } else g }
  ((s.tge.graphs.filterMap fun g => if g.released = some b then some g.queue else none).eraseDups).foldl showCqWait s

/-! ### Congestion maps (R317) -/

/-- The record of port n in a congestion map (Table 12.8): zero for a port that is fused off. -/
def telemRecord (s : State) (n : Nat) : List Word :=
  if !portEnabled s n then [0, 0, 0, 0]
  else
    let t := (link s n).tick
    let ex := countIf (fun (e : Nat × Nat × Nat) => e.2.1 == n && decide (mer s < e.2.2)) s.xp.excl
    [BitVec.ofNat 64 t.tx, BitVec.ofNat 64 t.rx,
     BitVec.ofNat 64 (min (2 ^ 32 - 1) t.wait * 2 ^ 32 + min 65535 (ceilDiv t.queue 1024) * 2 ^ 16 + min 65535 t.replays),
     BitVec.ofNat 64 (min 65535 t.resends * 2 ^ 48 + min 65535 ex * 2 ^ 32 + min 65535 t.stale * 2 ^ 16 +
       fg s F.PORT_LINK_STATUS_WIDTH n * 16 + fg s F.PORT_LINK_STATUS_STATE n)]

/-- The congestion map of the Tick that closes at b is written while EN is 1, and the ports count from zero. -/
def telemetry (s : State) (b : Nat) : State :=
  let s :=
    if fb s F.PORT_TELEM_CTL_EN then
      let q := fg s F.PORT_TELEM_CTL_SEQ
      let head := [BitVec.ofNat 64 b, BitVec.ofNat 64 q, BitVec.ofNat 64 ((devId s 0).getD 0), 0, 0, 0, 0, 0]
      let ga := (rd s .portTelemBase).toNat + 2048 * (q % 2 ^ fg s F.PORT_TELEM_CTL_SIZE_LOG2)
      fwrap (pfWrite s (BitVec.ofNat 64 ga) (bytesOfWords (head ++ (List.range 32).flatMap (telemRecord s)))).2 F.PORT_TELEM_CTL_SEQ
    else s
  (List.range 32).foldl (fun s n => if (link s n).tick = PortTick.zero then s else updTick s n fun _ => PortTick.zero) s

/-! ### Prospector claims (R353 to R357) -/

/-- A claim decision of Table 14.8; a claim is by force or not. -/
inductive Claim where
  | skip
  | defer
  | claim (forced : Bool)
deriving DecidableEq, Repr

/-- Whether a physical tile lies in a spare column: neither retired nor serving. -/
def isSpare (s : State) (n : Nat) : Bool :=
  !(retiredCols s (tileDie n)).contains (tileCol n) && (logicalCol s (tileDie n) (tileCol n)).isNone

/-- Whether die d is space-bound (R354). -/
def spaceBound (s : State) (d : Nat) : Bool :=
  s.tge.tight.contains d || (nodesIn s .ready).any fun (_, _, n) => n.reserved && (permittedDies n).contains d

/-- Whether a tile is in RESETTING or in a held column. -/
def tileBusy (s : State) (n : Nat) : Bool :=
  ((taskOf s n).any fun (_, t) => (node? s t.gseq t.node).any fun x => x.state == .resetting) ||
  (logicalCol s (tileDie n) (tileCol n)).any fun l => (diePlace s (tileDie n)).held.contains l

/-- Table 14.8 for tile n at boundary b, deferred since t0. -/
def claimOf (s : State) (b n t0 : Nat) : Claim :=
  let d := tileDie n
  let t := tile s n
  if t.fenced || (retiredCols s d).contains (tileCol n) then .skip
  else if t.claimed then .skip
  else if tileBusy s n then .defer
  else if (patrol s d).test.isSome then .defer
  else if isSpare s n || !spaceBound s d then .claim false
  else if t0 + 60000000000 ≤ b then .claim true
  else .defer

/-- Tile n is claimed at boundary b (R355, R357). -/
def claimTile (s : State) (b n : Nat) (forced nominated : Bool) : State :=
  let d := tileDie n
  let s := updTile s n fun t => { t with claimed := true }
  let s := setPatrol s d { patrol s d with test := some (n, b), lastNom := nominated }
  let s := fs (fs s F.GUARD_PROSPECT_DIE_TESTING 1 d) F.GUARD_PROSPECT_DIE_CURRENT n d
  queueStore (if forced then finc s F.GUARD_PROSPECT_FORCE_FORCED 1 d else s) 6

/-- The patrol of die d goes on to the next position, which waits for its own due time; past position 287 a new pass starts (R353). -/
def nextPosition (s : State) (d : Nat) : State :=
  let k := fg s F.GUARD_PROSPECT_DIE_POSITION d
  let x := patrol s d
  let s := fs (fs s F.GUARD_PROSPECT_DIE_DEFERRED 0 d) F.GUARD_PROSPECT_FORCE_DEFER_S 0 d
  if k + 1 < 288 then setPatrol (fs s F.GUARD_PROSPECT_DIE_POSITION (k + 1) d) d { x with due := none }
  else
    let s := fwrap (fs s F.GUARD_PROSPECT_DIE_POSITION 0 d) F.GUARD_PROSPECT_DIE_PASSES 1 d
    setPatrol s d { x with due := none, start := x.start + (288 * patrolStep s : Nat) }

/-- The nominations of a die in turn (R356): those that are skipped leave the queue, and the first of the others is judged. Answers whether a tile was claimed. -/
def claimNominated (s : State) (b d : Nat) : List (Nat × Nat) → Bool × State
  | [] => (false, s)
  | (n, t0) :: rest =>
    let pop := fun (s : State) => fs (setPatrol s d { patrol s d with noms := rest }) F.GUARD_PROSPECT_DIE_QUEUED (min 4 rest.length) d
    match claimOf s b n t0 with
    | .skip => claimNominated (pop s) b d rest
    | .defer => (false, s)
    | .claim f => (true, claimTile (pop s) b n f true)

/-- The due tile of die d at boundary b. -/
def claimDue (s : State) (b d : Nat) : State :=
  match (patrol s d).due with
  | none => s
  | some t0 =>
    let n := 288 * d + fg s F.GUARD_PROSPECT_DIE_POSITION d
    match claimOf s b n t0 with
    | .skip => nextPosition s d
    | .defer => fs (fs s F.GUARD_PROSPECT_DIE_DEFERRED 1 d) F.GUARD_PROSPECT_FORCE_DEFER_S ((b - t0) / 1000000000) d
    | .claim f => claimTile (nextPosition s d) b n f false

/-- Tested tiles of die d whose time has come return to placement (R355), their firmware reserve reloaded (R386). -/
def returnTested (s : State) (b d : Nat) : State :=
  let x := patrol s d
  let (home, away) := x.back.partition fun e => decide (e.2 ≤ b)
  if home.isEmpty then s
  else
    let s := setPatrol (reloadTiles s) d { x with back := away }
    home.foldl (fun s e => updTile (reloadTile s e.1) e.1 fun t => { t with claimed := false }) s

/-- Claims of die d are settled (R354): a nominated tile in place of the due one, at most one between two scheduled tests. -/
def settleClaims (s : State) (b d : Nat) : State :=
  let s := returnTested s b d
  if !fb s F.GUARD_PROSPECT_CTL_EN || !awake s || inDeviceReset s then s
  else
    let x := patrol s d
    let (claimed, s) := if x.lastNom then (false, s) else claimNominated s b d x.noms
    if claimed then (if (patrol s d).due.isSome then fs s F.GUARD_PROSPECT_DIE_DEFERRED 1 d else s)
    else claimDue s b d

/-! ### The boundary -/

/-- Held columns of die d whose mapping is in force return to placement (R168). -/
def returnHeld (s : State) (d : Nat) : State :=
  let x := diePlace s d
  if x.repl.isNone then setDie s d { x with held := [] } else s

/-- The Tick's counts of the rings start again, and QUOTA and AGE_SLACK take the values written (R242, R252). -/
def openRings (s : State) : State :=
  { s with rings := SMap.mapVals s.rings fun _ (r : Ring) => { r with counts := [] },
           haulCtl := (fg s F.HAUL_CTL_QUOTA, fg s F.HAUL_CTL_AGE_SLACK),
           seam := { s.seam with moved := [] } }

/-- What happens at cycle 0 of the Tick that opens at b: overruns, switch, budget, collectives, the congestion map, width restorations, releases. -/
def boundaryZero (s : State) (b : Nat) : State :=
  let s := openBudget (switchPeriod (overruns s b) b)
  let s := collDeadline s (rd s .tgeTickNow).toNat
  let s := openRings (telemetry s b)
  let s := strand ((List.range 32).foldl (fun s n => pauseAt s n b) s)
  releaseGraphs (rejoinAdmit s b) b

/-- What happens in cycles 0 to 255: reservations, re-placements and claims, handshakes, and whether admission is on. A task passed over in its last Tick is reserved
before the claims are settled, which ask for it (R354). -/
def boundarySettle (s : State) (b : Nat) : State :=
  let s := (List.range 4).foldl (fun s d => startReplacement (returnHeld s d) d b) (starve s)
  let s := (List.range 4).foldl (fun s d => settleClaims s b d) s
  let s := (List.range 8).foldl shakePump (chargeTests s)
  openAdmission s b

/-- TICK_BOUNDARY (R29, R30, R55): time moves to the boundary that closes the Tick, TICK_NOW increments, and the core-cycle count is realigned. -/
def execTickBoundary (s : State) : Ans :=
  finish (if !s.om.powered then s
    else
      let b := closing s
      let s := advanceToNs (settle s (cycleAt s b)) b
      let s := { s with clk := { s.clk with tickMer := b, tickCyc := cycleAt s b } }
      let s := wr s .tgeTickNow (rd s .tgeTickNow + 1)
      boundarySettle (boundaryZero s b) b)

end Sys2Proof.Machine
end

