-- ==== Sys2Proof/Machine/HostRegs.lean ====
section
/-! DEFINITION. Reads and writes of registers through BAR0 (R8 to R10, R325, Table 13.3): who reaches a register, what a read shows of registers that the hardware
computes, and the writes that a register's own rule limits. -/

namespace Sys2Proof.Machine

/-! ### Who reaches a register -/

/-- The registers of which each function has its own (Table 13.3). -/
def RegName.own : RegName → Bool
  | .hostEventVec => true
  | .hostBar2Status => true
  | .hostIrqStatus => true
  | .hostMsixAddr => true
  | .hostMsixData => true
  | .hostMsixMod => true
  | .hostMsixPba => true
  | _ => false

/-- The function number of a register as a function sees it. -/
def regFn (f : Func) (r : RegName) : Nat := if r.own then fnOf f else 0

/-- Whether a function's MSI-X structures have an entry (R335); other families have every register of their range. -/
def inTable (f : Func) (r : RegName) (i _j : Nat) : Bool :=
  match r with
  | .hostMsixAddr => decide (i < tableSize (fnOf f))
  | .hostMsixData => decide (i < tableSize (fnOf f))
  | .hostMsixMod => decide (i < tableSize (fnOf f))
  | .hostMsixPba => decide (64 * i < tableSize (fnOf f))
  | _ => true

/-- The registers that the virtual function of partition p reaches (Table 13.3), by BAR0 block. -/
def vfReaches (s : State) (p : Nat) (r : RegName) (i j : Nat) : Bool :=
  let o := r.off i j
  match r with
  | .glbPart => true
  | .glbSectionActive => true
  | .tgeGateAdd => true
  | .tgeGraphCancel => true
  | .tgeTickNow => true
  | .tgeSqBase => decide (i / 16 = p)
  | .tgeSqCtl => decide (i / 16 = p)
  | .tgeSqHead => decide (i / 16 = p)
  | .tgeCqBase => decide (i / 16 = p)
  | .tgeCqCtl => decide (i / 16 = p)
  | .tgeCqTail => decide (i / 16 = p)
  | .tgeQStatus => decide (i / 16 = p)
  | .tgeGate => decide (i = p)
  | .hostDmaBase => decide (i / 8 = p)
  | .hostDmaCtl => decide (i / 8 = p)
  | .hostDmaHead => decide (i / 8 = p)
  | .hostDmaStatus => decide (i / 8 = p)
  | .guardLogBase => decide (i = 1 ∧ j = p)
  | .guardLogCtl => decide (i = 1 ∧ j = p)
  | .guardLogHead => decide (i = 1 ∧ j = p)
  | .guardLogStatus => decide (i = 1 ∧ j = p)
  | .plTileState => decide (tilePart s i = some p)
  | .tsStatus => decide (tilePart s i = some p)
  | _ =>
    r.own || (decide (i = p) && (decide (0x201000 ≤ o ∧ o < 0x300000) || decide (0x301000 ≤ o ∧ o < 0x400000) || decide (0x520000 ≤ o ∧ o < 0x600000)))

/-- Whether an offset lies in a tile window (Table 1.9). -/
def tileWindow (off : Nat) : Bool := decide (0x1000000 ≤ off) && decide (off < 0x2200000)

/-- Whether a register belongs to a unit that is not there: a ninth or later stack (Table 1.1), the controller of an unpopulated Tier 2 position (R254), a fused-off port (R293),
or the channels of a tile that serves no logical tile of a partition (R253). Such a register reads 0, and a write to it does nothing. -/
def absent (s : State) (r : RegName) (i j : Nat) : Bool :=
  let o := r.off i j
  decide (0x410800 ≤ o ∧ o < 0x411000) || (decide (0x420000 ≤ o ∧ o < 0x421000) && !t2Populated s ((o - 0x420000) / 0x100)) ||
    (decide (0x510000 ≤ o ∧ o < 0x512000) && !portEnabled s ((o - 0x510000) / 0x100)) ||
    (decide (0xA40000 ≤ o ∧ o < 0xA88000) && (tilePart s ((o - 0xA40000) / 0x100)).isNone)

/-- Whether a register is a channel register of a tile that serves another partition than the PF's own, for a read of the PF (R253, R462). -/
def chanHidden (s : State) (f : Func) (r : RegName) (i j : Nat) : Bool :=
  let o := r.off i j
  f == .pf && decide (0xA40000 ≤ o ∧ o < 0xA88000) && tilePart s ((o - 0xA40000) / 0x100) != some (pfPart s)

/-- Whether a function reaches a register. -/
def reaches (s : State) (f : Func) (r : RegName) (i j : Nat) : Bool :=
  inTable f r i j && !absent s r i j &&
  match f with
  | .vf k => (vfPart s k).any fun p => vfReaches s p r i j
  | _ => true

/-- Whether memory requests of a function are answered at all: it exists, its link is up and it is not in D3hot; the Overman's firmware uses no link. -/
def answers (s : State) (f : Func) : Bool :=
  match f with
  | .overman => s.om.powered
  | _ => s.om.powered && funcExists s f && hostUp s && !s.d3hot.contains (fnOf f)

/-! ### What a read shows -/

/-- Eight bytes packed, the first lowest. -/
def pack8 (f : Nat → Nat) : Word := BitVec.ofNat 64 ((List.range 8).foldl (fun a q => a + f q % 256 * 2 ^ (8 * q)) 0)

/-- TS_STATUS of tile n (Table 5.6). -/
def tsStatusView (s : State) (n : Nat) : Word :=
  let t := tile s n
  let opens := t.windows.foldl (fun a e => Nat.lor a (2 ^ e.1)) 0
  let run := (taskOf s n).any fun (_, t) => (node? s t.gseq t.node).any fun x => x.state.admitted
  BitVec.ofNat 64 (opens * 2 ^ 32 + fg s F.TS_STATUS_WIN_REJECT n * 2 ^ 24 + t.stops.length * 2 ^ 16 + t.gatherI.length * 2 ^ 12 +
    t.gatherM.length * 2 ^ 8 + run.toNat)

/-- PL_TILE_STATE of tile n (Table 6.8). -/
def plTileView (s : State) (n : Nat) : Word :=
  let t := tile s n
  let d := tileDie n
  let lt := logicalOf s n
  let held := (logicalCol s d (tileCol n)).any fun l => (diePlace s d).held.contains l
  let run := (taskOf s n).any fun (_, t) => (node? s t.gseq t.node).any fun x => x.state.admitted
  BitVec.ofNat 64 (lt.getD 0x7FF * 2 ^ 48 + (tilePart s n).getD 15 * 2 ^ 40 + t.fenced.toNat * 2 ^ 7 + t.passFail.toNat * 2 ^ 6 + t.fenced.toNat * 2 ^ 5 +
    ((retiredCols s d).contains (tileCol n)).toNat * 2 ^ 4 + held.toNat * 2 ^ 3 + t.claimed.toNat * 2 ^ 2 + run.toNat * 2 + lt.isSome.toNat)

/-- PSTORE_REC of a type (R422, R423). -/
def pstoreRecView (s : State) (t : Nat) : Word :=
  let x := newestSlot s t
  let ok := fun b => ((bankSlots s t b).any fun (y : StoreSlot) => y.ok).toNat
  let newest := match x with
    | some (b, _) => b
    | none => 2
  BitVec.ofNat 64 (((x.map fun y => y.2.seq).getD 0) % 2 ^ 32 * 2 ^ 32 + fg s F.PSTORE_REC_DEFAULTED (t - 1) * 2 ^ 5 +
    (s.om.pend.contains t).toNat * 2 ^ 4 + newest * 2 ^ 2 + ok 0 * 2 + ok 1)

/-- Queries queued or in progress on a die (Table 8.12). -/
def queriesOn (s : State) (d : Nat) : Nat := countIf (fun (c : SeamCmd) => c.kind == 3 && c.sid % 4 == d) s.seam.queue

/-- Streams of a partition in a state of Table 7.3. -/
def streamsIn (s : State) (p st : Nat) : Nat := countIf (fun (k : Nat) => eState (entryRaw s p k) == st) (List.range (streamCount s p))

/-- Free units of a pool that an enabled engine serves. -/
def freeOf (s : State) (p : Nat) (q : Pool) : Nat := if fb s F.SEAM_CTL_EN p then (freeUnits s p q).length else 0

/-- The value that a register holds: what the hardware computes, else the stored word. -/
def view (s : State) (r : RegName) (i j fn : Nat) : Word :=
  match r with
  | .clkMeridian => BitVec.ofNat 64 (mer s)
  | .tgeNodeStatus => BitVec.ofNat 64 (s.tge.graphs.length * 2 ^ 32 + nodesInFlight s)
  | .tsStatus => tsStatusView s i
  | .plTileState => plTileView s i
  | .haulChDepth0 => pack8 fun q => (msgQueue (tile s i) q).entries.length
  | .haulChDepth1 => pack8 fun q => (msgQueue (tile s i) (8 + q)).entries.length + (msgQueue (tile s i) (8 + q)).resv
  | .haulChGen => pack8 fun q => (msgQueue (tile s i) (8 + q)).gen
  | .seamLedger => BitVec.ofNat 64 ((sectionsOf s i).length * 2 ^ 44 + (if partExists s i then ledgerBase s i else 0))
  | .seamFree => BitVec.ofNat 64 (freeOf s i .t2 * 2 ^ 32 + freeOf s i .t1)
  | .seamStreams => BitVec.ofNat 64 (streamsIn s i sOpen * 2 ^ 40 + streamsIn s i sParked)
  | .assayDieStatus => BitVec.ofNat 64 (min 65535 (queriesOn s i) * 2 ^ 32)
  | .clkTimeStatus =>
    let w := rd s .clkTimeStatus
    if 2 ≤ fg s F.CLK_TIME_STATUS_STATE then setBits w 63 32 (min ((mer s - s.sync.hold) / 1000000) (2 ^ 32 - 1)) else w
  | .guardProspectForce =>
    let w := rd s .guardProspectForce i
    match (patrol s i).due with
    | some t => if fb s F.GUARD_PROSPECT_DIE_DEFERRED i then setBits w 31 0 ((mer s - t) / 1000000000) else w
    | none => w
  | .pstoreRec => pstoreRecView s (i + 1)
  | .secMeas => wordAt (meas s (i + 1)) j
  | .secDikPub => wordAt dikPub i
  | _ => rd s r i j fn

/-- What a read of a register shows: write-only fields read 0 (Table 0.9). -/
def shown (s : State) (r : RegName) (i j fn : Nat) : Word := view s r i j fn &&& ~~~ (r.maskOf .wo)

/-- The registers that are answered in device reset (Table 15.4) and by a halted boot (R419). -/
def shownInReset (s : State) : RegName → Bool
  | .glbPart => true
  | .guardResetStatus => true
  | .secFwStatus => halted s
  | .pstoreBoot => halted s
  | .pstoreBist => halted s
  | _ => false

/-- The register at an aligned offset, as a function may read it now. -/
def readable (s : State) (f : Func) (off : Nat) : Option (RegName × Nat × Nat) :=
  match regAt off with
  | some (r, i, j) =>
    if reaches s f r i j && !chanHidden s f r i j && (f == .overman || !inDeviceReset s || shownInReset s r) && !(tileWindow off && !awake s) then some (r, i, j) else none
  | none => none

/-- The word at an aligned offset as a function sees it. -/
def wordSeen (s : State) (f : Func) (off : Nat) : Word :=
  match readable s f off with
  | some (r, i, j) => shown s r i j (regFn f r)
  | none => 0

/-- Bytes of an access. -/
def sizeBytes : Size → Nat
  | .b1 => 1
  | .b2 => 2
  | .b4 => 4
  | .b8 => 8

/-- The mask of the half or whole register that an aligned access covers; none for a narrow or misaligned one (R9). -/
def accessMask (off : Nat) (z : Size) : Option Word :=
  match z with
  | .b8 => if off % 8 = 0 then some (BitVec.allOnes 64) else none
  | .b4 => if off % 8 = 0 then some 0xFFFFFFFF else if off % 8 = 4 then some 0xFFFFFFFF00000000 else none
  | _ => none

/-- The bytes that an access finds. -/
def bytesSeen (s : State) (f : Func) (off n : Nat) : List Byte :=
  (rangeFrom off n).map fun a => BitVec.ofNat 8 ((wordSeen s f (a / 8 * 8)).toNat / 2 ^ (8 * (a % 8)))

/-- The RC fields that a read covers are cleared. -/
def readClear (s : State) (f : Func) (off : Nat) (m : Word) : State :=
  match readable s f (off / 8 * 8) with
  | some (r, i, j) =>
    let c := r.maskOf .rc &&& m
    if c = 0 then s else wr s r (rd s r i j (regFn f r) &&& ~~~ c) i j (regFn f r)
  | none => s

/-- REGISTER_READ (R8 to R10, Table 0.9): the completion carries the bytes, and a read of a half or a whole register clears the RC fields that it covers. The value is
that before any later event, which then sets the cleared field again (Table 0.10). -/
def execRegisterRead (f : Func) (off : Nat) (size : Size) (s : State) : Ans :=
  finish (if !answers s f then s
    else
      let bs := bytesSeen s f off (sizeBytes size)
      let s' := match accessMask off size with
        | some m => readClear s f off m
        | none => s
      match f with
      | .overman => s'
      | _ => { s' with outs := s'.outs ++ [.completion (fnOf f) cplOk bs] })

/-! ### Writes -/

/-- A write to a register in the normal way. -/
def plainWrite (s : State) (f : Func) (r : RegName) (i j : Nat) (v m : Word) : State := writeReg s r v m i j (regFn f r)

/-- A field keeps its old value where the written one is not allowed. -/
def keepUnless (s0 s : State) (x : Fld) (ok : Nat → Bool) (i : Nat := 0) (j : Nat := 0) : State := if ok (fg s x i j) then s else fs s x (fg s0 x i j) i j

/-- Registers of Table 7.1's pools. -/
def RegName.isPool : RegName → Bool
  | .seamPoolT1 => true
  | .seamPoolT2 => true
  | .seamPoolMap => true
  | .seamPoolSketch => true
  | .seamHostBase => true
  | .seamHostFrames => true
  | _ => false

/-- Whether a function may write the registers without a row of their own that rules keep from virtual functions (R212, R253, R290, R319). -/
def vfMayWrite (r : RegName) : Bool := !r.isPool && r != .seamLeaseBase && r != .portDevid && r != .portCollStatus && r != .portPartHerald

/-- A vector's mask bit is written (R336): clearing it sends a pending message. -/
def msixDataWrite (s : State) (f : Func) (i : Nat) (v m : Word) : State :=
  let fn := fnOf f
  let was := fb s F.HOST_MSIX_DATA_MASK i 0 fn
  let s' := plainWrite s f .hostMsixData i 0 v m
  if was && !fb s' F.HOST_MSIX_DATA_MASK i 0 fn then unmask s' fn i else s'

/-- A ring's EN stays 0 where SIZE_LOG2 lies outside its range (R319). -/
def ringCtlWrite (s : State) (f : Func) (r : RegName) (en size : Fld) (hi : Nat) (v m : Word) : State :=
  let s' := plainWrite s f r 0 0 v m
  if 4 ≤ fg s' size ∧ fg s' size ≤ hi then s' else fs s' en 0

/-- A write to a register with no row of its own, under the rule of its register (R9 and the rule of each chapter's register table). -/
def restWrite (s : State) (f : Func) (r : RegName) (i j : Nat) (v m : Word) : State :=
  let s' := plainWrite s f r i j v m
  let vf := match f with
    | .vf _ => true
    | _ => false
  if vf && !vfMayWrite r then s
  else if r.isPool then (if fb s F.SEAM_CTL_EN i then s else s')
  else match r with
  | .tgeEnergyBudget => if f == .overman then wr s .tgeEnergyBudget (rd s .tgeEnergyBudget &&& ~~~ m ||| v &&& m &&& 0xFFFFFFFF) else s
  | .tgeSqBase => if fb s F.TGE_SQ_CTL_EN i then s else s'
  | .tgeCqBase => if fb s F.TGE_CQ_CTL_EN i then s else s'
  | .seamTierCtl2 => keepUnless s s' F.SEAM_TIER_CTL2_OVERFLOW (fun x => decide (x ≤ 1) || decide (4 ≤ x)) i
  | .hostDmaBase => if fb s F.HOST_DMA_CTL_EN i then s else s'
  | .hostMsixData => msixDataWrite s f i v m
  | .guardLogBase => if fb s F.GUARD_LOG_CTL_EN i j then s else s'
  | .guardRejoinPlan => queueStore s' 7
  | .guardRejoinAdmit => rejoinAdmitWrite s i v m
  | .secTenantKey => if fg s F.SEC_PART_CTL_STATE i = 0 then s' else s
  | .clkThermCtl =>
    keepUnless s (keepUnless s s' F.CLK_THERM_CTL_THROTTLE_C fun x => decide (x < 105)) F.CLK_THERM_CTL_RESUME_C fun x => decide (x < 105)
  | .portTelemCtl => ringCtlWrite s f r F.PORT_TELEM_CTL_EN F.PORT_TELEM_CTL_SIZE_LOG2 16 v m
  | .portSampleCtl => ringCtlWrite s f r F.PORT_SAMPLE_CTL_EN F.PORT_SAMPLE_CTL_SIZE_LOG2 20 v m
  | .tsCtl => keepUnless s s' F.TS_CTL_RESERVE (fun x => decide (1 ≤ x) && decide (x ≤ 8)) i
  | _ => s'

/-- Whether a word is 0 where the mask lies. -/
def wroteZero (v : Word) : Bool := v == 0

/-- A write to a register that has rows of its own does what they say; none for the other registers, and where the half that the row is about is not written (R9). `v` holds the
written half and, in the other, the stored RW and RWL bits. -/
def rowWrite (f : Func) (r : RegName) (i j : Nat) (v m : Word) (s : State) : Option Ans :=
  match r with
  | .glbSectionApply => some (execSectionApplyGo f v s)
  | .tgeTickSwitch => some (if wroteZero v then execTickSwitchCancel f s else execTickSwitchArm f v s)
  | .tgeTickCtl => some (execTickCtlWrite f v s)
  | .tgeSqCtl => some (execSqCtlWrite f i v s)
  | .tgeCqCtl => some (execCqCtlWrite f i v s)
  | .tgeGate => some (execGateValueWrite f i j v s)
  | .tgeGateAdd => some (execGateAdd f v s)
  | .tgeGraphCancel => some (execGraphCancel f v s)
  | .tgeAdmitCtl => some (execAdmitCtlWrite f v s)
  | .plTileState => some (execPlFenceWrite f i v s)
  | .tgePlaceCtl => some (execPlaceCtlWrite f v s)
  | .seamHqTail => some (execSeamHqTailWrite f i v s)
  | .seamHqCtl => some (execSeamHqCtlWrite f i v s)
  | .seamCtl => some (execSeamCtlWrite f i v s)
  | .seamLeaseCfg => some (execSeamLeaseCfgWrite f i j v s)
  | .seamContrailCtl => if bitOf m 63 then some (execSeamContrailCtlWrite f i v s) else none
  | .seamRemoteCfg => some (execSeamRemoteCfgWrite f i j v s)
  | .assayCtl => if bitOf m 0 then some (execAssayCtlWrite f i v s) else none
  | .portLinkCtl => some (execPortEnWrite f i v s)
  | .portDevid => some (execPortDevidWrite f i v s)
  | .portCollTable => some (execCollTableWrite f i v s)
  | .hostDmaCtl => some (execHostDmaCtlWrite f i v s)
  | .guardShadowCtl => some (execShadowGo f i v s)
  | .guardProspectNominate => some (execProspectNominate f v s)
  | .guardProspectCtl => some (execProspectCtlWrite f v s)
  | .guardLogHead => some (execLogHeadWrite f (if i = 0 then 0 else 1 + j) v s)
  | .guardLogCtl => some (execLogCtlWrite f (if i = 0 then 0 else 1 + j) v s)
  | .guardResetReq => some (execDeviceResetReq f v s)
  | .guardResetRelease => some (execResetRelease f v s)
  | .guardOverman => some (execOvermanSwitch f v s)
  | .guardRejoinCtl => some (execRejoinGo f i v s)
  | .secFwCtl => some (execFwCommit f v s)
  | .secStageCtl => some (execStageGo f v s)
  | .secAttestCtl => some (execAttestGo f v s)
  | .secPartCtl => some (execConfWrite f i v s)
  | .secSessCtl => some (execSessOpen f i v s)
  | .secSealCtl => some (execSealImportGo f i v s)
  | .pstoreXferCtl => some (execPstoreXferGo f v s)
  | .clkTimeSet => some (execClkTimeSetWrite f v s)
  | .clkDormantCtl =>
    some (if fieldOf F.CLK_DORMANT_CTL_ENTER v = 1 then execDormantEnter f v s else execDormantExit f v s)
  | _ => none

/-- Whether a write by a function reaches a register now: not in device reset (DEDUCED), nor a tile window of a Dormant module (R442). -/
def writable (s : State) (f : Func) (off : Nat) : Option (RegName × Nat × Nat) :=
  match regAt off with
  | some (r, i, j) =>
    let resetReq := r == .guardResetReq
    if reaches s f r i j && (f == .overman || !inDeviceReset s || resetReq) && !(tileWindow off && !awake s) then some (r, i, j) else none
  | none => none

/-- REGISTER_WRITE (R8, R9): an aligned write of a half or a whole register; any other is discarded. -/
def execRegisterWrite (f : Func) (off : Nat) (size : Size) (v : Word) (s : State) : Ans :=
  match answers s f, accessMask off size, writable s f (off / 8 * 8) with
  | true, some m, some (r, i, j) =>
    let v := if off % 8 = 4 then v <<< 32 else v &&& m
    let keep := rd s r i j (regFn f r) &&& (r.maskOf .rw ||| r.maskOf .rwl) &&& ~~~ m
    match rowWrite f r i j (keep ||| v) m s with
    | some a => a
    | none => finish (restWrite s f r i j v m)
  | _, _, _ => finish s

end Sys2Proof.Machine
end

