-- ==== Sys2Proof/Machine/LinkRx.lean ====
section
/-! DEFINITION. What a received link block does: correction and the checks of Table 11.3, ACK and NAK (R279, R280), and the packets that its payload completes (R297). -/

namespace Sys2Proof.Machine

/-- Count corrected symbols on the lanes of a port: `ls` names the lane of each. -/
def countSyms (s : State) (n : Nat) (ls : List Nat) : State :=
  ls.foldl (fun s l =>
    let r := if l < 4 then RegName.portLaneSym0 else .portLaneSym1
    let lo := 16 * (l % 4)
    wr s r (setBits (rd s r n) (lo + 15) lo (satAdd 16 (getBits (rd s r n) (lo + 15) lo) 1)) n) s

/-- A received header's ACK and NAK (R279, R280, R292): the ACK first; then a replay, and after it the new blocks for which there is room. -/
def takeHeader (s : State) (n : Nat) (h : BitVec 40) : State :=
  let s := takeAck s n (headAck h)
  pump (if headNak h then (replayTrigger s n).2 else s) n

/-- A packet that has travelled under a session of its target, opened with the keys of that session's receiving direction (R403): whether its tag verifies, and the packet in clear. -/
def unsealed (s : State) (pk : Packet) : Bool × Packet :=
  match if pk.enc then partOfId s pk.dst else none with
  | none => (true, pk)
  | some p =>
    match (slotsWith s p pk.src [2, 3]).find? fun k => fg s F.SEC_SLOT_SESSION_ID p k == pk.sess with
    | none => (false, pk)
    | some k => openWire (session s p k).keyRx (session s p k).saltRx pk

/-- A packet that has arrived at port n; none while it meets a row that a soft repair holds (R268). -/
def packetIn (s : State) (n : Nat) (pk : Packet) : Option State :=
  let (auth, pk) := unsealed s pk
  if packetHeld s pk (pk.op == 0x03) && (pk.op == 0x01 || pk.op == 0x03) then none
  else if pk.op = 0x01 ∨ pk.op = 0x03 ∨ pk.op = 0x08 then some (requestIn s n pk.op pk auth)
  else if isResponse pk.op then some (responseIn s n pk.op pk auth)
  else if pk.op = 0x0C then some (heraldIn s n pk (if pk.hkind = 2 then 2 else 1))
  else if pk.op = 0x0E then some (beaconIn s n pk)
  else some (receive s n pk pk.op fun s _ => s)

/-- The packets that are whole among a port's received flits are taken in order. -/
def takePackets : Nat → State → Nat → State
  | 0, s, _ => s
  | f + 1, s, n =>
    match nextPacket (link s n).rxq with
    | none => s
    | some (pk, rest) =>
      match packetIn (updLink s n fun k => { k with rxq := rest }) n pk with
      | some s => takePackets f s n
      | none => s

/-- A data block is delivered (R297): its 20 flits follow those received before; flits that no packet needs any longer are forgotten. -/
def takePayload (s : State) (n : Nat) (bs : List Byte) : State :=
  let s := updLink s n fun k => { k with rxq := k.rxq ++ cut64 20 (blockPayload bs) }
  let s := takePackets (link s n).rxq.length s n
  updLink s n fun k => { k with rxq := k.rxq.dropWhile fun f => f.all (· == 0) }

/-- A block with both codewords right (Table 11.3). -/
def takeBlock (s : State) (n : Nat) (h : BitVec 40) (bs : List Byte) : State :=
  let nak := fun (s : State) => updLink s n fun k => { k with nak := true }
  if !crcRight h bs || headType h == 3 then nak (finc s F.PORT_REPLAY_CRC_FAIL 1 n)
  else if headType h = 1 then takeHeader s n h
  else if headSeq h = (link s n).rxSeq then
    let s := takeHeader (updLink s n fun k => { k with rxSeq := (k.rxSeq + 1) % 1024, nak := false }) n h
    if headType h = 0 then takePayload s n bs else s
  else nak (takeHeader s n h)

/-- LINK_BLOCK_RX (R279, Table 11.3): codewords with at most 15 wrong symbols are corrected and counted by lane; the next header says what came of the block. What a link control block says
comes with the commands of CONFIG and of width proposals. -/
def execLinkBlockRx (n : Nat) (b : LinkBlock) (s : State) : Ans :=
  linkEnd (if portState s n ≠ portActive then s
    else
      let fixed := b.wrong.filter fun w => decide (0 < w.length) && decide (w.length ≤ fecLimit)
      let bad := countIf (fun (w : List Nat) => decide (fecLimit < w.length)) b.wrong
      let s := finc s F.PORT_FEC_COUNT_CW_CORRECTED fixed.length n
      let s := countSyms s n (fixed.flatten.map (symbolLane (fg s F.PORT_LINK_STATUS_LANE_MAP n)))
      let s := finc s F.PORT_FEC_COUNT_CW_UNCORR bad n
      idleBlock (if bad ≠ 0 then updLink s n fun k => { k with nak := true } else takeBlock s n b.head b.payload) n)

end Sys2Proof.Machine
end

