-- ==== Sys2Proof/Machine/Vector.lean ====
section
/-! DEFINITION. Vector instructions (R107 to R110) and SNCHK (R123). -/

namespace Sys2Proof.Machine

/-- The n elements of w bits from element lo on of a wide register (R63). -/
def elems (w n lo : Nat) (v : BitVec 2048) : List Nat := (List.range n).map fun i => v.toNat / 2 ^ (w * (lo + i)) % 2 ^ w

/-- A wide register of elements of w bits. -/
def packWide (w : Nat) (es : List Nat) : BitVec 2048 := BitVec.ofNat 2048 (es.foldr (fun x acc => x % 2 ^ w + 2 ^ w * acc) 0)

/-- A wide register with elements from element lo on replaced. -/
def patchWide (w lo : Nat) (es : List Nat) (v : BitVec 2048) : BitVec 2048 :=
  packWide w (elems w lo 0 v ++ es ++ elems w (2048 / w - lo - es.length) (lo + es.length) v)

/-- The format code of a lane format (R97). -/
def tyFmt (ty : Nat) : Nat := if ty = 3 then 9 else ty

/-- Element bits of a lane format. -/
def tyBits (ty : Nat) : Nat := if ty = 1 ∨ ty = 2 then 16 else 32

/-- Elements of a lane format per wide register. -/
def tyElems (ty : Nat) : Nat := 2048 / tyBits ty

/-- The raw elements of a wide register in a lane format. -/
def tyRaw (ty : Nat) (v : BitVec 2048) : List Nat := elems (tyBits ty) (tyElems ty) 0 v

/-- RMODE_RESERVED (R64, R99). -/
def rmChecks (rm : Nat) : List (Nat × Word) := chk (decide (6 ≤ rm)) 0x05

/-- FORMAT_RESERVED (R107). -/
def fmtChecks (bad : Bool) : List (Nat × Word) := chk bad 0x06

/-- ILLEGAL_INSTR for an unlisted function (R99). -/
def fnChecks (bad : Bool) : List (Nat × Word) := chk bad 0x02

/-- Flags of a result that is due in a cycle. -/
def Arith.flag (a : Arith) (t fl : Nat) : Arith := if fl = 0 then a else { a with due := a.due ++ [(t, fl)] }

/-- A vector instruction: sources, issue interval, checks, and what it does to the core and the arithmetic state at its issue cycle. -/
def vecOp (s : State) (c : CoreRef) (srcs : List Nat) (iv : Nat) (checks : Core → List (Nat × Word))
    (f : Core → Arith → Nat → Core × Arith) : Ans :=
  runOp s c .issue srcs (fun s _ => checks (coreAt s c)) fun s i =>
    let (k, a) := f (coreAt s c) (arith s c.tile) i.t
    some (retire (setArith (setCore s c k) c.tile a) c i.t iv)

/-- The lanes whose generators the elements of a packed source use, in element order (R65). -/
def srLanes (ty n : Nat) : List Nat := (List.range n).map fun i => if ty = 0 then i else i / 2

/-- Results and flags combined. -/
def collect (rs : List (Nat × Nat)) : List Nat × Nat := (rs.map (·.1), rs.foldl (fun f r => Nat.lor f r.2) 0)

/-- The random values of a conversion to format fmt under rm, and the generators after (R65). -/
def srFor (a : Arith) (rm fmt : Nat) (lanes : List Nat) : List Nat × List (BitVec 32) :=
  if isStoch rm fmt then srDraw lanes a.sr else ([], a.sr)

/-! ### Elementwise operations -/

/-- Sign change of VOP's FABS and FNEG (R107). -/
def signOp (fn ty x : Nat) : Nat :=
  let w := tyBits ty
  if (valueOf (tyFmt ty) x).isNan then ((ffmt? (tyFmt ty)).map FFmt.nanCode).getD 0
  else if fn = 5 then x % 2 ^ (w - 1) else (x + 2 ^ (w - 1)) % 2 ^ w

/-- One element of VOP (R76): encoding and flags. -/
def vopElem (fn ty rm : Nat) (sat : Bool) (r x y : Nat) : Nat × Nat :=
  let f := tyFmt ty
  let a := valueOf f x
  let b := valueOf f y
  let rounded := fun (v : Num × Nat) =>
    let (e, fl) := convert f rm sat r v.1
    (e, Nat.lor v.2 fl)
  match fn with
  | 0 => rounded (Num.add rm a b)
  | 1 => rounded (Num.add rm a b.neg)
  | 2 => rounded (Num.mul a b)
  | 3 => ((convert f 0 false 0 (Num.min a b)).1, 0)
  | 4 => ((convert f 0 false 0 (Num.max a b)).1, 0)
  | _ => (signOp fn ty x, 0)

/-- VOP (R107). -/
def execVop (c : CoreRef) (i : FmtV) (s : State) : Ans :=
  let fn := i.fn.toNat
  let ty := i.ty.toNat
  let rm := i.rm.toNat
  vecOp s c (if 5 ≤ fn then [kW i.wa.toNat] else [kW i.wa.toNat, kW i.wb.toNat]) 1
    (fun _ => fnChecks (decide (6 < fn)) ++ rsv (decide (5 ≤ fn) && decide (i.wb ≠ 0)) ++ rmChecks rm ++ fmtChecks (decide (ty = 3)))
    fun k a t =>
      let (rs, g) := if fn ≤ 2 then srFor a rm (tyFmt ty) (srLanes ty (tyElems ty)) else ([], a.sr)
      let es := ((tyRaw ty (k.wr i.wa.toNat)).zip (tyRaw ty (k.wr i.wb.toNat))).zipIdx.map fun ((x, y), j) =>
        vopElem fn ty rm (decide (i.sat = 1)) (nth rs j 0) x y
      let (xs, fl) := collect es
      (k.setW i.wd.toNat (packWide (tyBits ty) xs) (t + 4), ({ a with sr := g } : Arith).flag (t + 4) fl)

/-- VFMA (R107): one rounding. -/
def execVfma (c : CoreRef) (i : FmtF) (s : State) : Ans :=
  let ty := i.ty.toNat
  let rm := i.rm.toNat
  let f := tyFmt ty
  vecOp s c [kW i.wa.toNat, kW i.wb.toNat, kW i.wc.toNat] 1
    (fun _ => rmChecks rm ++ fmtChecks (decide (ty = 3)))
    fun k a t =>
      let (rs, g) := srFor a rm f (srLanes ty (tyElems ty))
      let abs := (tyRaw ty (k.wr i.wa.toNat)).zip ((tyRaw ty (k.wr i.wb.toNat)).zip (tyRaw ty (k.wr i.wc.toNat)))
      let es := abs.zipIdx.map fun ((x, y, z), j) =>
        let (v, f1) := Num.fma rm (valueOf f x) (valueOf f y) (valueOf f z)
        let (e, f2) := convert f rm (decide (i.sat = 1)) (nth rs j 0) v
        (e, Nat.lor f1 f2)
      let (xs, fl) := collect es
      (k.setW i.wd.toNat (packWide (tyBits ty) xs) (t + 4), ({ a with sr := g } : Arith).flag (t + 4) fl)

/-- One lane of VCMP (Table 4.10). -/
def vcmpLane (fn ty x y : Nat) : Bool :=
  if ty = 3 then
    let a := signed 32 x
    let b := signed 32 y
    match fn with
    | 0 => decide (a = b)
    | 1 => decide (a ≠ b)
    | 2 => decide (a < b)
    | 3 => decide (a ≤ b)
    | _ => false
  else
    let a := valueOf 0 x
    let b := valueOf 0 y
    let un := a.isNan || b.isNan
    match fn with
    | 0 => Num.eqv a b
    | 1 => un || !Num.eqv a b
    | 2 => Num.lt false a b
    | 3 => !un && !Num.lt false b a
    | _ => un

/-- A word of 64 predicate bits. -/
def predOf (bs : List Bool) : Word := BitVec.ofNat 64 (bs.foldr (fun b acc => b.toNat + 2 * acc) 0)

/-- VCMP (R107). -/
def execVcmp (c : CoreRef) (i : FmtV) (s : State) : Ans :=
  let fn := i.fn.toNat
  let ty := i.ty.toNat
  vecOp s c [kW i.wa.toNat, kW i.wb.toNat] 1
    (fun _ => fnChecks (decide (4 < fn)) ++ rsv (decide (getBits i.wd 1 0 ≠ 0) || decide (i.rm ≠ 0) || decide (i.sat ≠ 0)) ++
      fmtChecks (decide (ty = 1) || decide (ty = 2)))
    fun k a t =>
      let bs := ((elems 32 64 0 (k.wr i.wa.toNat)).zip (elems 32 64 0 (k.wr i.wb.toNat))).map fun (x, y) => vcmpLane fn ty x y
      (k.setP (getBits i.wd 4 2) (predOf bs) (t + 4), a)

/-- VSEL (R107): the rm field names the predicate. -/
def execVsel (c : CoreRef) (i : FmtV) (s : State) : Ans :=
  vecOp s c [kW i.wa.toNat, kW i.wb.toNat, kP i.rm.toNat] 1
    (fun _ => fnChecks (decide (i.fn ≠ 0)) ++ rsv (decide (i.sat ≠ 0)) ++ fmtChecks (decide (i.ty ≠ 0)))
    fun k a t =>
      let p := k.pr i.rm.toNat
      let es := ((elems 32 64 0 (k.wr i.wa.toNat)).zip (elems 32 64 0 (k.wr i.wb.toNat))).zipIdx.map fun ((x, y), j) => if bitOf p j then x else y
      (k.setW i.wd.toNat (packWide 32 es) (t + 4), a)

/-! ### Conversions -/

/-- Whether VCVT converts between two formats (R108). -/
def cvtPair (fs fd : Nat) : Bool := (fs == 0) != (fd == 0) && fd != 6

/-- VCVT (R108). -/
def execVcvt (c : CoreRef) (i : FmtK) (s : State) : Ans :=
  let fs := i.fs.toNat
  let fd := i.fd.toNat
  let rm := i.rm.toNat
  let part := i.part.toNat
  let w := fmtBits (if fs = 0 then fd else fs)
  vecOp s c (if fs = 0 ∧ w < 32 then [kW i.wa.toNat, kW i.wd.toNat] else [kW i.wa.toNat]) 1
    (fun _ => rsv (decide (i.rsv ≠ 0) || (cvtPair fs fd && decide (fs < 10) && decide (fd < 10) && decide (32 / w ≤ part))) ++
      rmChecks rm ++ fmtChecks (decide (10 ≤ fs) || decide (10 ≤ fd)) ++ chk (!cvtPair fs fd) 0x07)
    fun k a t =>
      if fs = 0 then
        let (rs, g) := srFor a rm fd (List.range 64)
        let (xs, fl) := collect ((elems 32 64 0 (k.wr i.wa.toNat)).zipIdx.map fun (x, j) =>
          convert fd rm (decide (i.sat = 1)) (nth rs j 0) (valueOf 0 x))
        (k.setW i.wd.toNat (patchWide w (64 * part) xs (k.wr i.wd.toNat)) (t + 4), ({ a with sr := g } : Arith).flag (t + 4) fl)
      else
        let (xs, fl) := collect ((elems w 64 (64 * part) (k.wr i.wa.toNat)).map fun x => convert 0 rm false 0 (valueOf fs x))
        (k.setW i.wd.toNat (packWide 32 xs) (t + 4), a.flag (t + 4) fl)

/-- VQNT (R109). -/
def execVqnt (c : CoreRef) (i : FmtQ) (s : State) : Ans :=
  let ty := i.ty.toNat
  let rm := i.rm.toNat
  vecOp s c [kW i.wa.toNat, kW i.wd.toNat] 2
    (fun _ => rsv (decide (i.rsv ≠ 0)) ++ rmChecks rm ++ fmtChecks (decide (2 ≤ ty)))
    fun k a t =>
      let (rs, g) := srFor a rm 5 (srLanes ty 64)
      let vs := (elems (tyBits ty) 64 0 (k.wr i.wa.toNat)).zipIdx.map fun (x, j) => (valueOf (tyFmt ty) x, nth rs j 0)
      let (s0, e0, f0) := quantise rm (vs.take 32)
      let (s1, e1, f1) := quantise rm (vs.drop 32)
      let k := k.setW i.wd.toNat (patchWide 4 (64 * i.part.toNat) (e0 ++ e1) (k.wr i.wd.toNat)) (t + 10)
      (k.setG i.rd.toNat (BitVec.ofNat 64 (s0 + 256 * s1)) (t + 10), ({ a with sr := g } : Arith).flag (t + 10) (Nat.lor f0 f1))

/-! ### Special functions, reductions, softmax -/

/-- VSFU (R107). -/
def execVsfu (c : CoreRef) (i : FmtV) (s : State) : Ans :=
  let fn := i.fn.toNat
  vecOp s c [kW i.wa.toNat] 2
    (fun _ => fnChecks (decide (3 < fn)) ++ rsv (decide (i.wb ≠ 0) || decide (i.rm ≠ 0) || decide (i.sat ≠ 0)) ++ fmtChecks (decide (i.ty ≠ 0)))
    fun k a t =>
      let (xs, fl) := collect ((elems 32 64 0 (k.wr i.wa.toNat)).map fun x =>
        let (r, f) := special fn (BitVec.ofNat 32 x)
        (r.toNat, f))
      (k.setW i.wd.toNat (packWide 32 xs) (t + 14), a.flag (t + 14) fl)

/-- A cross-lane reduction (R78): 0 sum, 1 max, 2 min. -/
def reduce (fn ty : Nat) (xs : List Nat) : BitVec 32 × Nat :=
  let vs := xs.map (valueOf (tyFmt ty))
  match fn with
  | 0 => treeSum (if ty = 0 then 6 else 7) (vs.map fun v => (toF32 0 false v).1)
  | 1 => ((toF32 0 false (maxNum vs)).1, 0)
  | _ => ((toF32 0 false (minNum vs)).1, 0)

/-- VRED (R107). -/
def execVred (c : CoreRef) (i : FmtV) (s : State) : Ans :=
  let fn := i.fn.toNat
  let ty := i.ty.toNat
  vecOp s c [kW i.wa.toNat] 1
    (fun _ => fnChecks (decide (2 < fn)) ++ rsv (decide (i.wb ≠ 0) || decide (i.rm ≠ 0) || decide (i.sat ≠ 0)) ++ fmtChecks (decide (ty = 3)))
    fun k a t =>
      let (r, fl) := reduce fn ty (tyRaw ty (k.wr i.wa.toNat))
      (k.setG i.wd.toNat (r.setWidth 64) (t + 9), a.flag (t + 9) fl)

/-- FP32 difference under RNE. -/
def subF32 (a b : BitVec 32) : BitVec 32 × Nat :=
  let (v, f1) := Num.add 0 (f32 a) (f32 b).neg
  let (x, f2) := toF32 0 false v
  (x, Nat.lor f1 f2)

/-- exp2(a - b) with the flags of both operations. DESIGN CHOICE: R79 states no rounding of the difference; it is rounded to FP32 under RNE
before exp2, with its flags (log entry 79). -/
def expDiff (a b : BitVec 32) : BitVec 32 × Nat :=
  let (d, f1) := subF32 a b
  let (e, f2) := special 0 d
  (e, Nat.lor f1 f2)

/-- An online-softmax step (R79): p, c, the new pair and the flags. -/
def softmaxStep (m0 s0 : BitVec 32) (xs : List (BitVec 32)) (v : Word) : List (BitVec 32) × BitVec 32 × BitVec 32 × BitVec 32 × Nat :=
  let live := xs.zipIdx.filterMap fun (x, j) => if bitOf v j then some (f32 x) else none
  let mNew := Num.max (f32 m0) (maxNum live)
  let m1 := (toF32 0 false mNew).1
  if mNew = .inf true then (xs.map fun _ => 0, 0x3F800000, m1, s0, 0)
  else
    let (c, f1) := expDiff m0 m1
    let ps := xs.zipIdx.map fun (x, j) => if bitOf v j then expDiff x m1 else (0, 0)
    let p := ps.map (·.1)
    let f2 := ps.foldl (fun f r => Nat.lor f r.2) 0
    let (sum, f3) := treeSum 6 p
    let (r, f4) := Num.fma 0 (f32 s0) (f32 c) (f32 sum)
    let (s1, f5) := toF32 0 false r
    (p, c, m1, s1, Nat.lor f1 (Nat.lor f2 (Nat.lor f3 (Nat.lor f4 f5))))

/-- VSMX step (R110). -/
def execVsmxStep (c : CoreRef) (i : FmtY) (s : State) : Ans :=
  vecOp s c [kW i.wa.toNat, kG i.gr.toNat, kP i.pm.toNat] 2
    (fun k => fnChecks (decide (i.fn ≠ 0)) ++ chk (decide (64 ≤ (k.gr i.gr.toNat).toNat)) 0x0A (k.gr i.gr.toNat))
    fun k a t =>
      let r := (k.gr i.gr.toNat).toNat
      let xs := (elems 32 64 0 (k.wr i.wa.toNat)).map (BitVec.ofNat 32)
      let (p, cc, m, sm, fl) := softmaxStep (nth a.smM r 0) (nth a.smS r 0) xs (k.pr i.pm.toNat)
      let k := k.setW i.wd.toNat (packWide 32 (p.map BitVec.toNat)) (t + 22)
      (k.setG i.gc.toNat (cc.setWidth 64) (t + 22), ({ a with smM := a.smM.set r m, smS := a.smS.set r sm } : Arith).flag (t + 22) fl)

/-- The fields of a VSMX form other than wd that are not 0 (R110). -/
def smxRest (i : FmtY) : Bool := decide (i.wa ≠ 0) || decide (i.gr ≠ 0) || decide (i.gc ≠ 0) || decide (i.pm ≠ 0)

/-- VSMX reset (R110). -/
def execVsmxReset (c : CoreRef) (i : FmtY) (s : State) : Ans :=
  vecOp s c [] 1 (fun _ => fnChecks (decide (i.fn ≠ 1)) ++ rsv (smxRest i || decide (i.wd ≠ 0)))
    fun k a _ => (k, { a with smM := Arith.fresh.smM, smS := Arith.fresh.smS })

/-- VSMX read m (R110). DESIGN CHOICE: Tables 3.9 and 4.14 name no timing for the helper's reset and reads, nor for VEXT and VINS; each issues
in 1 cycle with results after 4 (log entry 16). -/
def execVsmxReadM (c : CoreRef) (i : FmtY) (s : State) : Ans :=
  vecOp s c [] 1 (fun _ => fnChecks (decide (i.fn ≠ 2)) ++ rsv (smxRest i))
    fun k a t => (k.setW i.wd.toNat (packWide 32 (a.smM.map BitVec.toNat)) (t + 4), a)

/-- VSMX read s (R110). -/
def execVsmxReadS (c : CoreRef) (i : FmtY) (s : State) : Ans :=
  vecOp s c [] 1 (fun _ => fnChecks (decide (i.fn ≠ 3)) ++ rsv (smxRest i))
    fun k a t => (k.setW i.wd.toNat (packWide 32 (a.smS.map BitVec.toNat)) (t + 4), a)

/-! ### Moves and integer lanes -/

/-- The fields of a VMOV form that must be 0: rm and sat, and those a function does not use (R99). -/
def vmovRest (i : FmtV) (wa wb ty : Bool) : List (Nat × Word) :=
  rsv (decide (i.rm ≠ 0) || decide (i.sat ≠ 0) || (wa && decide (i.wa ≠ 0)) || (wb && decide (i.wb ≠ 0)) || (ty && decide (i.ty ≠ 0)))

/-- VZERO (R107). -/
def execVzero (c : CoreRef) (i : FmtV) (s : State) : Ans :=
  vecOp s c [] 1 (fun _ => fnChecks (decide (i.fn ≠ 0)) ++ vmovRest i true true true) fun k a t => (k.setW i.wd.toNat 0 (t + 4), a)

/-- VCOPY (R107). -/
def execVcopy (c : CoreRef) (i : FmtV) (s : State) : Ans :=
  vecOp s c [kW i.wa.toNat] 1 (fun _ => fnChecks (decide (i.fn ≠ 1)) ++ vmovRest i false true true)
    fun k a t => (k.setW i.wd.toNat (k.wr i.wa.toNat) (t + 4), a)

/-- VBCAST (R107). -/
def execVbcast (c : CoreRef) (i : FmtV) (s : State) : Ans :=
  let ty := i.ty.toNat
  vecOp s c [kG i.wa.toNat] 1 (fun _ => fnChecks (decide (i.fn ≠ 2)) ++ vmovRest i false true false)
    fun k a t => (k.setW i.wd.toNat (packWide (tyBits ty) (List.replicate (tyElems ty) (k.gr i.wa.toNat).toNat)) (t + 4), a)

/-- The check of an element index (R107). -/
def indexChecks (k : Core) (i : FmtV) : List (Nat × Word) :=
  chk (decide (tyElems i.ty.toNat ≤ (k.gr i.wb.toNat).toNat)) 0x0A (k.gr i.wb.toNat)

/-- VEXT (R107). -/
def execVext (c : CoreRef) (i : FmtV) (s : State) : Ans :=
  let w := tyBits i.ty.toNat
  vecOp s c [kW i.wa.toNat, kG i.wb.toNat] 1 (fun k => fnChecks (decide (i.fn ≠ 3)) ++ vmovRest i false false false ++ indexChecks k i)
    fun k a t => (k.setG i.wd.toNat (BitVec.ofNat 64 (nth (elems w 1 (k.gr i.wb.toNat).toNat (k.wr i.wa.toNat)) 0 0)) (t + 4), a)

/-- VINS (R107). -/
def execVins (c : CoreRef) (i : FmtV) (s : State) : Ans :=
  let w := tyBits i.ty.toNat
  vecOp s c [kG i.wa.toNat, kG i.wb.toNat, kW i.wd.toNat] 1 (fun k => fnChecks (decide (i.fn ≠ 4)) ++ vmovRest i false false false ++ indexChecks k i)
    fun k a t => (k.setW i.wd.toNat (patchWide w (k.gr i.wb.toNat).toNat [(k.gr i.wa.toNat).toNat] (k.wr i.wd.toNat)) (t + 4), a)

/-- One lane of VINT (Table 4.10). -/
def vintLane (fn : Nat) (x y : BitVec 32) : BitVec 32 :=
  let n := y.toNat % 32
  match fn with
  | 0 => x + y
  | 1 => x - y
  | 2 => x * y
  | 3 => x &&& y
  | 4 => x ||| y
  | 5 => x ^^^ y
  | 6 => x <<< n
  | 7 => x >>> n
  | 8 => x.sshiftRight n
  | 9 => if y.toInt < x.toInt then y else x
  | _ => if x.toInt < y.toInt then y else x

/-- VINT (R107). -/
def execVint (c : CoreRef) (i : FmtV) (s : State) : Ans :=
  let fn := i.fn.toNat
  vecOp s c [kW i.wa.toNat, kW i.wb.toNat] 1
    (fun _ => fnChecks (decide (10 < fn)) ++ rsv (decide (i.rm ≠ 0) || decide (i.sat ≠ 0)) ++ fmtChecks (decide (i.ty ≠ 3)))
    fun k a t =>
      let es := ((elems 32 64 0 (k.wr i.wa.toNat)).zip (elems 32 64 0 (k.wr i.wb.toNat))).map fun (x, y) =>
        (vintLane fn (BitVec.ofNat 32 x) (BitVec.ofNat 32 y)).toNat
      (k.setW i.wd.toNat (packWide 32 es) (t + 4), a)

/-! ### SNCHK -/

/-- A pending trip: the first stays (R345). -/
def Arith.tripped (a : Arith) (w : Option Word) (pc : Word) (aux : Nat) : Arith :=
  match a.trip with
  | some _ => a
  | none => { a with trip := w.map fun x => (x.toNat, pc, aux) }

/-- SNCHK (R123): checks the values of wa, or ends a row. -/
def execSnchk (c : CoreRef) (i : FmtV) (s : State) : Ans :=
  let op := getBits i.fn 4 3
  let n := getBits i.fn 2 0
  let ty := i.ty.toNat
  runOp s c .issue (if op = 1 then [] else [kW i.wa.toNat])
    (fun _ x =>
      let ws := sentSet x.task n
      fnChecks (decide (2 ≤ op)) ++
      rsv (decide (i.wd ≠ 0) || decide (i.rm ≠ 0) || decide (i.sat ≠ 0) || decide (i.wb ≠ 0) || (decide (op = 1) && decide (i.wa ≠ 0))) ++
      chk (ws.isEmpty || sentInt ws != decide (ty = 3)) 0x0A)
    fun s x =>
      let ws := sentSet x.task n
      let k := coreAt s c
      let a := arith s c.tile
      let old := SMap.get SentRow.fresh a.sents n
      let a :=
        if op = 0 then
          let r := sentScan ws (tyFmt ty) old (tyRaw ty (k.wr i.wa.toNat))
          ({ a with sents := SMap.set a.sents n r.st, check := x.t } : Arith).tripped (scanTrip r n false 0) k.pc 0
        else
          ({ a with sents := SMap.set a.sents n { old with sum := 0, sq := 0 }, check := x.t } : Arith).tripped
            ((rowTrip ws old).map fun (r, v) => tripWord r n false 0 0 v) k.pc 0
      some (retire (setArith s c.tile a) c x.t 1)

/-- SENTINEL_TRIP: the first trip of a tile is raised against its task (R345), unless the closing boundary has been reached (Table 4.16). -/
def execSentinelTrip (n : Nat) (s : State) : Ans :=
  let s := settle s s.clk.cyc
  match taskOf s n, (arith s n).trip with
  | some (slot, _), some (w, pc, aux) =>
    if cycleAt s (closing s) ≤ s.clk.cyc then finish s
    else finish (faultTask s slot (tileCtx s n false
      { blankRec s 0x01 0x23 1 with pc := pc.toNat, aux := BitVec.ofNat 64 aux, aux2 := BitVec.ofNat 64 w }))
  | _, _ => finish s

end Sys2Proof.Machine
end

