-- ==== Sys2Proof/Machine/MatrixInstr.lean ====
section
/-! DEFINITION. Matrix instructions (R111 to R113, R138) and drift-schedule instructions (R114 to R118). -/

namespace Sys2Proof.Machine

/-! ### Accumulator timing -/

/-- The cycle from which a tile's accumulator is readable: n + 12 cycles after every MMA in flight (R73). -/
def accReadable (s : State) (n : Nat) : Nat := maxOf ((arith s n).mmas.map fun m => m.t + m.n + 12 + m.late)

/-- The cycle from which the next MMA may issue: when the operands of the one before have been taken, and a drain has read its rows (R73, R75). -/
def mmaFree (s : State) (n : Nat) : Nat :=
  max (maxOf ((arith s n).mmas.map fun m => m.t + m.n + m.late)) (maxOf ((arith s n).drains.map fun d => d.t + 63 + d.late))

/-- The cycle from which the next drain may issue: the accumulator is readable and the drain before has read its rows. -/
def drainFree (s : State) (n : Nat) : Nat := max (accReadable s n) (maxOf ((arith s n).drains.map fun d => d.t + 64 + d.late))

/-- ACCRD (R111). -/
def execAccrd (c : CoreRef) (i : FmtI) (s : State) : Ans :=
  runOp s c .issue [kG i.ra.toNat]
    (fun s _ =>
      let r := (coreAt s c).gr i.ra.toNat
      rsv (decide (i.imm ≠ 0)) ++ chk (decide (64 ≤ r.toNat)) 0x0A r)
    (fun s x =>
      let k := coreAt s c
      let row := accRow (arith s c.tile) (k.gr i.ra.toNat).toNat
      some (retire (setCore s c (k.setW i.rd.toNat (packWide 32 (row.map BitVec.toNat)) (x.t + 6))) c x.t 1))
    (fun s => accReadable s c.tile)

/-! ### MMA -/

/-- The source that an operand field selects (R112); none where it is reserved. -/
inductive Field where
  | desc (r : Nat)
  | drift (side : Nat)
  | wide (r : Nat)
deriving DecidableEq, Repr

/-- Decode an operand field. -/
def fieldOf? (f : BitVec 6) : Option Field :=
  let x := f.toNat
  if x < 16 then some (.desc x) else if x < 20 then some (.drift (x - 16)) else if x < 32 then none else some (.wide (x - 32))

/-- Whether an input of a tile is held at cycle t by a stream or an MMA (R117). -/
def inputHeld (s : State) (n side t : Nat) : Bool :=
  (tile s n).inHold.any (fun h => h.1 == side && decide (t < h.2)) ||
  (arith s n).mmas.any fun m =>
    let rel := fun (src : OperandSrc) f => match src with
      | .drift d => d == side && decide (t < m.t + 1 + (beatsNeeded f m.k - 1) * beatPace m.rate f + m.late)
      | _ => false
    rel m.a m.fa || rel m.b m.fb

/-- Whether an output of a tile is held at cycle t (R117). -/
def outputHeld (s : State) (n side t : Nat) : Bool := (tile s n).outHold.any fun h => h.1 == side && decide (t < h.2)

/-- Wide registers that a source of n beats takes. -/
def wideRegs (n : Nat) : Nat := ceilDiv n 4

/-- The check of a descriptor operand (R96). -/
def operandDesc (s : State) (c : CoreRef) (f : Option Field) (fmt k : Nat) : List (Nat × Word) :=
  match f with
  | some (.desc r) =>
    match descFault (tile s c.tile).base ((coreAt s c).dr r) (· == fmt) (beatsNeeded fmt k) (if fmt = 5 then k / 32 else 0) with
    | some code => [(code, 0)]
    | none => []
  | _ => []

/-- WIDE_RANGE of an operand. -/
def operandWide (f : Option Field) (fmt k : Nat) : Bool :=
  match f with
  | some (.wide r) => decide (32 < r + wideRegs (beatsNeeded fmt k))
  | _ => false

/-- Whether an MXFP4 operand is not a descriptor with SCALE_ADDR set (R112). -/
def badBlock (s : State) (c : CoreRef) (f : Option Field) (fmt : Nat) : Bool :=
  decide (fmt = 5) && match f with
    | some (.desc r) => decide (dScale ((coreAt s c).dr r) = 0)
    | _ => true

/-- The drift side of an operand, if it is one. -/
def operandSide (f : Option Field) : List Nat :=
  match f with
  | some (.drift d) => [d]
  | _ => []

/-- The checks of Table 4.11, in the order listed; of a fault of A's and one of B's descriptor, the one listed first in Table 4.15 (R128). -/
def mmaChecks (s : State) (c : CoreRef) (t : Task) (i : FmtX) (k : Word) : List (Nat × Word) :=
  let fa := i.fa.toNat
  let fb := i.fb.toNat
  let A := fieldOf? i.a
  let B := fieldOf? i.b
  let n := k.toNat
  let pair := mmaPair fa fb
  let a := arith s c.tile
  ordered [
    chk (decide (10 ≤ fa) || decide (10 ≤ fb)) 0x06,
    chk (pair.isNone || badBlock s c A fa || badBlock s c B fb) 0x12,
    chk (decide (n = 0) || decide (1048576 < n) || ((pair.map (·.1)) == some 4 && decide (n % 2 = 1)) ||
      ((fa == 5 || fb == 5) && decide (n % 32 ≠ 0))) 0x13 k,
    (firstFault (operandDesc s c A fa n ++ operandDesc s c B fb n)).toList,
    chk (operandWide A fa n || operandWide B fb n) 0x11,
    chk ((operandSide A ++ operandSide B).any fun d => (t.neighbour c.tile d).isNone) 0x15,
    chk (i.clr == 0 && (pair.map (·.2)) != some a.accInt) 0x14 ]

/-- An operand's source, wide registers as they stand. -/
def operandSrc (k : Core) (f : Option Field) (fmt n : Nat) : OperandSrc :=
  match f with
  | some (.desc r) => .desc (k.dr r)
  | some (.drift d) => .drift d
  | some (.wide r) =>
    .wide ((List.range (beatsNeeded fmt n)).map fun j => (bytesOf 256 (k.wr (r + j / 4)).toNat).drop (64 * (j % 4)) |>.take 64)
  | none => .wide []

/-- The registers that an operand field reads for a reduction of length k: a descriptor, or the wide registers that hold its beats (R112). -/
def fieldSrcs (f : Option Field) (fmt k : Nat) : List Nat :=
  match f with
  | some (.desc r) => [kD r]
  | some (.wide r) => (rangeFrom r (min (32 - r) (wideRegs (beatsNeeded fmt k)))).map kW
  | _ => []

/-- MMA (R112): checks at issue, then its operand cycles run with the scheduled traffic. -/
def execMma (c : CoreRef) (i : FmtX) (s : State) : Ans :=
  let A := fieldOf? i.a
  let B := fieldOf? i.b
  let fa := i.fa.toNat
  let fb := i.fb.toNat
  let K := ((coreAt s c).gr i.gk.toNat).toNat
  runOp s c .issue (kG i.gk.toNat :: fieldSrcs A fa K ++ fieldSrcs B fb K)
    (fun s x =>
      let sides := operandSide A ++ operandSide B
      rsv (A.isNone || B.isNone) ++ mmaChecks s c x.task i ((coreAt s c).gr i.gk.toNat) ++
      chk (sides.any (fun d => inputHeld s c.tile d x.t) || (sides.length == 2 && sides.eraseDups.length == 1)) 0x16)
    (fun s x =>
      let k := coreAt s c
      let n := (k.gr i.gk.toNat).toNat
      let (rate, int) := (mmaPair fa fb).getD (2, false)
      let m : MmaOp :=
        { fa := fa, fb := fb, clr := i.clr == 1, k := n, a := operandSrc k A fa n, b := operandSrc k B fb n, inA := [], inB := [], scA := [], scB := [],
          t := x.t, n := mmaCycles rate n, pos := 0, late := 0, pc := k.pc }
      let a := arith s c.tile
      some (retire (setArith s c.tile { a with mmas := a.mmas ++ [m], accInt := int }) c x.t 1))
    (fun s => mmaFree s c.tile)

/-- MMA_COMPLETE: the last rounding of the oldest MMA of a tile reaches the accumulator (R73). -/
def execMmaComplete (n : Nat) (s : State) : Ans :=
  match (arith s n).mmas with
  | [] => finish s
  | _ :: _ =>
    let due := fun s => match (arith s n).mmas with
      | m :: _ => m.t + m.n + 12 + m.late
      | [] => 0
    let (t, s1) := waitFor due 65536 s s.clk.cyc
    if cycleAt s (closing s) ≤ t then finish s else finish s1

/-! ### MDRAIN -/

/-- The formats that a drain may write (R113). -/
def drainFmt (f : Nat) : Bool := f ≤ 4 || f == 7 || f == 9

/-- The checks of a descriptor that an MDRAIN names. -/
def drainDesc (s : State) (c : CoreRef) (r fmt need : Nat) : List (Nat × Word) :=
  match descFault (tile s c.tile).base ((coreAt s c).dr r) (· == fmt) need 0 with
  | some code => [(code, 0)]
  | none => []

/-- The checks of MDRAIN (R113). -/
def mdrainChecks (s : State) (c : CoreRef) (i : FmtD) : List (Nat × Word) :=
  let fmt := i.fmt.toNat
  let sk := i.sk.toNat
  rsv (decide (i.rsv ≠ 0) || decide (sk = 3) || (decide (sk = 0) && decide (i.ss ≠ 0)) || (decide (sk = 2) && bitOf i.ss 4) ||
    (decide (i.be = 0) && decide (i.bd ≠ 0))) ++
  rmChecks i.rm.toNat ++ fmtChecks (!drainFmt fmt) ++
  drainDesc s c i.dd.toNat fmt (64 * (fmtBits fmt / 8)) ++
  (if sk = 2 then drainDesc s c (getBits i.ss 3 0) 0 4 else []) ++
  (if i.be = 1 then drainDesc s c i.bd.toNat 0 4 else [])

/-- Read the beats at absolute offsets into the drain unit, one in each cycle from t on in which no request of higher rank holds its bank (R136, R138): the beats and
the cycle after the last. -/
def vectorRead (n : Nat) (pc : Word) : Nat → State → Nat → List Nat → List (List Byte) → List (List Byte) × Nat × State
  | 0, s, t, _, acc => (acc, t, s)
  | _, s, t, [], acc => (acc, t, s)
  | fuel + 1, s, t, o :: os, acc =>
    if (readBanks s n t).contains (bankIx o) then vectorRead n pc fuel (settle (finc s F.TS_REFUSE_DRAIN_STALL 1 n) (t + 1)) (t + 1) (o :: os) acc
    else
      let (b, c) := Cyc.read { s := s, y := t, excs := [], used := [] } n o false pc
      vectorRead n pc fuel (settle (raiseAll c.s t c.excs) (t + 1)) (t + 1) os (acc ++ [b.getD []])

/-- The FP32 elements of vector beats. -/
def vectorElems (bs : List (List Byte)) : List (BitVec 32) :=
  let all := bs.flatten
  (List.range 64).map fun j => BitVec.ofNat 32 (ofBytes ((all.drop (4 * j)).take 4))

/-- Whether a drain's output format does not suit the task's drain set (R343). -/
def drainMismatch (t : Task) (fmt : Nat) : Bool :=
  bitOf (sentHead t) 39 && (sentInt (sentSet t (getBits (sentHead t) 38 36)) != (fmt == 7 || fmt == 9))

/-- MDRAIN (R113): its vectors are read before it issues (R138), it waits for the accumulator (R73), and its rows are written with the scheduled traffic (R75). -/
def execMdrain (c : CoreRef) (i : FmtD) (s : State) : Ans :=
  let sk := i.sk.toNat
  let fmt := i.fmt.toNat
  runOp s c .issue ((if sk = 1 then [kG i.ss.toNat] else []) ++ (if sk = 2 then [kD (getBits i.ss 3 0)] else []) ++
      (if i.be = 1 then [kD i.bd.toNat] else []) ++ [kD i.dd.toNat])
    (fun s _ => mdrainChecks s c i)
    fun s x =>
      let k := coreAt s c
      let base := (tile s c.tile).base
      let offs := fun r => (List.range 4).map fun j => base + beatOff (k.dr r) j
      let so := if sk = 2 then offs (getBits i.ss 3 0) else []
      let bo := if i.be = 1 then offs i.bd.toNat else []
      let (bs, t, s) := vectorRead c.tile k.pc 65536 s x.t (so ++ bo) []
      let (t, s1) := waitFor (fun s => drainFree s c.tile) 65536 s t
      if cycleAt s (closing s) ≤ t then none
      else if (coreAt s1 c).st ≠ .run then some s1
      else if drainMismatch x.task fmt then
        let w := tripWord 7 (getBits (sentHead x.task) 38 36) true 0 0 0
        some (faultTask s1 x.slot (tileCtx s1 c.tile false
          { blankRec s1 0x01 0x23 1 with pc := k.pc.toNat, aux := BitVec.ofNat 64 (beatOff (k.dr i.dd.toNat) 0), aux2 := w }))
      else
        let scale := if sk = 1 then List.replicate 64 ((k.gr i.ss.toNat).setWidth 32)
          else if sk = 2 then vectorElems (bs.take 4) else []
        let bias := if i.be = 1 then vectorElems (bs.drop so.length) else []
        let a := arith s1 c.tile
        let (rows, g) := drainRows a fmt i.rm.toNat (i.sat == 1) scale bias
        let d : DrainOp := { dst := k.dr i.dd.toNat, fmt := fmt, t := t, late := 0, row := 0, part := [], rows := rows, pc := k.pc }
        some (retire (setArith s1 c.tile { a with drains := a.drains ++ [d], sr := g }) c t 1)

/-- MDRAIN_COMPLETE: the last row of the oldest drain of a tile has been written (R75). -/
def execMdrainComplete (n : Nat) (s : State) : Ans :=
  match (arith s n).drains with
  | [] => finish s
  | _ :: _ =>
    let due := fun s => match (arith s n).drains with
      | d :: _ => d.t + 70 + d.late
      | [] => 0
    let (t, s1) := waitFor due 65536 s s.clk.cyc
    if cycleAt s (closing s) ≤ t then finish s else finish s1

/-! ### Drift streams -/

/-- Holds that are still in force at cycle t, with another. -/
def addHold (hs : List (Nat × Nat)) (t : Nat) (h : Nat × Nat) : List (Nat × Nat) := hs.filter (fun x => decide (t < x.2)) ++ [h]

/-- The check of a stream's descriptor (R115). -/
def streamDesc (s : State) (c : CoreRef) (i : FmtS) : List (Nat × Word) :=
  match descFault (tile s c.tile).base ((coreAt s c).dr (getBits i.sx 3 0)) (fun _ => true) i.cnt.toNat 0 with
  | some code => [(code, 0)]
  | none => []

/-- DOUT (R115, R116): from a descriptor, or a forward of an input. Its beats meet what the link does to them (R157). -/
def execDout (c : CoreRef) (w : StreamOut) (s : State) : Ans :=
  let i := w.i
  let side := i.dir.toNat
  let n := i.cnt.toNat
  let inp := getBits i.sx 1 0
  runOp s c .mover (if i.st = 1 then [kD (getBits i.sx 3 0)] else [])
    (fun s x =>
      rsv (decide (i.rsv ≠ 0) || decide (n = 0) || decide (i.st = 0) || decide (i.st = 3) || (decide (i.st = 1) && bitOf i.sx 4) ||
        (decide (i.st = 2) && decide (getBits i.sx 4 2 ≠ 0))) ++
      (if i.st = 1 then streamDesc s c i else []) ++
      chk ((x.task.neighbour c.tile side).isNone || (decide (i.st = 2) && (x.task.neighbour c.tile inp).isNone)) 0x15 ++
      chk (outputHeld s c.tile side x.t || (decide (i.st = 2) && inputHeld s c.tile inp x.t)) 0x16)
    fun s x =>
      let k := coreAt s c
      let s := updTile s c.tile fun (t : Tile) =>
        if i.st = 1 then
          { t with
            douts := t.douts ++ [{ side := side, desc := k.dr (getBits i.sx 3 0), n := n, start := x.t, done := 0, pc := k.pc, noise := w.noise }],
            outHold := addHold t.outHold x.t (side, x.t + n) }
        else
          { t with
            cons := t.cons ++ [{ side := inp, start := x.t, n := n, done := 0, sink := .forward side, pc := k.pc, noise := w.noise }],
            inHold := addHold t.inHold x.t (inp, x.t + n), outHold := addHold t.outHold x.t (side, x.t + n + 1) }
      some (retire s c x.t 1)

/-- DIN (R115, R116). -/
def execDin (c : CoreRef) (i : FmtS) (s : State) : Ans :=
  let side := i.dir.toNat
  let n := i.cnt.toNat
  runOp s c .mover [kD (getBits i.sx 3 0)]
    (fun s x =>
      rsv (decide (i.rsv ≠ 0) || decide (n = 0) || decide (i.st ≠ 1) || bitOf i.sx 4) ++ streamDesc s c i ++
      chk (x.task.neighbour c.tile side).isNone 0x15 ++ chk (inputHeld s c.tile side x.t) 0x16)
    fun s x =>
      let k := coreAt s c
      let s := updTile s c.tile fun (t : Tile) =>
        { t with
          cons := t.cons ++ [{ side := side, start := x.t, n := n, done := 0, sink := .desc (k.dr (getBits i.sx 3 0)), pc := k.pc, noise := [] }],
          inHold := addHold t.inHold x.t (side, x.t + n) }
      some (retire s c x.t 1)

/-- DWAIT (R118): the core stalls until a schedule cycle; one that is not ahead raises DRIFT_LATE. -/
def execDwait (c : CoreRef) (t : BitVec 26) (s : State) : Ans :=
  runOp s c .both [] (fun _ x => chk (decide (x.task.start + t.toNat ≤ x.t)) 0x17)
    fun s x =>
      let s := retire s c x.t 1
      some (updCore s c fun k => { k with st := .wait (x.task.start + t.toNat), readyAt := x.task.start + t.toNat })

/-- DWAIT_EXPIRE: the cycle that a core waits for is reached (R118). -/
def execDwaitExpire (c : CoreRef) (s : State) : Ans :=
  match (coreAt s c).st with
  | .wait t =>
    match eventAt s t with
    | none => finish s
    | some s1 =>
      match (coreAt s1 c).st with
      | .wait _ => finish (updCore s1 c fun k => { k with st := .run })
      | _ => finish s1
  | _ => finish s

end Sys2Proof.Machine
end

