-- ==== Sys2Proof/Machine/MemCtl.lean ====
section
/-! DEFINITION. The memory controllers (chapter 10): requests, scrub, soft repair and refresh. -/

namespace Sys2Proof.Machine

/-- Whether a memory device is populated (R3, R254): stacks 0 to 7, positions as devices 8 to 23. -/
def devPresent (s : State) (dev : Nat) : Bool := decide (dev < 8) || (decide (dev < 24) && t2Populated s (dev - 8))

/-- Bytes of a device. -/
def devBytes (s : State) (dev : Nat) : Nat := if dev < 8 then stackBytes s else positionBytes

/-- Whether a controller is fenced for an engine reset (R367). -/
def devFenced (s : State) (dev : Nat) : Bool :=
  s.fenced.any fun e => if dev < 8 then e.1 == 5 && e.2.1 == dev else e.1 == 6 && e.2.1 + 8 == dev

/-- Why a reader reads (Table 10.10). -/
def readerWhy : Reader → Why
  | .requester p => .requester p
  | .scrub => .scrub
  | .rmw => .rmw
  | .repairCopy => .repair

/-- The context that a reader's record names (R270). -/
def memCtx (s : State) : Reader → Rec → Rec
  | .requester p, r => r.ofPart s p
  | _, r => r

/-- Read a 64-byte line of a device (R264, R267, R270). -/
def lineRead (s : State) (dev off : Nat) (who : Reader) (vs : List (Nat × BitVec 48) := []) : State :=
  (readKey s (readerWhy who) (keyMem dev off) 64 (memCtx s who) vs).2.2

/-- Write bytes of a 64-byte line (R266): the writer of a line that is not written whole receives an error completion. -/
def lineWrite (s : State) (dev off : Nat) (mask : BitVec 64) (data : Line) : State :=
  let cells := (bytesOf 64 data.toNat).zipIdx.map fun (b, i) => (b, mask.getLsbD i)
  let (ok, s) := writeLine s (keyMem dev off) cells
  if ok then s else { s with outs := s.outs ++ [.memError dev off stUncorrectable] }

/-- The corrections and repeats of a request's way to its device (R255, Table 10.14). -/
def countLine (s : State) (dev : Nat) (l : MemLink) : State :=
  let (i, j) := devIx dev
  if dev < 8 then (if l.retry then finc s F.MEM_DEV_LINK_CMD_RETRY 1 i j else s) else finc s F.MEM_DEV_LINK_LINK_CE l.ce i j

/-- Whether AGE a is older than AGE b: the sign of their difference modulo 2^32 (R242). -/
def ageOlder (a b : BitVec 32) : Bool := (a - b).msb

/-- A request that waits for a row joins those that wait, in age order (R268); requests to one line keep their order of arrival (R257). -/
def holdReq (s : State) (r : MemReq) : State :=
  let before := fun q : MemReq => !ageOlder r.age q.age || (q.dev == r.dev && q.off == r.off)
  let rest := s.memc.held.reverse.takeWhile fun q => !before q
  let n := s.memc.held.length - rest.length
  { s with memc := { s.memc with held := s.memc.held.take n ++ r :: s.memc.held.drop n } }

/-- MEM_READ (R257, R264): one line, with the bits that upsets have flipped since it was written. -/
def execMemRead (dev off : Nat) (who : MemAsker) (met : MemMet) (s : State) : Ans :=
  let off := off / 64 * 64
  finish (if !devPresent s dev || decide (devBytes s dev ≤ off) || devFenced s dev then s
    else
      let s := countLine (upsetBits s (keyMem dev off) met.upset) dev met.link
      if rowHeld s dev off then holdReq s { dev := dev, off := off, write := none, who := who.reader, age := who.age }
      else lineRead s dev off who.reader (upsetAddr (keyMem dev off) met.upset))

/-- MEM_WRITE (R266). -/
def execMemWrite (dev off : Nat) (mask : BitVec 64) (x : MemStore) (s : State) : Ans :=
  let off := off / 64 * 64
  finish (if !devPresent s dev || decide (devBytes s dev ≤ off) || devFenced s dev then s
    else
      let s := countLine s dev x.link
      if rowHeld s dev off then holdReq s { dev := dev, off := off, write := some (mask, x.data), who := .rmw, age := x.age }
      else lineWrite s dev off mask x.data)

/-- MEM_SCRUB_STEP (R267): the next 128-byte line; a pass ends at the end of the device. A field of 0 stops the tier's scrub, and nothing is scrubbed in Dormant. -/
def execMemScrubStep (dev : Nat) (upset : Upset) (s : State) : Ans :=
  let (i, j) := devIx dev
  let hours := if dev < 8 then fg s F.MEM_CTL_T1_SCRUB_H else fg s F.MEM_CTL_T2_SCRUB_H
  let line := fg s F.MEM_DEV_SCRUB_LINE i j
  let off := line * 128
  finish (if !devPresent s dev || devFenced s dev || hours == 0 || dormant s || rowHeld s dev off then s
    else
      let s := upsetBits s (keyMem dev off) upset
      let s := (readKey s .scrub (keyMem dev off) 128 id (upsetAddr (keyMem dev off) upset)).2.2
      if (line + 1) * 128 < devBytes s dev then fs s F.MEM_DEV_SCRUB_LINE (line + 1) i j
      else fwrap (fs s F.MEM_DEV_SCRUB_LINE 0 i j) F.MEM_DEV_SCRUB_PASSES 1 i j)

/-- The words of a row with wrong stored bits, as byte keys. -/
def rowFlips (s : State) (dev row : Nat) : List Nat :=
  (s.flips.filter fun (w, _) =>
    match homeOf (8 * w) with
    | .dev d off => d == dev && deviceRow d off == row
    | _ => false).map fun (w, _) => 8 * w

/-- A request that a row has held is served. -/
def serveHeld (s : State) (r : MemReq) : State :=
  match r.write with
  | some (m, d) => lineWrite s r.dev r.off m d
  | none => lineRead s r.dev r.off r.who

/-- SOFT_REPAIR_COMPLETE (R268): the copy's findings, the spare, the record for hard repair, and the held requests in age order. -/
def execSoftRepairComplete (dev row : Nat) (s : State) : Ans :=
  let (i, j) := devIx dev
  finish (if !s.memc.repairs.any fun x => x.1 == dev && x.2.1 == row then s
    else
      let s := (rowFlips s dev row).foldl (fun s k => (scan s .repair k 8 id).2) s
      let bank := rowKey dev (Config.bankOf dev row)
      let mine := s.memc.held.filter fun r => r.dev == dev && deviceRow dev r.off == row
      let s := { s with memc := { s.memc with
        repairs := s.memc.repairs.filter fun x => !(x.1 == dev && x.2.1 == row),
        used := SMap.set s.memc.used bank (SMap.get 0 s.memc.used bank + 1),
        rowCe := SMap.erase s.memc.rowCe (rowKey dev row),
        hppr := s.memc.hppr ++ [(dev, row)],
        held := s.memc.held.filter fun r => !(r.dev == dev && deviceRow dev r.off == row) } }
      let s := finc (finc s F.MEM_DEV_REPAIR_SPPR_DONE 1 i j) F.MEM_DEV_REPAIR_HPPR_PENDING 1 i j
      let s := fs s F.MEM_DEV_REPAIR_SPARES_LEFT (fg s F.MEM_DEV_REPAIR_SPARES_LEFT i j - 1) i j
      mine.foldl serveHeld (queueStore s 3))

/-- MEM_REFRESH (R255): the bank is refreshed, which delays requests to it. The device reports its temperature, from which a stack's rate follows and with it the rate
that a position asks for, and a stack its on-die error counts. -/
def execMemRefresh (dev : Nat) (x : BankRefresh) (s : State) : Ans :=
  let dies := x.dies
  let (i, j) := devIx dev
  finish (if !devPresent s dev then s
    else
      let s := { s with memc := { s.memc with refresh := SMap.set s.memc.refresh dev x.bank } }
      let s := fs s F.MEM_DEV_STATUS_TEMP (min 255 dies.temp) i j
      let s := fs s F.MEM_DEV_STATUS_REF_RATE (if 8 ≤ dev then dies.rate.toNat else if 85 ≤ dies.temp then 1 else 0) i j
      if dev < 8 then finc s F.MEM_DEV_LINK_LINK_CE dies.ecs i j else s)

end Sys2Proof.Machine
end

