-- ==== Sys2Proof/Machine/Module.lean ====
section
/-! DEFINITION. The module controller (chapter 19): power input, the management interface, and power requests to the tray. -/

namespace Sys2Proof.Machine

/-! ### Power input (R450, R451) -/

/-- INPUT_IN_RANGE (R450): a cold boot. The record of a VIN fault is written after it (R436). -/
def execInputInRange (s : State) : Ans :=
  finish (if s.om.powered then s
    else
      let rs := s.recs.filter fun r => r.cls == 0x16 && r.action == 4
      rs.foldl emit (startColdBoot s))

/-- RAIL_SEQUENCE_MISS (R450): the sequence is repeated once; after a second miss the rails stay off with HALT_CODE 0x08. -/
def execRailSequenceMiss (rail : Nat) (s : State) : Ans :=
  finish (if !s.om.boot.any (fun b => b.cold && b.next == 1) || decide (rail = 0) || decide (12 < rail) then s
    else if s.om.railMiss = 0 then updOm s fun o => { o with railMiss := 1 }
    else bootHalt (powerDown s) 8)

/-- PW_PRSNT_REMOVED (R451). -/
def execPwPrsntRemoved (s : State) : Ans := finish (powerDown (settle s s.clk.cyc))

/-- MGMT_RESET_ASSERT (R451): the rails go down and commands in progress are abandoned. -/
def execMgmtResetAssert (s : State) : Ans := finish (powerDown (settle s s.clk.cyc))

/-! ### The management bus (R453 to R455) -/

/-- HALT_CODE of a halted module, 0 when it is not halted. -/
def haltCode (s : State) : Nat := if fg s F.PSTORE_BOOT_RESULT = 3 then fg s F.PSTORE_BOOT_HALT_CODE else 0

/-- Whether the module controller answers: the input is in range. -/
def mgmtUp (s : State) : Bool := s.om.powered || haltCode s == 8

/-- ENTDAA (R453): a module without a dynamic address takes one. -/
def execEntdaa (addr : BitVec 7) (s : State) : Ans :=
  finish (if mgmtUp s && s.om.dynAddr.isNone then updOm s fun o => { o with dynAddr := some addr.toNat } else s)

/-- SETDASA (R453): from the static address 0x30 + SLOT_ID. -/
def execSetdasa (stat dyn : BitVec 7) (s : State) : Ans :=
  finish (if mgmtUp s && s.om.dynAddr.isNone && stat == 0x30 + Config.slotId.setWidth 7 then updOm s fun o => { o with dynAddr := some dyn.toNat } else s)

/-- A response on the management interface: PLDM type, command, completion code and data. -/
def reply (s : State) (typ cmd code : Nat) (data : List Byte) : State :=
  if mgmtUp s then { s with outs := s.outs ++ [.mgmt ([BitVec.ofNat 8 typ, BitVec.ofNat 8 cmd, BitVec.ofNat 8 code] ++ data)] } else s

/-- Completion codes of DSP0240 that the commands use, and REFUSED (R454). -/
def ccOk : Nat := 0x00
/-- ERROR_INVALID_DATA. -/
def ccInvalid : Nat := 0x02
/-- ERROR_NOT_READY. -/
def ccNotReady : Nat := 0x04
/-- REFUSED. -/
def ccRefused : Nat := 0x80

/-- Whether the module is ready or Dormant (Table 19.7). -/
def mgmtReady (s : State) : Bool := !inDeviceReset s && !halted s && s.om.boot.isNone && !cycling s

/-- Whether the boot has halted with a code other than 0x01 and 0x08 (Table 19.7). -/
def haltedOther (s : State) : Bool := decide (haltCode s ≠ 0) && decide (haltCode s ≠ 1) && decide (haltCode s ≠ 8)

/-- The registers that GET_STATUS returns (Table 19.6). With HALT_CODE 0x08 only PSTORE_BOOT's RESULT and HALT_CODE are there (R419). -/
def statusWords (s : State) : List Word :=
  if haltCode s = 8 then [0, BitVec.ofNat 64 (8 * 2 ^ 16 + 3 * 2 ^ 4), 0, 0, 0, 0, 0]
  else [rd s .glbPart, rd s .pstoreBoot, rd s .guardResetStatus, rd s .clkRefStatus, rd s .clkThermStatus, rd s .clkDormantStatus, rd s .secFwStatus]

/-- GET_STATUS (R454). -/
def execGetStatus (s : State) : Ans := finish (reply s 0x3F 0x01 ccOk (bytesOfWords (statusWords s)))

/-- MGMT_RESET (R454, R455): level 0x04 device, 0x05 power cycle. -/
def execMgmtReset (level : BitVec 8) (s : State) : Ans :=
  finish (if !mgmtUp s then s
    else if level ≠ 5 ∧ mgmtReady s = false ∧ haltedOther s = false then reply s 0x3F 0x02 ccNotReady []
    else if level ≠ 4 ∧ level ≠ 5 then reply s 0x3F 0x02 ccRefused []
    else
      match requestReset (settle s s.clk.cyc) level.toNat 0 0 0 false with
      | (true, s) => reply s 0x3F 0x02 ccOk []
      | (false, s) => reply s 0x3F 0x02 ccRefused [])

/-- DORMANT_CMD_ENTER (R441, R454). -/
def execDormantCmdEnter (s : State) : Ans :=
  finish (if mgmtReady s then reply (askDormant s 0) 0x3F 0x03 ccOk [] else reply s 0x3F 0x03 ccNotReady [])

/-- DORMANT_CMD_EXIT (R443, R454). -/
def execDormantCmdExit (s : State) : Ans :=
  finish (if !mgmtReady s then reply s 0x3F 0x03 ccNotReady []
    else
      match askWake s with
      | (false, s) => reply s 0x3F 0x03 ccOk []
      | (true, s) => reply s 0x3F 0x03 ccRefused [])

/-- PROVISION_IDENTITY (R454): accepted while no IDENTITY slot was found, for a certificate of the DIK that chains to the root. -/
def execProvisionIdentity (cert : List (BitVec 8)) (s : State) : Ans :=
  finish (if !mgmtReady s && !haltedOther s then reply s 0x3F 0x04 ccNotReady []
    else if fb s F.PSTORE_REC_DEFAULTED 0 && decide (cert.length ≤ 1024) && fit 32 (Config.certKey cert) == dikPub && Config.certRooted cert then
      reply (queueStore (updKe s fun e => { e with cert := cert }) 1) 0x3F 0x04 ccOk []
    else reply s 0x3F 0x04 ccInvalid [])

/-- GET_DIK (R454). -/
def execGetDik (s : State) : Ans := finish (reply s 0x3F 0x05 ccOk dikPub)

/-- SENSOR_READ (R454): the latest reading of a PLDM sensor, a free value where none has been taken; sensors 27 and 28 are thermistors that no command reads. -/
def execSensorRead (n : Nat) (s : State) : Ans :=
  finish (if n = 0 ∨ 28 < n then reply s 0x02 0x11 0x80 []
    else
      match SMap.find s.om.sensors n with
      | some v => reply s 0x02 0x11 ccOk (bytesOf 4 v)
      | none =>
        let (w, s) := drawFree s
        reply s 0x02 0x11 ccOk (bytesOf 4 w.toNat))

/-! ### Power requests (R456) -/

/-- A pulse on PWR_CYC_REQ_N (MG-7) or PWR_OFF_REQ_N (MG-8): low, then high again after 100 ms. -/
def pulse (s : State) (r : PowerReq) : State :=
  let pin := if r.off then 8 else 7
  let s := updOm s fun o => { o with power := some { r with at_ := mer s, pulses := r.pulses + 1 } }
  { s with outs := s.outs ++ [.pin pin 0, .pin pin 1] }

/-- POWER_REQ_DRIVE (R456): after the record is stored, or 100 ms after the request. -/
def execPowerReqDrive (s : State) : Ans :=
  finish (match s.om.power with
    | none => s
    | some r =>
      if r.pulses ≠ 0 then s
      else
        let s := if s.om.pend.contains 8 then advanceToNs s (r.at_ + 100000000) else s
        pulse s r)

/-- POWER_REQ_REPULSE (R456): 5 s after a pulse with VIN still present, up to three pulses. -/
def execPowerReqRepulse (s : State) : Ans :=
  finish (match s.om.power with
    | none => s
    | some r => if r.pulses = 0 ∨ 3 ≤ r.pulses then s else pulse (advanceToNs s (r.at_ + 5000000000)) r)

end Sys2Proof.Machine
end

