-- ==== Sys2Proof/Machine/Scalar.lean ====
section
/-! DEFINITION. Scalar and branch instructions (R100 to R103). -/

namespace Sys2Proof.Machine

/-- Leading zeros of a word. -/
def clz (v : Word) : Nat := if v = 0 then 64 else 63 - Nat.log2 v.toNat

/-- Trailing zeros of a word. -/
def ctz (v : Word) : Nat := ((List.range 64).find? fun k => bitOf v k).getD 64

/-- The number of 1 bits of a word. -/
def popc (v : Word) : Nat := countIf (bitOf v) (List.range 64)

/-- The result of an ALU function (Table 4.7), none where the table does not list it. -/
def aluOp (fn : Nat) (a b : Word) : Option Word :=
  let sh := b.toNat % 64
  match fn with
  | 0x000 => some (a + b)
  | 0x001 => some (a - b)
  | 0x002 => some (a &&& b)
  | 0x003 => some (a ||| b)
  | 0x004 => some (a ^^^ b)
  | 0x005 => some (a <<< sh)
  | 0x006 => some (a >>> sh)
  | 0x007 => some (a.sshiftRight sh)
  | 0x008 => some (a * b)
  | 0x009 => some (BitVec.ofInt 64 (a.toInt * b.toInt / 2 ^ 64))
  | 0x00A => some (BitVec.ofNat 64 (a.toNat * b.toNat / 2 ^ 64))
  | 0x00B => some (if b.toInt < a.toInt then b else a)
  | 0x00C => some (if a.toInt < b.toInt then b else a)
  | 0x00D => some (if b.toNat < a.toNat then b else a)
  | 0x00E => some (if a.toNat < b.toNat then b else a)
  | 0x00F => some (BitVec.ofNat 64 (clz a))
  | 0x010 => some (BitVec.ofNat 64 (ctz a))
  | 0x011 => some (BitVec.ofNat 64 (popc a))
  | _ => none

/-- Whether an ALU function reads ra only. -/
def aluUnary (fn : Nat) : Bool := decide (0x00F ≤ fn) && decide (fn ≤ 0x011)

/-- The latency of an ALU result (Table 4.14). -/
def aluLatency (fn : Nat) : Nat := if 0x008 ≤ fn ∧ fn ≤ 0x00A then 3 else if aluUnary fn then 2 else 1

/-- ALU (R100). -/
def execAlu (c : CoreRef) (i : FmtR) (s : State) : Ans :=
  let fn := i.fn.toNat
  regOp s c .both [kG i.ra.toNat, kG i.rb.toNat] 1
    (fun _ => chk (aluOp fn 0 0).isNone 0x02 ++ rsv (aluUnary fn && decide (i.rb ≠ 0)))
    fun k t => k.setG i.rd.toNat ((aluOp fn (k.gr i.ra.toNat) (k.gr i.rb.toNat)).getD 0) (t + aluLatency fn)

/-- An instruction rd := f(ra) with a latency of one cycle. -/
def immOp (s : State) (c : CoreRef) (i : FmtI) (bad : Bool) (f : Word → Word) : Ans :=
  regOp s c .both [kG i.ra.toNat] 1 (fun _ => rsv bad) fun k t => k.setG i.rd.toNat (f (k.gr i.ra.toNat)) (t + 1)

/-- ADDI (R101). -/
def execAddi (c : CoreRef) (i : FmtI) (s : State) : Ans := immOp s c i false fun a => a + i.imm.signExtend 64

/-- ANDI (R101). -/
def execAndi (c : CoreRef) (i : FmtI) (s : State) : Ans := immOp s c i false fun a => a &&& i.imm.setWidth 64

/-- ORI (R101). -/
def execOri (c : CoreRef) (i : FmtI) (s : State) : Ans := immOp s c i false fun a => a ||| i.imm.setWidth 64

/-- XORI (R101). -/
def execXori (c : CoreRef) (i : FmtI) (s : State) : Ans := immOp s c i false fun a => a ^^^ i.imm.setWidth 64

/-- SHI's result: kind in bits 7..6, amount in bits 5..0 (Table 4.8). -/
def shiOp (imm : BitVec 16) (a : Word) : Word :=
  let n := getBits imm 5 0
  match getBits imm 7 6 with
  | 0 => a <<< n
  | 1 => a >>> n
  | 2 => a.sshiftRight n
  | _ => a.rotateRight n

/-- SHI (R101). -/
def execShi (c : CoreRef) (i : FmtI) (s : State) : Ans := immOp s c i (decide (getBits i.imm 15 8 ≠ 0)) (shiOp i.imm)

/-- IMMC (R101). -/
def execImmc (c : CoreRef) (i : FmtI) (s : State) : Ans := immOp s c i false fun a => (a <<< 16) ||| i.imm.setWidth 64

/-- A comparison (Table 4.8): 0 EQ, 1 NE, 2 LT, 3 GE, 4 LTU, 5 GEU. -/
def cmpOp (cond : Nat) (a b : Word) : Option Bool :=
  match cond with
  | 0 => some (decide (a = b))
  | 1 => some (decide (a ≠ b))
  | 2 => some (decide (a.toInt < b.toInt))
  | 3 => some (decide (b.toInt ≤ a.toInt))
  | 4 => some (decide (a.toNat < b.toNat))
  | 5 => some (decide (b.toNat ≤ a.toNat))
  | _ => none

/-- A predicate value with every bit alike (R91). -/
def allBits (b : Bool) : Word := if b then BitVec.allOnes 64 else 0

/-- CMP (R101). -/
def execCmp (c : CoreRef) (i : FmtR) (s : State) : Ans :=
  let cond := getBits i.fn 2 0
  regOp s c .both [kG i.ra.toNat, kG i.rb.toNat] 1
    (fun _ => chk (cmpOp cond 0 0).isNone 0x02 ++ rsv (decide (getBits i.fn 10 3 ≠ 0) || decide (getBits i.rd 1 0 ≠ 0)))
    fun k t => k.setP (getBits i.rd 4 2) (allBits ((cmpOp cond (k.gr i.ra.toNat) (k.gr i.rb.toNat)).getD false)) (t + 1)

/-- CMPI's condition code as one of CMP's (Table 4.8): EQ, NE, LT, LTU. -/
def cmpiCond (x : Nat) : Nat := if x = 3 then 4 else x

/-- CMPI (R101). -/
def execCmpi (c : CoreRef) (i : FmtI) (s : State) : Ans :=
  regOp s c .both [kG i.ra.toNat] 1 (fun _ => [])
    fun k t => k.setP (getBits i.rd 4 2)
      (allBits ((cmpOp (cmpiCond (getBits i.rd 1 0)) (k.gr i.ra.toNat) (i.imm.signExtend 64)).getD false)) (t + 1)

/-- PAND, POR, PXOR, PANDN (Table 4.8). -/
def prdOp (op : Nat) (a b : Word) : Word :=
  match op with
  | 0 => a &&& b
  | 1 => a ||| b
  | 2 => a ^^^ b
  | _ => a &&& ~~~ b

/-- PRD logic (R101). -/
def execPrdLogic (c : CoreRef) (op : BitVec 2) (rd ra rb : BitVec 5) (s : State) : Ans :=
  regOp s c .both [kP (getBits ra 2 0), kP (getBits rb 2 0)] 1
    (fun _ => rsv (decide (getBits rd 1 0 ≠ 0) || decide (getBits ra 4 3 ≠ 0) || decide (getBits rb 4 3 ≠ 0)))
    fun k t => k.setP (getBits rd 4 2) (prdOp op.toNat (k.pr (getBits ra 2 0)) (k.pr (getBits rb 2 0))) (t + 1)

/-- PFROMG (R101). -/
def execPfromg (c : CoreRef) (rd ra rb : BitVec 5) (s : State) : Ans :=
  regOp s c .both [kG ra.toNat] 1 (fun _ => rsv (decide (getBits rd 1 0 ≠ 0) || decide (rb ≠ 0)))
    fun k t => k.setP (getBits rd 4 2) (k.gr ra.toNat) (t + 1)

/-- PTOG (R101). -/
def execPtog (c : CoreRef) (rd ra rb : BitVec 5) (s : State) : Ans :=
  regOp s c .both [kP (getBits ra 2 0)] 1 (fun _ => rsv (decide (getBits ra 4 3 ≠ 0) || decide (rb ≠ 0)))
    fun k t => k.setG rd.toNat (k.pr (getBits ra 2 0)) (t + 1)

/-- SEL (R101). -/
def execSel (c : CoreRef) (i : FmtR) (s : State) : Ans :=
  let p := getBits i.fn 2 0
  regOp s c .both [kG i.ra.toNat, kG i.rb.toNat, kP p] 1 (fun _ => rsv (decide (getBits i.fn 10 3 ≠ 0)))
    fun k t => k.setG i.rd.toNat (if bitOf (k.pr p) 0 then k.gr i.ra.toNat else k.gr i.rb.toNat) (t + 1)

/-! ### Branches -/

/-- A branch target: the PC plus four times a signed offset (R102). -/
def branchTarget {w : Nat} (pc : Word) (off : BitVec w) : Word := pc + 4 * off.signExtend 64

/-- A branch instruction: its effect on the core moves the PC itself. -/
def branchOp (s : State) (c : CoreRef) (srcs : List Nat) (checks : Core → List (Nat × Word)) (f : Core → Nat → Core) : Ans :=
  runOp s c .both srcs (fun s _ => checks (coreAt s c)) fun s i => some (updCore s c fun k => f k i.t)

/-- BR (R102). -/
def execBr (c : CoreRef) (i : FmtB) (s : State) : Ans :=
  branchOp s c [kP i.p.toNat] (fun _ => [])
    fun k t => if bitOf (k.pr i.p.toNat) 0 != bitOf i.neg 0 then k.jump (branchTarget k.pc i.soff) (t + 3) else k.fall (k.pc + 4) (t + 1)

/-- JAL (R102). -/
def execJal (c : CoreRef) (i : FmtJ) (s : State) : Ans :=
  branchOp s c [] (fun _ => [])
    fun k t => (k.setG i.rd.toNat (k.pc + 4) (t + 1)).jump (branchTarget k.pc i.soff) (t + 3)

/-- JALR (R102): the jump uses the old value of ra. -/
def execJalr (c : CoreRef) (i : FmtI) (s : State) : Ans :=
  branchOp s c [kG i.ra.toNat] (fun _ => [])
    fun k t => (k.setG i.rd.toNat (k.pc + 4) (t + 1)).jump ((k.gr i.ra.toNat + i.imm.signExtend 64) &&& ~~~ 3#64) (t + 3)

/-- LOOP (R103): a count of 0 skips the body. -/
def execLoop (c : CoreRef) (i : FmtI) (s : State) : Ans :=
  branchOp s c [kG i.ra.toNat]
    (fun k => rsv (decide (i.rd ≠ 0) || decide (i.imm = 0)) ++ chk (decide (4 ≤ k.loops.length)) 0x0B)
    fun k t =>
      let after := k.pc + 4 + 4 * i.imm.setWidth 64
      let n := (k.gr i.ra.toNat).toNat
      if n = 0 then k.fall after (t + 1)
      else { k with pc := k.pc + 4, loops := { first := k.pc + 4, after := after, left := n } :: k.loops, readyAt := t + 1 }

end Sys2Proof.Machine
end

