-- ==== Sys2Proof/Machine/Dispatch.lean ====
section
/-! DEFINITION. The effect of each command on everything but the queue: one arm per constructor of Instr. -/

namespace Sys2Proof.Machine

/-- The effect of command `i` on the machine. -/
def exec (i : Instr) (s : State) : Host.Outcome State Fault Refusal :=
  match i with
  | .registerWrite f off size v => Sys2Proof.Machine.execRegisterWrite f off size v s
  | .sectionApplyGo f v => Sys2Proof.Machine.execSectionApplyGo f v s
  | .sectionApplyStart => Sys2Proof.Machine.execSectionApplyStart s
  | .sectionApplyComplete => Sys2Proof.Machine.execSectionApplyComplete s
  | .tickBoundary => Sys2Proof.Machine.execTickBoundary s
  | .tickSwitchArm f v => Sys2Proof.Machine.execTickSwitchArm f v s
  | .tickSwitchCancel f => Sys2Proof.Machine.execTickSwitchCancel f s
  | .tickCtlWrite f v => Sys2Proof.Machine.execTickCtlWrite f v s
  | .sqTailDoorbell f q v => Sys2Proof.Machine.execSqTailDoorbell f q v s
  | .cqHeadDoorbell f q v => Sys2Proof.Machine.execCqHeadDoorbell f q v s
  | .graphHeaderFetch => Sys2Proof.Machine.execGraphHeaderFetch s
  | .graphValidate => Sys2Proof.Machine.execGraphValidate s
  | .sqCtlWrite f q v => Sys2Proof.Machine.execSqCtlWrite f q v s
  | .cqCtlWrite f q v => Sys2Proof.Machine.execCqCtlWrite f q v s
  | .slotGrant => Sys2Proof.Machine.execSlotGrant s
  | .admission => Sys2Proof.Machine.execAdmission s
  | .taskLaunch slot => Sys2Proof.Machine.execTaskLaunch slot s
  | .taskEndEvent slot => Sys2Proof.Machine.execTaskEndEvent slot s
  | .regionResetComplete slot => Sys2Proof.Machine.execRegionResetComplete slot s
  | .completionRecordWrite q => Sys2Proof.Machine.execCompletionRecordWrite q s
  | .gateValueWrite f p g v => Sys2Proof.Machine.execGateValueWrite f p g v s
  | .gateAdd f v => Sys2Proof.Machine.execGateAdd f v s
  | .graphCancel f v => Sys2Proof.Machine.execGraphCancel f v s
  | .admitCtlWrite f v => Sys2Proof.Machine.execAdmitCtlWrite f v s
  | .alu c x => Sys2Proof.Machine.execAlu c x s
  | .addi c x => Sys2Proof.Machine.execAddi c x s
  | .andi c x => Sys2Proof.Machine.execAndi c x s
  | .ori c x => Sys2Proof.Machine.execOri c x s
  | .xori c x => Sys2Proof.Machine.execXori c x s
  | .shi c x => Sys2Proof.Machine.execShi c x s
  | .immc c x => Sys2Proof.Machine.execImmc c x s
  | .cmp c x => Sys2Proof.Machine.execCmp c x s
  | .cmpi c x => Sys2Proof.Machine.execCmpi c x s
  | .prdLogic c op rd ra rb => Sys2Proof.Machine.execPrdLogic c op rd ra rb s
  | .pfromg c rd ra rb => Sys2Proof.Machine.execPfromg c rd ra rb s
  | .ptog c rd ra rb => Sys2Proof.Machine.execPtog c rd ra rb s
  | .sel c x => Sys2Proof.Machine.execSel c x s
  | .br c x => Sys2Proof.Machine.execBr c x s
  | .jal c x => Sys2Proof.Machine.execJal c x s
  | .jalr c x => Sys2Proof.Machine.execJalr c x s
  | .loop c x => Sys2Proof.Machine.execLoop c x s
  | .ld c x => Sys2Proof.Machine.execLd c x s
  | .st c x => Sys2Proof.Machine.execSt c x s
  | .wld c x => Sys2Proof.Machine.execWld c x s
  | .wst c x => Sys2Proof.Machine.execWst c x s
  | .dld c x => Sys2Proof.Machine.execDld c x s
  | .dst c x => Sys2Proof.Machine.execDst c x s
  | .dset c rd ra rb word hi => Sys2Proof.Machine.execDset c rd ra rb word hi s
  | .dget c rd ra rb word hi => Sys2Proof.Machine.execDget c rd ra rb word hi s
  | .stopFill c rd ra rb => Sys2Proof.Machine.execStopFill c rd ra rb s
  | .stopCopy c rd ra rb => Sys2Proof.Machine.execStopCopy c rd ra rb s
  | .storeEngineComplete tile => Sys2Proof.Machine.execStoreEngineComplete tile s
  | .vop c x => Sys2Proof.Machine.execVop c x s
  | .vfma c x => Sys2Proof.Machine.execVfma c x s
  | .vcmp c x => Sys2Proof.Machine.execVcmp c x s
  | .vsel c x => Sys2Proof.Machine.execVsel c x s
  | .vcvt c x => Sys2Proof.Machine.execVcvt c x s
  | .vsfu c x => Sys2Proof.Machine.execVsfu c x s
  | .vred c x => Sys2Proof.Machine.execVred c x s
  | .vqnt c x => Sys2Proof.Machine.execVqnt c x s
  | .vsmxStep c x => Sys2Proof.Machine.execVsmxStep c x s
  | .vsmxReset c x => Sys2Proof.Machine.execVsmxReset c x s
  | .vsmxReadM c x => Sys2Proof.Machine.execVsmxReadM c x s
  | .vsmxReadS c x => Sys2Proof.Machine.execVsmxReadS c x s
  | .vzero c x => Sys2Proof.Machine.execVzero c x s
  | .vcopy c x => Sys2Proof.Machine.execVcopy c x s
  | .vbcast c x => Sys2Proof.Machine.execVbcast c x s
  | .vext c x => Sys2Proof.Machine.execVext c x s
  | .vins c x => Sys2Proof.Machine.execVins c x s
  | .vint c x => Sys2Proof.Machine.execVint c x s
  | .accrd c x => Sys2Proof.Machine.execAccrd c x s
  | .mma c x => Sys2Proof.Machine.execMma c x s
  | .mmaComplete tile => Sys2Proof.Machine.execMmaComplete tile s
  | .mdrain c x => Sys2Proof.Machine.execMdrain c x s
  | .mdrainComplete tile => Sys2Proof.Machine.execMdrainComplete tile s
  | .snchk c x => Sys2Proof.Machine.execSnchk c x s
  | .sentinelTrip tile => Sys2Proof.Machine.execSentinelTrip tile s
  | .dout c x => Sys2Proof.Machine.execDout c x s
  | .din c x => Sys2Proof.Machine.execDin c x s
  | .dwait c t => Sys2Proof.Machine.execDwait c t s
  | .dwaitExpire c => Sys2Proof.Machine.execDwaitExpire c s
  | .hget c x => Sys2Proof.Machine.execHget c x s
  | .hput c x => Sys2Proof.Machine.execHput c x s
  | .haulRequestComplete c id err => Sys2Proof.Machine.execHaulRequestComplete c id err s
  | .fenceStore c rd ra hi => Sys2Proof.Machine.execFenceStore c rd ra hi s
  | .fenceHaul c rd ra hi => Sys2Proof.Machine.execFenceHaul c rd ra hi s
  | .fenceRemote c rd ra hi => Sys2Proof.Machine.execFenceRemote c rd ra hi s
  | .fenceCmd c rd ra hi => Sys2Proof.Machine.execFenceCmd c rd ra hi s
  | .fenceHaulCount c rd ra hi => Sys2Proof.Machine.execFenceHaulCount c rd ra hi s
  | .msgSend c rd ra rb hi => Sys2Proof.Machine.execMsgSend c rd ra rb hi s
  | .msgReq c rd ra rb hi => Sys2Proof.Machine.execMsgReq c rd ra rb hi s
  | .msgReply c rd ra rb hi => Sys2Proof.Machine.execMsgReply c rd ra rb hi s
  | .msgRecv c rd ra rb x => Sys2Proof.Machine.execMsgRecv c rd ra rb x s
  | .msgStat c rd ra rb hi => Sys2Proof.Machine.execMsgStat c rd ra rb hi s
  | .msgCount c rd ra rb hi => Sys2Proof.Machine.execMsgCount c rd ra rb hi s
  | .seamFetchIssue c rd ra rb => Sys2Proof.Machine.execSeamFetchIssue c rd ra rb s
  | .seamAppendIssue c rd ra rb => Sys2Proof.Machine.execSeamAppendIssue c rd ra rb s
  | .seamControlIssue c rd ra rb => Sys2Proof.Machine.execSeamControlIssue c rd ra rb s
  | .assayQueryIssue c rd ra rb => Sys2Proof.Machine.execAssayQueryIssue c rd ra rb s
  | .taskNop c rd ra rb => Sys2Proof.Machine.execTaskNop c rd ra rb s
  | .tend c rd ra rb => Sys2Proof.Machine.execTend c rd ra rb s
  | .taskGate c rd ra rb => Sys2Proof.Machine.execTaskGate c rd ra rb s
  | .trap c rd ra rb => Sys2Proof.Machine.execTrap c rd ra rb s
  | .csrRead c rd ra csr => Sys2Proof.Machine.execCsrRead c rd ra csr s
  | .csrWrite c rd ra csr => Sys2Proof.Machine.execCsrWrite c rd ra csr s
  | .csrSet c rd ra csr => Sys2Proof.Machine.execCsrSet c rd ra csr s
  | .csrClear c rd ra csr => Sys2Proof.Machine.execCsrClear c rd ra csr s
  | .gatherEntryWrite c => Sys2Proof.Machine.execGatherEntryWrite c s
  | .remoteLineWrite tile off who mask data => Sys2Proof.Machine.execRemoteLineWrite tile off who mask data s
  | .remoteStoreRead tile off who => Sys2Proof.Machine.execRemoteStoreRead tile off who s
  | .tileScrubStep tile upset => Sys2Proof.Machine.execTileScrubStep tile upset s
  | .plFenceWrite f tile v => Sys2Proof.Machine.execPlFenceWrite f tile v s
  | .passageFail tile => Sys2Proof.Machine.execPassageFail tile s
  | .replacementLinkSelect die => Sys2Proof.Machine.execReplacementLinkSelect die s
  | .replacementInForce die => Sys2Proof.Machine.execReplacementInForce die s
  | .placeCtlWrite f v => Sys2Proof.Machine.execPlaceCtlWrite f v s
  | .seamFetch die => Sys2Proof.Machine.execSeamFetch die s
  | .seamAppend die => Sys2Proof.Machine.execSeamAppend die s
  | .controlOpen die => Sys2Proof.Machine.execControlOpen die s
  | .controlPark die => Sys2Proof.Machine.execControlPark die s
  | .controlResume die => Sys2Proof.Machine.execControlResume die s
  | .controlClose die => Sys2Proof.Machine.execControlClose die s
  | .streamFreeComplete p sid => Sys2Proof.Machine.execStreamFreeComplete p sid s
  | .controlRestore die => Sys2Proof.Machine.execControlRestore die s
  | .restoreComplete p sid ok => Sys2Proof.Machine.execRestoreComplete p sid ok s
  | .controlResync die => Sys2Proof.Machine.execControlResync die s
  | .resyncComplete p sid ok => Sys2Proof.Machine.execResyncComplete p sid ok s
  | .controlQuery die => Sys2Proof.Machine.execControlQuery die s
  | .seamHqTailWrite f p v => Sys2Proof.Machine.execSeamHqTailWrite f p v s
  | .seamHqEntryFetch p => Sys2Proof.Machine.execSeamHqEntryFetch p s
  | .seamHqCtlWrite f p v => Sys2Proof.Machine.execSeamHqCtlWrite f p v s
  | .seamCtlWrite f p v => Sys2Proof.Machine.execSeamCtlWrite f p v s
  | .seamLeaseCfgWrite f p x v => Sys2Proof.Machine.execSeamLeaseCfgWrite f p x v s
  | .leaseHeaderWrite p x => Sys2Proof.Machine.execLeaseHeaderWrite p x s
  | .seamContrailCtlWrite f p v => Sys2Proof.Machine.execSeamContrailCtlWrite f p v s
  | .seamRemoteCfgWrite f p x v => Sys2Proof.Machine.execSeamRemoteCfgWrite f p x v s
  | .partnerCheckComplete p hdr => Sys2Proof.Machine.execPartnerCheckComplete p hdr s
  | .tieringScan die => Sys2Proof.Machine.execTieringScan die s
  | .frameMoveComplete p sid leaf ok => Sys2Proof.Machine.execFrameMoveComplete p sid leaf ok s
  | .contrailAck p id ok => Sys2Proof.Machine.execContrailAck p id ok s
  | .contrailTimeout p id => Sys2Proof.Machine.execContrailTimeout p id s
  | .assayQuery die => Sys2Proof.Machine.execAssayQuery die s
  | .assayCtlWrite f p v => Sys2Proof.Machine.execAssayCtlWrite f p v s
  | .flitEntry ring at_ arriving fl => Sys2Proof.Machine.execFlitEntry ring at_ arriving fl s
  | .flitArrival ring ix room seen => Sys2Proof.Machine.execFlitArrival ring ix room seen s
  | .haulTimeout c what => Sys2Proof.Machine.execHaulTimeout c what s
  | .mcastReturn id miss => Sys2Proof.Machine.execMcastReturn id miss s
  | .mcastReturnTimeout m => Sys2Proof.Machine.execMcastReturnTimeout m s
  | .ageBeaconLap die ix => Sys2Proof.Machine.execAgeBeaconLap die ix s
  | .msgArrival ix => Sys2Proof.Machine.execMsgArrival ix s
  | .msgOutcome ix => Sys2Proof.Machine.execMsgOutcome ix s
  | .memRead dev off who met => Sys2Proof.Machine.execMemRead dev off who met s
  | .memWrite dev off mask x => Sys2Proof.Machine.execMemWrite dev off mask x s
  | .memScrubStep dev upset => Sys2Proof.Machine.execMemScrubStep dev upset s
  | .softRepairComplete dev row => Sys2Proof.Machine.execSoftRepairComplete dev row s
  | .portEnWrite f n v => Sys2Proof.Machine.execPortEnWrite f n v s
  | .portRetrainWrite f n v => Sys2Proof.Machine.execPortRetrainWrite f n v s
  | .detectDone n lanes => Sys2Proof.Machine.execDetectDone n lanes s
  | .detectTimeout n lanes => Sys2Proof.Machine.execDetectTimeout n lanes s
  | .equalizeDone n lanes => Sys2Proof.Machine.execEqualizeDone n lanes s
  | .equalizeTimeout n lanes => Sys2Proof.Machine.execEqualizeTimeout n lanes s
  | .laneCheckDone n errs => Sys2Proof.Machine.execLaneCheckDone n errs s
  | .configDone n partner => Sys2Proof.Machine.execConfigDone n partner s
  | .alignLock n => Sys2Proof.Machine.execAlignLock n s
  | .alignTimeout n => Sys2Proof.Machine.execAlignTimeout n s
  | .retrainDone n errs partner lock => Sys2Proof.Machine.execRetrainDone n errs partner lock s
  | .laneLoss n lane => Sys2Proof.Machine.execLaneLoss n lane s
  | .linkBlockRx n b => Sys2Proof.Machine.execLinkBlockRx n b s
  | .replayTimeout n => Sys2Proof.Machine.execReplayTimeout n s
  | .backgroundRound n => Sys2Proof.Machine.execBackgroundRound n s
  | .backgroundRoundEnd n errs partner => Sys2Proof.Machine.execBackgroundRoundEnd n errs partner s
  | .widthProposalAck n => Sys2Proof.Machine.execWidthProposalAck n s
  | .widthProposalLapse n => Sys2Proof.Machine.execWidthProposalLapse n s
  | .pauseDone n lock lane => Sys2Proof.Machine.execPauseDone n lock lane s
  | .rdReqReceive n pk auth => Sys2Proof.Machine.execRdReqReceive n pk auth s
  | .wrReqReceive n pk auth => Sys2Proof.Machine.execWrReqReceive n pk auth s
  | .rdRespReceive n pk auth => Sys2Proof.Machine.execRdRespReceive n pk auth s
  | .wrCmpReceive n pk auth => Sys2Proof.Machine.execWrCmpReceive n pk auth s
  | .collDataReceive n pk auth => Sys2Proof.Machine.execCollDataReceive n pk auth s
  | .collAckReceive n pk auth => Sys2Proof.Machine.execCollAckReceive n pk auth s
  | .heraldResetReceive n pk => Sys2Proof.Machine.execHeraldResetReceive n pk s
  | .heraldReturnReceive n pk => Sys2Proof.Machine.execHeraldReturnReceive n pk s
  | .opRetryTimeout op => Sys2Proof.Machine.execOpRetryTimeout op s
  | .exclusionExpire dev plane => Sys2Proof.Machine.execExclusionExpire dev plane s
  | .beaconExchange => Sys2Proof.Machine.execBeaconExchange s
  | .beaconRespReceive n pk => Sys2Proof.Machine.execBeaconRespReceive n pk s
  | .meridianDiscipline => Sys2Proof.Machine.execMeridianDiscipline s
  | .portDevidWrite f p v => Sys2Proof.Machine.execPortDevidWrite f p v s
  | .collTableWrite f p v => Sys2Proof.Machine.execCollTableWrite f p v s
  | .hostLinkDown => Sys2Proof.Machine.execHostLinkDown s
  | .hostLinkUp gen width => Sys2Proof.Machine.execHostLinkUp gen width s
  | .hostLinkRetrain gen width => Sys2Proof.Machine.execHostLinkRetrain gen width s
  | .perstAssert => Sys2Proof.Machine.execPerstAssert s
  | .functionLevelReset f => Sys2Proof.Machine.execFunctionLevelReset f s
  | .bar2Read f off len => Sys2Proof.Machine.execBar2Read f off len s
  | .bar2Write f off bytes => Sys2Proof.Machine.execBar2Write f off bytes s
  | .dmaDoorbell f r v => Sys2Proof.Machine.execDmaDoorbell f r v s
  | .dmaDescStart r => Sys2Proof.Machine.execDmaDescStart r s
  | .dmaDescComplete r h => Sys2Proof.Machine.execDmaDescComplete r h s
  | .hostDmaCtlWrite f r v => Sys2Proof.Machine.execHostDmaCtlWrite f r v s
  | .msixModTimeout f vec => Sys2Proof.Machine.execMsixModTimeout f vec s
  | .msixUnmask f vec => Sys2Proof.Machine.execMsixUnmask f vec s
  | .shadowGo f p v => Sys2Proof.Machine.execShadowGo f p v s
  | .shadowDiverge p a b cycle => Sys2Proof.Machine.execShadowDiverge p a b cycle s
  | .shadowCompareComplete p => Sys2Proof.Machine.execShadowCompareComplete p s
  | .prospectDue die => Sys2Proof.Machine.execProspectDue die s
  | .prospectTestEnd die pass mem off => Sys2Proof.Machine.execProspectTestEnd die pass mem off s
  | .prospectNominate f v => Sys2Proof.Machine.execProspectNominate f v s
  | .prospectCtlWrite f v => Sys2Proof.Machine.execProspectCtlWrite f v s
  | .errorRecordWrite => Sys2Proof.Machine.execErrorRecordWrite s
  | .logHeadWrite f log v => Sys2Proof.Machine.execLogHeadWrite f log v s
  | .logCtlWrite f log v => Sys2Proof.Machine.execLogCtlWrite f log v s
  | .engineWatchdog kind ix => Sys2Proof.Machine.execEngineWatchdog kind ix s
  | .engineResetReq f v => Sys2Proof.Machine.execEngineResetReq f v s
  | .engineResetComplete kind ix => Sys2Proof.Machine.execEngineResetComplete kind ix s
  | .escalationTimeout lvl => Sys2Proof.Machine.execEscalationTimeout lvl s
  | .partitionResetReq f v => Sys2Proof.Machine.execPartitionResetReq f v s
  | .partitionFence p => Sys2Proof.Machine.execPartitionFence p s
  | .partitionDrainEnd p => Sys2Proof.Machine.execPartitionDrainEnd p s
  | .partitionResetComplete p => Sys2Proof.Machine.execPartitionResetComplete p s
  | .resetRelease f v => Sys2Proof.Machine.execResetRelease f v s
  | .deviceResetReq f v => Sys2Proof.Machine.execDeviceResetReq f v s
  | .fastPathStepEnd v => Sys2Proof.Machine.execFastPathStepEnd v s
  | .powerCycleReq f v => Sys2Proof.Machine.execPowerCycleReq f v s
  | .overmanHeartbeat => Sys2Proof.Machine.execOvermanHeartbeat s
  | .overmanFailover => Sys2Proof.Machine.execOvermanFailover s
  | .overmanSwitch f v => Sys2Proof.Machine.execOvermanSwitch f v s
  | .rejoinGo f p v => Sys2Proof.Machine.execRejoinGo f p v s
  | .rejoinAbort f p v => Sys2Proof.Machine.execRejoinAbort f p v s
  | .rejoinModeWrite f p v => Sys2Proof.Machine.execRejoinModeWrite f p v s
  | .rejoinSelfTestEnd p entries => Sys2Proof.Machine.execRejoinSelfTestEnd p entries s
  | .rejoinWeightsEnd p ok => Sys2Proof.Machine.execRejoinWeightsEnd p ok s
  | .rejoinStreamsEnd p => Sys2Proof.Machine.execRejoinStreamsEnd p s
  | .fwCommit f v => Sys2Proof.Machine.execFwCommit f v s
  | .stageGo f v => Sys2Proof.Machine.execStageGo f v s
  | .stageComplete => Sys2Proof.Machine.execStageComplete s
  | .attestGo f v => Sys2Proof.Machine.execAttestGo f v s
  | .attestComplete => Sys2Proof.Machine.execAttestComplete s
  | .confWrite f p v => Sys2Proof.Machine.execConfWrite f p v s
  | .confChangeComplete p => Sys2Proof.Machine.execConfChangeComplete p s
  | .sessOpen f p v => Sys2Proof.Machine.execSessOpen f p v s
  | .sessComplete f p v => Sys2Proof.Machine.execSessComplete f p v s
  | .sessClose f p v => Sys2Proof.Machine.execSessClose f p v s
  | .sessOverlapExpire p slot => Sys2Proof.Machine.execSessOverlapExpire p slot s
  | .sessCounterLimit p slot => Sys2Proof.Machine.execSessCounterLimit p slot s
  | .sealImportGo f p v => Sys2Proof.Machine.execSealImportGo f p v s
  | .sealExportGo f p v => Sys2Proof.Machine.execSealExportGo f p v s
  | .sealComplete p => Sys2Proof.Machine.execSealComplete p s
  | .inputInRange => Sys2Proof.Machine.execInputInRange s
  | .railSequenceMiss rail => Sys2Proof.Machine.execRailSequenceMiss rail s
  | .coldBootPhaseEnd v => Sys2Proof.Machine.execColdBootPhaseEnd v s
  | .selfTestComplete die entries => Sys2Proof.Machine.execSelfTestComplete die entries s
  | .pstoreSlotWrite ty readBackOk => Sys2Proof.Machine.execPstoreSlotWrite ty readBackOk s
  | .pstoreXferGo f v => Sys2Proof.Machine.execPstoreXferGo f v s
  | .pstoreXferComplete => Sys2Proof.Machine.execPstoreXferComplete s
  | .refMonitorWindow host fabric => Sys2Proof.Machine.execRefMonitorWindow host fabric s
  | .fallbackTrim ppm => Sys2Proof.Machine.execFallbackTrim ppm s
  | .clkTimeSetWrite f v => Sys2Proof.Machine.execClkTimeSetWrite f v s
  | .railExcursion rail mv => Sys2Proof.Machine.execRailExcursion rail mv s
  | .thermalSample junctions hbm => Sys2Proof.Machine.execThermalSample junctions hbm s
  | .powerPolicyUpdate inMw outMw tileMw => Sys2Proof.Machine.execPowerPolicyUpdate inMw outMw tileMw s
  | .dormantEnter f v => Sys2Proof.Machine.execDormantEnter f v s
  | .dormantEntryComplete => Sys2Proof.Machine.execDormantEntryComplete s
  | .dormantExit f v => Sys2Proof.Machine.execDormantExit f v s
  | .wakeComplete us => Sys2Proof.Machine.execWakeComplete us s
  | .pwPrsntRemoved => Sys2Proof.Machine.execPwPrsntRemoved s
  | .mgmtResetAssert => Sys2Proof.Machine.execMgmtResetAssert s
  | .entdaa addr => Sys2Proof.Machine.execEntdaa addr s
  | .setdasa stat dyn => Sys2Proof.Machine.execSetdasa stat dyn s
  | .getStatus => Sys2Proof.Machine.execGetStatus s
  | .mgmtReset level => Sys2Proof.Machine.execMgmtReset level s
  | .dormantCmdEnter => Sys2Proof.Machine.execDormantCmdEnter s
  | .dormantCmdExit => Sys2Proof.Machine.execDormantCmdExit s
  | .provisionIdentity cert => Sys2Proof.Machine.execProvisionIdentity cert s
  | .getDik => Sys2Proof.Machine.execGetDik s
  | .sensorRead n => Sys2Proof.Machine.execSensorRead n s
  | .powerReqDrive => Sys2Proof.Machine.execPowerReqDrive s
  | .powerReqRepulse => Sys2Proof.Machine.execPowerReqRepulse s
  | .registerRead f off size => Sys2Proof.Machine.execRegisterRead f off size s
  | .configurationWrite f w => Sys2Proof.Machine.execConfigurationWrite f w s
  | .duplicateEntryExpire src epoch op => Sys2Proof.Machine.execDuplicateEntryExpire src epoch op s
  | .memRefresh dev x => Sys2Proof.Machine.execMemRefresh dev x s
  | .illegalInstr c w => Sys2Proof.Machine.execIllegalInstr c w s

end Sys2Proof.Machine
end

