-- ==== Sys2Proof/Safety.lean ====
section
/-! DEFINITION. What a safe run keeps: no task that may become ELIGIBLE is left WAITING, and no graph that is done with is left unfinished. -/

namespace Sys2Proof.Machine

/-- A graph in step with the gates and with its tasks: while it is validated and has not failed, none of its WAITING tasks is runnable (R46, R54), and it has a finish time once it is
complete (R45). -/
def Graph.InStep (s : State) (g : Graph) : Prop :=
  (g.validated = true → g.status = none → ∀ n ∈ g.nodes, n.state = .waiting → n.runnable s g.part = false) ∧
  (g.complete = true → g.finished.isSome = true)

/-- Every graph in flight is in step. -/
def State.InStep (s : State) : Prop := ∀ g ∈ s.tge.graphs, g.InStep s

/-- Nothing is set off by a gate or a task but the TGE's own work: no collective table is enabled, no packet waits for another partition, no shadow run is in progress, and no sample record waits for a peer. -/
def State.Quiet (s : State) : Prop := s.xp.collDesc = [] ∧ s.xp.inbox = [] ∧ s.shadows = [] ∧ s.xp.samples = []

/-- The key-value pairs of the register file agree but for a list of registers' keys. -/
def RegsBut (s u : State) (keys : List Nat) : Prop := ∀ k, k ∉ keys → SMap.find u.regs k = SMap.find s.regs k

end Sys2Proof.Machine
end

