-- ==== Sys2Proof/Certificates/Slice0/Obligations.lean ====
section
/-! DEFINITION. The statements for the provers. `settled u` is the state `u` with what its changes set off (readiness, finished graphs, collectives, shadow runs; log entry 3). -/

open Sys2Proof Sys2Proof.Machine

/-! ### What the statements say of a core -/

namespace Sys2Proof.Claims

/-- The PC lies in the task's code (R102). -/
def InCode (s : State) (c : CoreRef) (i : Issue) : Prop := 128 ≤ (coreAt s c).pc.toNat ∧ (coreAt s c).pc.toNat < i.task.codeEnd

/-- Only core `c` has changed. -/
def OnlyCore (s u : State) (c : CoreRef) : Prop :=
  u = { s with cores := u.cores } ∧ ∀ k, k ≠ coreKey c → SMap.find u.cores k = SMap.find s.cores k

/-- PC and loops after an instruction that falls through to the next (R103): everything else of a core but register files and ready times is as it was. -/
def Falls (k k' : Core) (next : Word) (t : Nat) : Prop :=
  k' = { k with pc := (seqNext k.loops next).1, loops := (seqNext k.loops next).2, readyAt := t, g := k'.g, p := k'.p, d := k'.d, w := k'.w, rdy := k'.rdy }

/-- The g registers after a write of `v` to register `rd`: g0 discards it and reads 0 (R90). -/
def WroteG (k k' : Core) (rd : Nat) (v : Word) : Prop :=
  k'.gr rd = (if rd = 0 then 0 else v) ∧ ∀ r, r ≠ rd → k'.gr r = k.gr r

/-- The predicates after a write of `v` to register `pd`: p0 discards it and reads all ones (R90). -/
def WroteP (k k' : Core) (pd : Nat) (v : Word) : Prop :=
  k'.pr pd = (if pd = 0 then BitVec.allOnes 64 else v) ∧ ∀ r, r ≠ pd → k'.pr r = k.pr r

/-- The w registers after a write of `v` to register `wd`. -/
def WroteW (k k' : Core) (wd : Nat) (v : BitVec 2048) : Prop := k'.wr wd = v ∧ ∀ r, r ≠ wd → k'.wr r = k.wr r

/-- The d registers after a write of `v` to register `dd`. -/
def WroteD (k k' : Core) (dd : Nat) (v : BitVec 256) : Prop := k'.dr dd = v ∧ ∀ r, r ≠ dd → k'.dr r = k.dr r

/-- No g register has changed. -/
def SameG (k k' : Core) : Prop := ∀ r, k'.gr r = k.gr r
/-- No predicate has changed. -/
def SameP (k k' : Core) : Prop := ∀ r, k'.pr r = k.pr r
/-- No wide register has changed. -/
def SameW (k k' : Core) : Prop := ∀ r, k'.wr r = k.wr r
/-- No descriptor register has changed. -/
def SameD (k k' : Core) : Prop := ∀ r, k'.dr r = k.dr r

/-- Core `c` has written `v` to g register `rd` and goes on with the next instruction `iv` cycles after cycle `t`; nothing else has changed. -/
def GStep (s u : State) (c : CoreRef) (rd : Nat) (v : Word) (t iv : Nat) : Prop :=
  OnlyCore s u c ∧ Falls (coreAt s c) (coreAt u c) ((coreAt s c).pc + 4) (t + iv) ∧ WroteG (coreAt s c) (coreAt u c) rd v ∧
  SameP (coreAt s c) (coreAt u c) ∧ SameW (coreAt s c) (coreAt u c) ∧ SameD (coreAt s c) (coreAt u c)

/-- The same for a predicate. -/
def PStep (s u : State) (c : CoreRef) (pd : Nat) (v : Word) (t iv : Nat) : Prop :=
  OnlyCore s u c ∧ Falls (coreAt s c) (coreAt u c) ((coreAt s c).pc + 4) (t + iv) ∧ WroteP (coreAt s c) (coreAt u c) pd v ∧
  SameG (coreAt s c) (coreAt u c) ∧ SameW (coreAt s c) (coreAt u c) ∧ SameD (coreAt s c) (coreAt u c)

/-- The result of an ALU function as Table 4.7 words it, on unsigned and signed integers and on bits. -/
def AluResult (fn : Nat) (a b v : Word) : Prop :=
  match fn with
  | 0x000 => v.toNat = (a.toNat + b.toNat) % 2 ^ 64
  | 0x001 => v.toNat = (2 ^ 64 + a.toNat - b.toNat) % 2 ^ 64
  | 0x002 => ∀ k, k < 64 → v.getLsbD k = (a.getLsbD k && b.getLsbD k)
  | 0x003 => ∀ k, k < 64 → v.getLsbD k = (a.getLsbD k || b.getLsbD k)
  | 0x004 => ∀ k, k < 64 → v.getLsbD k = (a.getLsbD k ^^ b.getLsbD k)
  | 0x005 => v.toNat = a.toNat * 2 ^ (b.toNat % 64) % 2 ^ 64
  | 0x006 => v.toNat = a.toNat / 2 ^ (b.toNat % 64)
  | 0x007 => v.toInt = a.toInt / 2 ^ (b.toNat % 64)
  | 0x008 => v.toNat = a.toNat * b.toNat % 2 ^ 64
  | 0x009 => v.toInt = a.toInt * b.toInt / 2 ^ 64
  | 0x00A => v.toNat = a.toNat * b.toNat / 2 ^ 64
  | 0x00B => v.toInt = min a.toInt b.toInt
  | 0x00C => v.toInt = max a.toInt b.toInt
  | 0x00D => v.toNat = min a.toNat b.toNat
  | 0x00E => v.toNat = max a.toNat b.toNat
  | 0x00F => v.toNat ≤ 64 ∧ (∀ k, 64 ≤ k + v.toNat → a.getLsbD k = false) ∧ (v.toNat < 64 → a.getLsbD (63 - v.toNat) = true)
  | 0x010 => v.toNat ≤ 64 ∧ (∀ k, k < v.toNat → a.getLsbD k = false) ∧ (v.toNat < 64 → a.getLsbD v.toNat = true)
  | 0x011 => v.toNat = (List.range 64).countP fun k => a.getLsbD k
  | _ => False

end Sys2Proof.Claims

open Sys2Proof.Claims

/-! ### The machine as a whole -/

/-- For every command c and state s, step of s with c at the front of its queue is exec c on s with the queue's rest. With an empty queue a step answers the state one core cycle later, and nothing else
changes (the model's choice, log entry 1). -/
def Obligations.StepRunsFrontCommand : Prop :=
  (∀ (c : Instr) (rest : List Instr) (s : State), step { s with pending := c :: rest } = exec c { s with pending := rest }) ∧
  (∀ s : State, s.pending = [] → step s = .next { s with clk := { s.clk with cyc := s.clk.cyc + 1 } })

/-- State.reset has every graph in step (there is none), sets nothing off, holds no byte of memory out of canonical form and no waiting command. -/
def Obligations.ResetInStep : Prop :=
  State.reset.InStep ∧ State.reset.Quiet ∧ Memory.wf State.reset.mem = true ∧ SMap.wf State.reset.regs = true ∧ State.reset.pending = []

/-- For every state in which each graph in flight is in step (no WAITING task of a validated graph that has not failed is runnable, and every complete graph has its finish time), whatever command a step
runs, the next state is so too. -/
def Obligations.StepKeepsTasksInStep : Prop :=
  ∀ s t : State, s.InStep → step s = .next t → t.InStep

/-- For every command and every state exec answers a next state, which is some state with what it sets off, and every graph of it is in step. That no command stops the machine is the model's reading (log entry 2). -/
def Obligations.EveryCommandAnswers : Prop :=
  ∀ (c : Instr) (s : State), ∃ u : State, exec c s = .next (settled u) ∧ (settled u).InStep

/-- In a state with no collective table enabled, no packet in the inbox and no shadow run, what a command sets off changes nothing but graphs; of a graph it changes only a WAITING runnable task's state and
age and the finish time, and every byte of memory and every register read as before. -/
def Obligations.QuietSettlingFrame : Prop :=
  ∀ u : State, u.Quiet →
    settled u = { u with tge := { u.tge with graphs := (settled u).tge.graphs } } ∧
    (settled u).tge.graphs.length = u.tge.graphs.length ∧
    ∀ (k : Nat) (g g' : Graph), u.tge.graphs[k]? = some g → (settled u).tge.graphs[k]? = some g' →
      g' = { g with nodes := g'.nodes, finished := g'.finished } ∧ g'.nodes.length = g.nodes.length ∧
      (∀ (j : Nat) (n n' : Node), g.nodes[j]? = some n → g'.nodes[j]? = some n' →
        n' = n ∨ (g.validated = true ∧ g.status = none ∧ n.state = .waiting ∧ n.runnable u g.part = true ∧ n' = { n with state := .eligible, age := mer u })) ∧
      (g'.finished = g.finished ∨ (g.finished = none ∧ g'.complete = true ∧ g'.finished = some u.clk.cyc))

/-! ### Edley: scalar and branch instructions -/

/-- When an ALU instruction of a listed function issues (rb 0 for CLZ, CTZ and POPC), rd receives the result that Table 4.7 gives for ra and rb (g0 discards it), the core goes on with the next instruction, and
nothing else of the machine changes. With rb not 0, CLZ, CTZ and POPC raise RESERVED_FIELD. -/
def Obligations.AluResults : Prop :=
  ∀ (s s1 : State) (c : CoreRef) (x : FmtR) (i : Issue),
    issue? s c [kG x.ra.toNat, kG x.rb.toNat] = some (s1, i) → InCode s1 c i → x.fn.toNat ≤ 0x011 →
    ((0x00F ≤ x.fn.toNat → x.rb = 0) →
      ∃ (u : State) (v : Word), exec (.alu c x) s = .next (settled u) ∧
        AluResult x.fn.toNat ((coreAt s1 c).gr x.ra.toNat) ((coreAt s1 c).gr x.rb.toNat) v ∧ GStep s1 u c x.rd.toNat v i.t 1) ∧
    (0x00F ≤ x.fn.toNat → x.rb ≠ 0 → exec (.alu c x) s = .next (settled (raise s1 i.slot c 0x04 (coreAt s1 c).pc 0)))

/-- When one of ADDI, ANDI, ORI, XORI, SHI (imm16[15:8] zero) and IMMC issues, rd receives ra + the sign-extended immediate, ra op the zero-extended immediate, ra shifted or rotated by imm16[5:0], or
ra × 2^16 with the immediate in its low bits; the core goes on and nothing else changes. -/
def Obligations.ImmediateResults : Prop :=
  ∀ (s s1 : State) (c : CoreRef) (x : FmtI) (i : Issue),
    issue? s c [kG x.ra.toNat] = some (s1, i) → InCode s1 c i →
    let a := (coreAt s1 c).gr x.ra.toNat
    (∃ u v, exec (.addi c x) s = .next (settled u) ∧ v.toInt = (a.toInt + x.imm.toInt).bmod (2 ^ 64) ∧ GStep s1 u c x.rd.toNat v i.t 1) ∧
    (∃ u v, exec (.andi c x) s = .next (settled u) ∧ v.toNat = a.toNat &&& x.imm.toNat ∧ GStep s1 u c x.rd.toNat v i.t 1) ∧
    (∃ u v, exec (.ori c x) s = .next (settled u) ∧ v.toNat = a.toNat ||| x.imm.toNat ∧ GStep s1 u c x.rd.toNat v i.t 1) ∧
    (∃ u v, exec (.xori c x) s = .next (settled u) ∧ v.toNat = a.toNat ^^^ x.imm.toNat ∧ GStep s1 u c x.rd.toNat v i.t 1) ∧
    (∃ u v, exec (.immc c x) s = .next (settled u) ∧ v.toNat = a.toNat * 2 ^ 16 % 2 ^ 64 + x.imm.toNat ∧ GStep s1 u c x.rd.toNat v i.t 1) ∧
    (x.imm.toNat < 256 → ∃ u v, exec (.shi c x) s = .next (settled u) ∧
      (match x.imm.toNat / 64 with
       | 0 => v.toNat = a.toNat * 2 ^ (x.imm.toNat % 64) % 2 ^ 64
       | 1 => v.toNat = a.toNat / 2 ^ (x.imm.toNat % 64)
       | 2 => v.toInt = a.toInt / 2 ^ (x.imm.toNat % 64)
       | _ => ∀ k, k < 64 → v.getLsbD k = a.getLsbD ((k + x.imm.toNat % 64) % 64)) ∧ GStep s1 u c x.rd.toNat v i.t 1)

/-- When CMP with a listed condition and its zero fields, or CMPI, issues, predicate pd (bits 4..2 of the rd field) receives 64 copies of the comparison of ra with rb, or of ra with the sign-extended immediate: EQ, NE,
LT, GE, LTU, GEU for CMP and EQ, NE, LT, LTU for CMPI. With their zero fields zero, PRD logic writes pa AND, OR, XOR or AND NOT pb to pd bit by bit, PFROMG writes ra to pd, PTOG writes pa to rd, and SEL writes ra to rd
when bit 0 of its predicate is 1, else rb. Nothing else changes but that the core goes on. -/
def Obligations.ComparisonAndPredicateResults : Prop :=
  (∀ (s s1 : State) (c : CoreRef) (x : FmtR) (i : Issue),
    issue? s c [kG x.ra.toNat, kG x.rb.toNat] = some (s1, i) → InCode s1 c i → x.fn.toNat ≤ 5 → x.rd.toNat % 4 = 0 →
    let a := (coreAt s1 c).gr x.ra.toNat
    let b := (coreAt s1 c).gr x.rb.toNat
    ∃ u, exec (.cmp c x) s = .next (settled u) ∧
      PStep s1 u c (x.rd.toNat / 4)
        (if (match x.fn.toNat with
             | 0 => a = b
             | 1 => a ≠ b
             | 2 => a.toInt < b.toInt
             | 3 => b.toInt ≤ a.toInt
             | 4 => a.toNat < b.toNat
             | _ => b.toNat ≤ a.toNat : Bool) then BitVec.allOnes 64 else 0) i.t 1) ∧
  (∀ (s s1 : State) (c : CoreRef) (x : FmtI) (i : Issue),
    issue? s c [kG x.ra.toNat] = some (s1, i) → InCode s1 c i →
    let a := (coreAt s1 c).gr x.ra.toNat
    ∃ u, exec (.cmpi c x) s = .next (settled u) ∧
      PStep s1 u c (x.rd.toNat / 4)
        (if (match x.rd.toNat % 4 with
             | 0 => a.toInt = x.imm.toInt
             | 1 => a.toInt ≠ x.imm.toInt
             | 2 => a.toInt < x.imm.toInt
             | _ => a.toNat < (x.imm.signExtend 64).toNat : Bool) then BitVec.allOnes 64 else 0) i.t 1) ∧
  (∀ (s s1 : State) (c : CoreRef) (i : Issue), InCode s1 c i →
      (∀ (op : BitVec 2) (rd ra rb : BitVec 5), rd.toNat % 4 = 0 → ra.toNat < 8 → rb.toNat < 8 →
        issue? s c [kP ra.toNat, kP rb.toNat] = some (s1, i) →
        ∃ u v, exec (.prdLogic c op rd ra rb) s = .next (settled u) ∧ PStep s1 u c (rd.toNat / 4) v i.t 1 ∧
          ∀ k, k < 64 → v.getLsbD k =
            (let a := ((coreAt s1 c).pr ra.toNat).getLsbD k
             let b := ((coreAt s1 c).pr rb.toNat).getLsbD k
             match op.toNat with
             | 0 => a && b
             | 1 => a || b
             | 2 => a ^^ b
             | _ => a && !b)) ∧
      (∀ (rd ra : BitVec 5), rd.toNat % 4 = 0 → issue? s c [kG ra.toNat] = some (s1, i) →
        ∃ u, exec (.pfromg c rd ra 0) s = .next (settled u) ∧ PStep s1 u c (rd.toNat / 4) ((coreAt s1 c).gr ra.toNat) i.t 1) ∧
      (∀ (rd ra : BitVec 5), ra.toNat < 8 → issue? s c [kP ra.toNat] = some (s1, i) →
        ∃ u, exec (.ptog c rd ra 0) s = .next (settled u) ∧ GStep s1 u c rd.toNat ((coreAt s1 c).pr ra.toNat) i.t 1) ∧
      (∀ x : FmtR, x.fn.toNat < 8 → issue? s c [kG x.ra.toNat, kG x.rb.toNat, kP x.fn.toNat] = some (s1, i) →
        ∃ u, exec (.sel c x) s = .next (settled u) ∧
          GStep s1 u c x.rd.toNat (if ((coreAt s1 c).pr x.fn.toNat).getLsbD 0 then (coreAt s1 c).gr x.ra.toNat else (coreAt s1 c).gr x.rb.toNat) i.t 1))

/-- BR goes to PC + 4 × soff22 when bit 0 of p XOR neg is 1 and falls through otherwise; JAL and JALR write PC + 4 to rd and go to PC + 4 × soff21 and to ra + sext(imm16) with bits 1..0 cleared, ra being read before
rd is written. Loops change only as R103 says (a taken branch keeps those whose body holds the target when the innermost does not), and nothing else changes. With rd and the body length in range and fewer than 4 active
loops, LOOP with a count of 0 goes to the instruction after the body; with any other count it goes to the first body instruction and the loop becomes the innermost one, with ra passes to run. At the body's end the core
returns to its first instruction while passes are left, and leaves the loop after the last. -/
def Obligations.BranchesAndLoopsMoveThePC : Prop :=
  (∀ (s s1 : State) (c : CoreRef) (i : Issue), InCode s1 c i →
      let k := coreAt s1 c
      (∀ x : FmtB, issue? s c [kP x.p.toNat] = some (s1, i) →
        ∃ u, exec (.br c x) s = .next (settled u) ∧ OnlyCore s1 u c ∧
          (if (k.pr x.p.toNat).getLsbD 0 != x.neg.getLsbD 0 then
             coreAt u c = { k with pc := k.pc + 4 * x.soff.signExtend 64, loops := branchLoops k.loops (k.pc + 4 * x.soff.signExtend 64), readyAt := i.t + 3 }
           else Falls k (coreAt u c) (k.pc + 4) (i.t + 1) ∧ SameG k (coreAt u c) ∧ SameP k (coreAt u c))) ∧
      (∀ x : FmtJ, issue? s c [] = some (s1, i) →
        ∃ u, exec (.jal c x) s = .next (settled u) ∧ OnlyCore s1 u c ∧ WroteG k (coreAt u c) x.rd.toNat (k.pc + 4) ∧
          coreAt u c = { k with pc := k.pc + 4 * x.soff.signExtend 64, loops := branchLoops k.loops (k.pc + 4 * x.soff.signExtend 64), readyAt := i.t + 3,
                                g := (coreAt u c).g, rdy := (coreAt u c).rdy }) ∧
      (∀ x : FmtI, issue? s c [kG x.ra.toNat] = some (s1, i) →
        ∃ (u : State) (a : Word), exec (.jalr c x) s = .next (settled u) ∧ OnlyCore s1 u c ∧ WroteG k (coreAt u c) x.rd.toNat (k.pc + 4) ∧
          a.toNat = (k.gr x.ra.toNat + x.imm.signExtend 64).toNat / 4 * 4 ∧
          coreAt u c = { k with pc := a, loops := branchLoops k.loops a, readyAt := i.t + 3, g := (coreAt u c).g, rdy := (coreAt u c).rdy })) ∧
  (∀ (s s1 : State) (c : CoreRef) (x : FmtI) (i : Issue),
    issue? s c [kG x.ra.toNat] = some (s1, i) → InCode s1 c i → x.rd = 0 → x.imm ≠ 0 → (coreAt s1 c).loops.length < 4 →
    let k := coreAt s1 c
    let after := k.pc + 4 + 4 * x.imm.setWidth 64
    ∃ u, exec (.loop c x) s = .next (settled u) ∧ OnlyCore s1 u c ∧
      (if k.gr x.ra.toNat = 0 then Falls k (coreAt u c) after (i.t + 1) ∧ SameG k (coreAt u c)
       else coreAt u c = { k with pc := k.pc + 4, loops := { first := k.pc + 4, after := after, left := (k.gr x.ra.toNat).toNat } :: k.loops, readyAt := i.t + 1 })) ∧
  (∀ (l : Loop) (ls : List Loop), 1 < l.left → seqNext (l :: ls) l.after = (l.first, { l with left := l.left - 1 } :: ls)) ∧
  (∀ (l : Loop) (ls : List Loop), l.left ≤ 1 → seqNext (l :: ls) l.after = seqNext ls l.after) ∧
  (∀ (l : Loop) (ls : List Loop) (a : Word), a ≠ l.after → seqNext (l :: ls) a = (a, l :: ls))

/-! ### Edley: issue and exceptions -/

namespace Sys2Proof.Claims

/-- Core `c` has written `v` to w register `wd` and goes on; nothing else has changed. -/
def WStep (s u : State) (c : CoreRef) (wd : Nat) (v : BitVec 2048) (t iv : Nat) : Prop :=
  OnlyCore s u c ∧ Falls (coreAt s c) (coreAt u c) ((coreAt s c).pc + 4) (t + iv) ∧ WroteW (coreAt s c) (coreAt u c) wd v ∧
  SameG (coreAt s c) (coreAt u c) ∧ SameP (coreAt s c) (coreAt u c) ∧ SameD (coreAt s c) (coreAt u c)

/-- The same for a descriptor register. -/
def DStep (s u : State) (c : CoreRef) (dd : Nat) (v : BitVec 256) (t iv : Nat) : Prop :=
  OnlyCore s u c ∧ Falls (coreAt s c) (coreAt u c) ((coreAt s c).pc + 4) (t + iv) ∧ WroteD (coreAt s c) (coreAt u c) dd v ∧
  SameG (coreAt s c) (coreAt u c) ∧ SameP (coreAt s c) (coreAt u c) ∧ SameW (coreAt s c) (coreAt u c)

/-- Core `c` goes on with the next instruction; no register of any core changes. -/
def Goes (s u : State) (c : CoreRef) (t iv : Nat) : Prop :=
  (∀ k, k ≠ coreKey c → SMap.find u.cores k = SMap.find s.cores k) ∧
  coreAt u c = { coreAt s c with pc := (seqNext (coreAt s c).loops ((coreAt s c).pc + 4)).1, loops := (seqNext (coreAt s c).loops ((coreAt s c).pc + 4)).2, readyAt := t + iv }

/-- The bytes of tile `n` from absolute offset `a`: gather buffers over the bank (R141). -/
def LoadBytes (s : State) (n a len : Nat) : List Byte :=
  (List.range len).map fun j => loadByte (tile s n) (a + j) (memByte s.mem (keyTile n (a + j)))

/-- Landing data has been written to a byte of tile `n` in the present cycle: a load of the cycle does not see it yet (Table 4.16). -/
def Landed (s : State) (n a : Nat) : Prop := ∃ x ∈ (tile s n).laid, x.land = true ∧ x.cyc = s.clk.cyc ∧ x.off ≤ a ∧ a < x.off + x.old.length

/-- The tile has noted a store of n bytes at an absolute offset: the latest of its recent stores keeps what a load saw before it. -/
def Noted (s u : State) (c : CoreRef) (a n t : Nat) : Prop :=
  ∃ y ys, (tile u c.tile).recent = y :: ys ∧ y.cyc = t ∧ y.mover = c.mover ∧ y.off = a ∧ y.old = LoadBytes s c.tile a n ∧ y.new.length = n

/-- No store by the other core is less than 2 cycles old at the issue cycle, and the mover core has not stored in that cycle (R106, Table 4.16). -/
def NoRecent (s : State) (c : CoreRef) (t : Nat) : Prop := ∀ y ∈ (tile s c.tile).recent, y.mover ≠ c.mover → y.cyc + 2 ≤ t

/-- An absolute offset of a tile's store lies in the window table of the task's STORE_BASE (R145). -/
def InTable (base a : Nat) : Prop := base + windowTable base ≤ a ∧ a < base + windowTable base + 128

end Sys2Proof.Claims

/-- For a core with a started task on a tile that is not fenced, with no scheduled traffic in progress and the issue cycle before the Tick's closing boundary, an instruction issues at the later of the present
cycle, the core's issue interval and the ready cycles of the registers it reads; the time is that cycle, and only the clock and results that fall due have changed. -/
def Obligations.InstructionIssues : Prop :=
  ∀ (s : State) (c : CoreRef) (srcs : List Nat) (k : Nat) (t : Task),
    runnable? s c = some (k, t) → activeTiles s = [] → issueCycle s c srcs < cycleAt s (closing s) →
    ∃ s1 : State, issue? s c srcs = some (s1, { slot := k, task := t, t := issueCycle s c srcs }) ∧
      s1 = { s with clk := { s.clk with cyc := issueCycle s c srcs, settled := s1.clk.settled }, ariths := s1.ariths } ∧
      s.clk.cyc ≤ issueCycle s c srcs ∧ (coreAt s c).readyAt ≤ issueCycle s c srcs ∧
      (∀ r ∈ srcs, SMap.get 0 (coreAt s c).rdy r ≤ issueCycle s c srcs) ∧
      (issueCycle s c srcs = s.clk.cyc ∨ issueCycle s c srcs = (coreAt s c).readyAt ∨ ∃ r ∈ srcs, issueCycle s c srcs = SMap.get 0 (coreAt s c).rdy r)

/-- When an ADDI is fetched from outside the task's code and when an issue-core instruction is issued by the mover, the command answers the state in which the exception of that cause has been raised. With no wrong stored bit, raising an exception
before the Tick's closing boundary appends one error record of class 0x01 with the cause, the PC, the auxiliary word, the tile and the core, and makes the task's node FAULTED; memory changes only where a store-engine operation of the region is abandoned.
When a tile of a running task has a pending trip, SENTINEL_TRIP raises exception 0x23 against the task with the trip's PC and auxiliary word and the trip word as second auxiliary word; without one, or at the closing boundary, it changes nothing but what the time settles. -/
def Obligations.CheckFailureFaultsTheTask : Prop :=
  (∀ (s s1 : State) (c : CoreRef) (x : FmtI) (i : Issue), issue? s c [kG x.ra.toNat] = some (s1, i) → ¬ InCode s1 c i →
    exec (.addi c x) s = .next (settled (raise s1 i.slot c 0x01 (coreAt s1 c).pc (coreAt s1 c).pc))) ∧
  (∀ (s s1 : State) (c : CoreRef) (x : FmtI) (i : Issue), c.mover = true → issue? s c [kG x.ra.toNat] (loadWait c 4 fun k => (unitAddr k x 64).toNat) = some (s1, i) → InCode s1 c i →
    exec (.wld c x) s = .next (settled (raise s1 i.slot c 0x03 (coreAt s1 c).pc 0))) ∧
  (∀ (s : State) (slot code : Nat) (c : CoreRef) (pc aux : Word) (t : Task) (n : Node), code ≠ 0x23 → task? s slot = some t → node? s t.gseq t.node = some n →
    (∃ g, graph? s t.gseq = some g ∧ db g.hdr 0 51 51 = 0) → s.clk.cyc < cycleAt s (closing s) → s.flips = [] →
    let u := raise s slot c code pc aux
    (∃ r : Rec, u.recs = s.recs ++ [r] ∧ r.cls = 1 ∧ r.cause = code ∧ r.part = some t.part ∧ r.pc = pc.toNat ∧ r.aux = aux ∧ r.action = 1 ∧ r.time = mer s ∧
      r.tile = some (c.tile, (logicalOf s c.tile).getD 0, c.mover)) ∧
    ((∀ k ∈ t.tiles, (tile s k).stops = []) → u.mem = s.mem) ∧
    (∃ n', node? u t.gseq t.node = some n' ∧ n'.state = .faulted ∧ n'.slot = none ∧ n'.words = n.words)) ∧
  (∀ (s : State) (n slot : Nat) (t : Task), let s1 := settle s s.clk.cyc
      taskOf s1 n = some (slot, t) → task? s1 slot = some t →
      (∀ (w : Nat) (pc : Word) (aux : Nat), (arith s1 n).trip = some (w, pc, aux) → s1.clk.cyc < cycleAt s1 (closing s1) → s1.flips = [] →
        ∃ u r, exec (.sentinelTrip n) s = .next (settled u) ∧ u.recs = s1.recs ++ [r] ∧ r.cls = 1 ∧ r.cause = 0x23 ∧ r.pc = pc.toNat ∧ r.aux = BitVec.ofNat 64 aux ∧ r.aux2 = BitVec.ofNat 64 w ∧
          r.part = some t.part ∧ r.tile = some (n, (logicalOf s1 n).getD 0, false) ∧ ((∀ k ∈ t.tiles, (tile s1 k).stops = []) → u.mem = s1.mem)) ∧
      ((arith s1 n).trip = none ∨ cycleAt s1 (closing s1) ≤ s1.clk.cyc → exec (.sentinelTrip n) s = .next (settled s1)))

/-! ### Edley: the tile store -/

/-- With no wrong stored bit in the module, an aligned load within the task's store range writes to its register what a load sees there: LD the little-endian number of its bytes, sign-extended when sx is 1, WLD 256
bytes and DLD 32 bytes. No other register, no byte of memory and nothing else changes. The bytes are those of the gather buffers and the bank, but where the other core's only recent store is less than 2 cycles old, the load returns the
value before that store in each byte that the store covers. Landing data written in the issue cycle itself is the one thing set aside. -/
def Obligations.LoadsReadTheStore : Prop :=
  ∀ (s s1 : State) (c : CoreRef) (i : Issue), InCode s1 c i → s1.flips = [] →
    ∀ (a0 : Nat) (seen : Nat → Nat → List Byte), a0 = (tile s1 c.tile).base →
      ((NoRecent s1 c i.t ∧ ∀ e n, seen e n = LoadBytes s1 c.tile (a0 + e) n) ∨
       (∃ y, (tile s1 c.tile).recent = [y] ∧ y.mover ≠ c.mover ∧ i.t < y.cyc + 2 ∧ y.old.length = y.new.length ∧
         ∀ e n, seen e n = (List.range n).map fun j =>
           if y.off ≤ a0 + e + j ∧ a0 + e + j < y.off + y.new.length then nth y.old (a0 + e + j - y.off) 0 else loadByte (tile s1 c.tile) (a0 + e + j) (memByte s1.mem (keyTile c.tile (a0 + e + j))))) →
    (∀ x : FmtM, issue? s c [kG x.ra.toNat] (loadWait c 1 fun k => (memAddr k x).toNat) = some (s1, i) → ¬ (x.sz = 3 ∧ x.sx = 1) →
      let e := (coreAt s1 c).gr x.ra.toNat + x.soff.signExtend 64
      (∀ j, j < 2 ^ x.sz.toNat → ¬ Landed s1 c.tile (a0 + e.toNat + j)) →
      e.toNat % 2 ^ x.sz.toNat = 0 → a0 + e.toNat + 2 ^ x.sz.toNat ≤ 0x180000 →
      ∃ u v, exec (.ld c x) s = .next (settled u) ∧ GStep s1 u c x.rd.toNat v i.t 1 ∧
        (let w := ofBytes (seen e.toNat (2 ^ x.sz.toNat))
         (x.sx = 0 → v.toNat = w) ∧ (x.sx = 1 → v.toInt = signed (8 * 2 ^ x.sz.toNat) w))) ∧
    (∀ x : FmtI, c.mover = false → issue? s c [kG x.ra.toNat] (loadWait c 4 fun k => (unitAddr k x 64).toNat) = some (s1, i) →
      let e := (coreAt s1 c).gr x.ra.toNat + 64 * x.imm.signExtend 64
      (∀ j, j < 256 → ¬ Landed s1 c.tile (a0 + e.toNat + j)) →
      e.toNat % 64 = 0 → a0 + e.toNat + 256 ≤ 0x180000 →
      ∃ u v, exec (.wld c x) s = .next (settled u) ∧ WStep s1 u c x.rd.toNat v i.t 4 ∧ v.toNat = ofBytes (seen e.toNat 256)) ∧
    (∀ x : FmtI, x.rd.toNat < 16 → issue? s c [kG x.ra.toNat] (loadWait c 1 fun k => (unitAddr k x 32).toNat) = some (s1, i) →
      let e := (coreAt s1 c).gr x.ra.toNat + 32 * x.imm.signExtend 64
      (∀ j, j < 32 → ¬ Landed s1 c.tile (a0 + e.toNat + j)) →
      e.toNat % 32 = 0 → a0 + e.toNat + 32 ≤ 0x180000 →
      ∃ u v, exec (.dld c x) s = .next (settled u) ∧ DStep s1 u c x.rd.toNat v i.t 1 ∧ v.toNat = ofBytes (seen e.toNat 32))

/-- With no wrong stored bit and memory in canonical form, an aligned WST (the core's gather buffer being empty) or DST within the task's store range writes its register's bytes there. Every byte of memory outside them and
outside the tile's window table reads as before, the stored bytes read back where they lie below the window table (where the mover core has not stored in the same cycle), and no register changes. The other core's loads are given the bytes before the store for 2 cycles. -/
def Obligations.BlockStoresWriteTheStore : Prop :=
  ∀ (s s1 : State) (c : CoreRef) (i : Issue) (x : FmtI), InCode s1 c i → s1.flips = [] → Memory.wf s1.mem = true →
    let base := (tile s1 c.tile).base
    (c.mover = false → gather (tile s1 c.tile) false = [] → issue? s c [kG x.ra.toNat, kW x.rd.toNat] (wstWait c x) = some (s1, i) →
      let e := (coreAt s1 c).gr x.ra.toNat + 64 * x.imm.signExtend 64
      e.toNat % 64 = 0 → base + e.toNat + 256 ≤ 0x180000 →
      ∃ u, exec (.wst c x) s = .next (settled u) ∧ Goes s1 u c i.t 4 ∧
        (∀ a, (∀ j, j < 256 → a ≠ keyTile c.tile (base + e.toNat + j)) → (∀ o, InTable base o → a ≠ keyTile c.tile o) → memByte u.mem a = memByte s1.mem a) ∧
        Noted s1 u c (base + e.toNat) 256 i.t ∧
        (e.toNat + 256 ≤ windowTable base → NoRecent s1 c i.t → ∀ j, j < 256 →
          (memByte u.mem (keyTile c.tile (base + e.toNat + j))).toNat = ((coreAt s1 c).wr x.rd.toNat).toNat / 2 ^ (8 * j) % 256)) ∧
    (x.rd.toNat < 16 → issue? s c [kG x.ra.toNat, kD x.rd.toNat] (dstWait c x) = some (s1, i) →
      let e := (coreAt s1 c).gr x.ra.toNat + 32 * x.imm.signExtend 64
      e.toNat % 32 = 0 → base + e.toNat + 32 ≤ 0x180000 →
      ∃ u, exec (.dst c x) s = .next (settled u) ∧ Goes s1 u c i.t 1 ∧
        (∀ a, (∀ j, j < 32 → a ≠ keyTile c.tile (base + e.toNat + j)) → (∀ o, InTable base o → a ≠ keyTile c.tile o) → memByte u.mem a = memByte s1.mem a) ∧
        Noted s1 u c (base + e.toNat) 32 i.t ∧
        (e.toNat + 32 ≤ windowTable base → NoRecent s1 c i.t → ∀ j, j < 32 →
          (memByte u.mem (keyTile c.tile (base + e.toNat + j))).toNat = ((coreAt s1 c).dr x.rd.toNat).toNat / 2 ^ (8 * j) % 256))

/-- An aligned ST within the store range, to a line that neither core holds, with one of the core's 4 entries free, makes an entry of that line with exactly its bytes valid. A load of the tile then sees the stored bytes, and any
other byte as before, and the other core's loads are given the bytes before it for 2 cycles; no byte of memory and no register changes. The mover core has not stored in the last 2 cycles where the issue core stores, nor the issue core where the mover core does. -/
def Obligations.StoreEntersTheGatherBuffer : Prop :=
  ∀ (s s1 : State) (c : CoreRef) (i : Issue) (x : FmtM), InCode s1 c i → issue? s c [kG x.ra.toNat, kG x.rd.toNat] (stWait c x) = some (s1, i) → x.sx = 0 →
    let e := (coreAt s1 c).gr x.ra.toNat + x.soff.signExtend 64
    let a := (tile s1 c.tile).base + e.toNat
    (tile s1 c.tile).base % 64 = 0 →
    e.toNat % 2 ^ x.sz.toNat = 0 → a + 2 ^ x.sz.toNat ≤ 0x180000 → (gather (tile s1 c.tile) c.mover).length < 4 →
    (∀ m, ∀ y ∈ gather (tile s1 c.tile) m, y.line ≠ a / 64 * 64) → (∀ y ∈ gather (tile s1 c.tile) c.mover, ∃ b ∈ y.mask, b = false) → NoRecent s1 c i.t →
    ∃ u, exec (.st c x) s = .next (settled u) ∧ Goes s1 u c i.t 1 ∧ u = { s1 with cores := u.cores, tiles := u.tiles } ∧
      (∀ n, n ≠ c.tile → SMap.find u.tiles n = SMap.find s1.tiles n) ∧
      (gather (tile u c.tile) c.mover).length = (gather (tile s1 c.tile) c.mover).length + 1 ∧ Noted s1 u c a (2 ^ x.sz.toNat) i.t ∧
      (∀ (o : Nat) (b : Byte), loadByte (tile u c.tile) o b =
        if a ≤ o ∧ o < a + 2 ^ x.sz.toNat then BitVec.ofNat 8 (((coreAt s1 c).gr x.rd.toNat).toNat / 2 ^ (8 * (o - a))) else loadByte (tile s1 c.tile) o b)

/-- With their zero fields zero, DSET makes the chosen 64-bit word of the descriptor ra and keeps the other three, and DGET writes the chosen word to rd. -/
def Obligations.DescriptorWordsMove : Prop :=
  ∀ (s s1 : State) (c : CoreRef) (i : Issue) (word : BitVec 2), InCode s1 c i →
    (∀ rd ra : BitVec 5, rd.toNat < 16 → issue? s c [kG ra.toNat, kD rd.toNat] = some (s1, i) →
      ∃ u v, exec (.dset c rd ra 0 word 0) s = .next (settled u) ∧ DStep s1 u c rd.toNat v i.t 1 ∧
        ∀ n, n < 4 → v.toNat / 2 ^ (64 * n) % 2 ^ 64 =
          if n = word.toNat then ((coreAt s1 c).gr ra.toNat).toNat else ((coreAt s1 c).dr rd.toNat).toNat / 2 ^ (64 * n) % 2 ^ 64) ∧
    (∀ rd ra : BitVec 5, ra.toNat < 16 → issue? s c [kD ra.toNat] = some (s1, i) →
      ∃ u v, exec (.dget c rd ra 0 word 0) s = .next (settled u) ∧ GStep s1 u c rd.toNat v i.t 1 ∧
        v.toNat = ((coreAt s1 c).dr ra.toNat).toNat / 2 ^ (64 * word.toNat) % 2 ^ 64)

/-- A STOP whose operands meet the conditions of R105, with room in the engine and the core's gather buffer empty, appends its operation and the core goes on with no register or byte changed. The completion of the only operation of an
engine, whose core has no gate addition waiting, with no wrong stored bit and a destination below the window table, writes the pattern or the source bytes, leaves every other byte, and leaves the engine empty. -/
def Obligations.StoreEngineFillsAndCopies : Prop :=
  (∀ (s s1 : State) (c : CoreRef) (i : Issue) (rd ra rb : BitVec 5) (copy : Bool), InCode s1 c i →
    issue? s c [kG rd.toNat, kG ra.toNat, kG rb.toNat] (flushWait c) = some (s1, i) → gather (tile s1 c.tile) c.mover = [] → (tile s1 c.tile).stops.length < 4 →
    let base := (tile s1 c.tile).base
    let src := ((coreAt s1 c).gr rd.toNat).toNat
    let dst := ((coreAt s1 c).gr ra.toNat).toNat
    let len := ((coreAt s1 c).gr rb.toNat).toNat
    len % 64 = 0 → 64 ≤ len → len ≤ 1572864 → dst % 64 = 0 → base + dst + len ≤ 0x180000 →
    (copy = true → src % 64 = 0 ∧ base + src + len ≤ 0x180000 ∧ (dst + len ≤ src ∨ src + len ≤ dst)) →
    ∃ u, exec (if copy then .stopCopy c rd ra rb else .stopFill c rd ra rb) s = .next (settled u) ∧ Goes s1 u c i.t 1 ∧
      u = { s1 with cores := u.cores, tiles := u.tiles } ∧
      tile u c.tile = { tile s1 c.tile with stops := (tile s1 c.tile).stops ++
        [{ mover := c.mover, copy := copy, pat := (coreAt s1 c).gr rd.toNat, src := base + src, dst := base + dst, len := len, start := i.t, pc := (coreAt s1 c).pc }] }) ∧
  (∀ (s s1 : State) (n slot : Nat) (t : Task) (o : StopOp), taskOf s n = some (slot, t) → (tile s n).stops = [o] → eventAt s (o.start + o.cycles) = some s1 →
    tile s1 n = tile s n → taskOf s1 n = some (slot, t) → (coreAt s1 ⟨n, o.mover⟩).st ≠ .idle → (coreAt s1 ⟨n, o.mover⟩).gates = [] →
    s1.flips = [] → Memory.wf s1.mem = true → o.len % 64 = 0 → 0 < o.len → o.dst + o.len ≤ (tile s1 n).base + windowTable (tile s1 n).base →
    ∃ u, exec (.storeEngineComplete n) s = .next (settled u) ∧ (tile u n).stops = [] ∧
      (∀ j, j < o.len → memByte u.mem (keyTile n (o.dst + j)) =
        if o.copy then memByte s1.mem (keyTile n (o.src + j)) else BitVec.ofNat 8 (o.pat.toNat / 2 ^ (8 * (j % 8)))) ∧
      (∀ a, (∀ j, j < o.len → a ≠ keyTile n (o.dst + j)) → memByte u.mem a = memByte s1.mem a) ∧ u.regs = s1.regs)

/-- With no wrong stored bit and memory in canonical form: GATHER_ENTRY_WRITE of a core's only entry writes its valid bytes (the line lying below the window table), leaves every other byte and empties the buffer; REMOTE_LINE_WRITE writes the
masked bytes when the tile is not fenced and an open window admits the requester and the line, and writes nothing otherwise; REMOTE_STORE_READ changes nothing. -/
def Obligations.GatherAndRemoteLinesWrite : Prop :=
  (∀ (s s1 : State) (c : CoreRef) (e : GEntry), gather (tile s c.tile) c.mover = [e] → eventAt s (e.last + 16) = some s1 → tile s1 c.tile = tile s c.tile →
    s1.flips = [] → Memory.wf s1.mem = true → e.data.length = 64 → e.mask.length = 64 → storeBase s1 c.tile = (tile s1 c.tile).base →
    e.line + 64 ≤ (tile s1 c.tile).base + windowTable (tile s1 c.tile).base →
    ∃ u, exec (.gatherEntryWrite c) s = .next (settled u) ∧ gather (tile u c.tile) c.mover = [] ∧ u.regs = s1.regs ∧ u.cores = s1.cores ∧
      (∀ j, j < 64 → memByte u.mem (keyTile c.tile (e.line + j)) = if e.mask.getD j false then e.data.getD j 0 else memByte s1.mem (keyTile c.tile (e.line + j))) ∧
      (∀ a, (∀ j, j < 64 → a ≠ keyTile c.tile (e.line + j)) → memByte u.mem a = memByte s1.mem a)) ∧
  (∀ (s : State) (n off : Nat) (who : Requester) (mask : BitVec 64) (data : Line),
    let s1 := settle s s.clk.cyc
    let a := off / 64 * 64
    s1.flips = [] → Memory.wf s1.mem = true →
    ∃ u, exec (.remoteLineWrite n off who mask data) s = .next (settled u) ∧ u = { s1 with mem := u.mem, tiles := u.tiles } ∧
      (∀ m, tile u m = { tile s1 m with laid := (tile u m).laid }) ∧
      (∀ j, j < 64 → memByte u.mem (keyTile n (a + j)) =
        if (tile s1 n).fenced = false ∧ windowAdmits s1 n who a 64 = true ∧ mask.getLsbD j = true then BitVec.ofNat 8 (data.toNat / 2 ^ (8 * j))
        else memByte s1.mem (keyTile n (a + j))) ∧
      (∀ b, (∀ j, j < 64 → b ≠ keyTile n (a + j)) → memByte u.mem b = memByte s1.mem b)) ∧
  (∀ (s : State) (n off : Nat) (who : Requester), (settle s s.clk.cyc).flips = [] →
    exec (.remoteStoreRead n off who) s = .next (settled (settle s s.clk.cyc)))

/-- With scrubbing enabled on a tile that is not fenced, a scrub step moves POSITION on by one, or back to 0 with one more pass after the last of 24,576 beats. With no wrong stored bit nothing else changes. Where the only wrong stored bits of the module
are in one word of that beat and the check code corrects them, the tile's CE_COUNT rises by one, one record of class 0x08 joins the queue, and a write-back of the corrected word is scheduled:
from the next cycle on, once it is done, no stored bit is wrong and the word holds the corrected value. -/
def Obligations.TileScrubAdvances : Prop :=
  ∀ (s : State) (n : Nat), let s1 := settle s s.clk.cyc
    fb s1 F.TS_CTL_SCRUB_EN n = true → (tile s1 n).fenced = false → n < 1152 →
    let pos := fg s1 F.TS_SCRUB_POSITION n
    (s1.flips = [] → ∃ u, exec (.tileScrubStep n []) s = .next (settled u) ∧ u = { s1 with regs := u.regs, tiles := u.tiles } ∧ tile u n = tile s1 n ∧
      RegsBut s1 u [regKey .tsScrub n 0 0] ∧
      (pos + 1 < 24576 → fg u F.TS_SCRUB_POSITION n = pos + 1 ∧ fg u F.TS_SCRUB_PASSES n = fg s1 F.TS_SCRUB_PASSES n) ∧
      (pos + 1 = 24576 → fg u F.TS_SCRUB_POSITION n = 0 ∧ fg u F.TS_SCRUB_PASSES n = (fg s1 F.TS_SCRUB_PASSES n + 1) % 2 ^ (F.TS_SCRUB_PASSES.hi + 1 - F.TS_SCRUB_PASSES.lo))) ∧
    (∀ (w : Nat) (e : BitVec 80) (k : EccKind) (bits : List Nat), pos < 24576 → s1.flips = [(w, e)] → keyTile n (64 * pos) / 8 ≤ w → 8 * w < keyTile n (64 * pos) + 64 →
      s1.memc.wback = [] → eccDecode e 0 = .corrected k bits →
      ∃ u, exec (.tileScrubStep n []) s = .next (settled u) ∧ u.memc.wback = [(w, s1.clk.cyc, wordData s1 w ^^^ eccResidue e bits)] ∧
        (∀ t, s1.clk.cyc < t → let v := ripenBack { u with clk := { u.clk with cyc := t } }
          v.flips = [] ∧ wordData v w = wordData s1 w ^^^ eccResidue e bits) ∧
        (∃ r, u.recs = s1.recs ++ [r] ∧ r.cls = 8 ∧ r.unit = 1 ∧ r.unitIx = n) ∧
        fg u F.TS_ECC_COUNT_CE_COUNT n = satAdd (F.TS_ECC_COUNT_CE_COUNT.hi + 1 - F.TS_ECC_COUNT_CE_COUNT.lo) (fg s1 F.TS_ECC_COUNT_CE_COUNT n) 1)

/-! ### Edley: vector instructions -/

namespace Sys2Proof.Claims

/-- Element j of width w of a wide register (R63). -/
def lane (w : Nat) (v : BitVec 2048) (j : Nat) : Nat := v.toNat / 2 ^ (w * j) % 2 ^ w

/-- An instruction of an issue core that leaves its tile's arithmetic state as `a`: the core goes on, and nothing changes but this core's registers and that state. -/
def VCore (s u : State) (c : CoreRef) (t iv : Nat) (a : Arith) : Prop :=
  u = { s with cores := u.cores, ariths := u.ariths } ∧ (∀ k, k ≠ coreKey c → SMap.find u.cores k = SMap.find s.cores k) ∧
  (∀ n, n ≠ c.tile → SMap.find u.ariths n = SMap.find s.ariths n) ∧ arith u c.tile = a ∧
  Falls (coreAt s c) (coreAt u c) ((coreAt s c).pc + 4) (t + iv)

/-- It wrote `v` to w register `wd` alone. -/
def VStep (s u : State) (c : CoreRef) (wd : Nat) (v : BitVec 2048) (t iv : Nat) (a : Arith) : Prop :=
  VCore s u c t iv a ∧ WroteW (coreAt s c) (coreAt u c) wd v ∧ SameG (coreAt s c) (coreAt u c) ∧ SameP (coreAt s c) (coreAt u c) ∧ SameD (coreAt s c) (coreAt u c)

/-- It wrote `v` to g register `rd` alone. -/
def VGStep (s u : State) (c : CoreRef) (rd : Nat) (v : Word) (t iv : Nat) (a : Arith) : Prop :=
  VCore s u c t iv a ∧ WroteG (coreAt s c) (coreAt u c) rd v ∧ SameW (coreAt s c) (coreAt u c) ∧ SameP (coreAt s c) (coreAt u c) ∧ SameD (coreAt s c) (coreAt u c)

/-- It wrote `v` to predicate `pd` alone. -/
def VPStep (s u : State) (c : CoreRef) (pd : Nat) (v : Word) (t iv : Nat) (a : Arith) : Prop :=
  VCore s u c t iv a ∧ WroteP (coreAt s c) (coreAt u c) pd v ∧ SameG (coreAt s c) (coreAt u c) ∧ SameW (coreAt s c) (coreAt u c) ∧ SameD (coreAt s c) (coreAt u c)

/-- The union of the flags of n elements. -/
def flagsOf (n : Nat) (f : Nat → Nat) : Nat := (List.range n).foldl (fun acc j => Nat.lor acc (f j)) 0

end Sys2Proof.Claims

/-- With listed functions and their zero fields zero: VINT computes each 32-bit lane of wd from those of wa and wb modulo 2^32 (shifts by bits 4..0 of wb, MIN and MAX signed); VSEL takes lane j of wa where bit j of its predicate
is 1, else of wb; VZERO writes 0; VCOPY copies; VBCAST puts the low bits of a g register into every element; VEXT reads the element that g[wb] names; VINS replaces it. Nothing else changes. -/
def Obligations.VectorIntegerAndMoveResults : Prop :=
  ∀ (s s1 : State) (c : CoreRef) (i : Issue) (x : FmtV), c.mover = false → InCode s1 c i → x.sat = 0 →
    let k := coreAt s1 c
    let a := arith s1 c.tile
    let w := tyBits x.ty.toNat
    (x.fn.toNat ≤ 10 → x.rm = 0 → x.ty = 3 → issue? s c [kW x.wa.toNat, kW x.wb.toNat] = some (s1, i) →
      ∃ u v, exec (.vint c x) s = .next (settled u) ∧ VStep s1 u c x.wd.toNat v i.t 1 a ∧
        ∀ j, j < 64 →
          let p := lane 32 (k.wr x.wa.toNat) j
          let q := lane 32 (k.wr x.wb.toNat) j
          let r := lane 32 v j
          match x.fn.toNat with
          | 0 => r = (p + q) % 2 ^ 32
          | 1 => r = (2 ^ 32 + p - q) % 2 ^ 32
          | 2 => r = p * q % 2 ^ 32
          | 3 => r = p &&& q
          | 4 => r = p ||| q
          | 5 => r = p ^^^ q
          | 6 => r = p * 2 ^ (q % 32) % 2 ^ 32
          | 7 => r = p / 2 ^ (q % 32)
          | 8 => signed 32 r = signed 32 p / 2 ^ (q % 32)
          | 9 => signed 32 r = min (signed 32 p) (signed 32 q)
          | _ => signed 32 r = max (signed 32 p) (signed 32 q)) ∧
    (x.fn = 0 → x.ty = 0 → issue? s c [kW x.wa.toNat, kW x.wb.toNat, kP x.rm.toNat] = some (s1, i) →
      ∃ u v, exec (.vsel c x) s = .next (settled u) ∧ VStep s1 u c x.wd.toNat v i.t 1 a ∧
        ∀ j, j < 64 → lane 32 v j = lane 32 (if (k.pr x.rm.toNat).getLsbD j then k.wr x.wa.toNat else k.wr x.wb.toNat) j) ∧
    (x.rm = 0 → x.fn = 0 → x.wa = 0 → x.wb = 0 → x.ty = 0 → issue? s c [] = some (s1, i) →
      ∃ u, exec (.vzero c x) s = .next (settled u) ∧ VStep s1 u c x.wd.toNat 0 i.t 1 a) ∧
    (x.rm = 0 → x.fn = 1 → x.wb = 0 → x.ty = 0 → issue? s c [kW x.wa.toNat] = some (s1, i) →
      ∃ u, exec (.vcopy c x) s = .next (settled u) ∧ VStep s1 u c x.wd.toNat (k.wr x.wa.toNat) i.t 1 a) ∧
    (x.rm = 0 → x.fn = 2 → x.wb = 0 → issue? s c [kG x.wa.toNat] = some (s1, i) →
      ∃ u v, exec (.vbcast c x) s = .next (settled u) ∧ VStep s1 u c x.wd.toNat v i.t 1 a ∧
        ∀ j, j < 2048 / w → lane w v j = (k.gr x.wa.toNat).toNat % 2 ^ w) ∧
    (x.rm = 0 → x.fn = 3 → (k.gr x.wb.toNat).toNat < 2048 / w → issue? s c [kW x.wa.toNat, kG x.wb.toNat] = some (s1, i) →
      ∃ u v, exec (.vext c x) s = .next (settled u) ∧ VGStep s1 u c x.wd.toNat v i.t 1 a ∧ v.toNat = lane w (k.wr x.wa.toNat) (k.gr x.wb.toNat).toNat) ∧
    (x.rm = 0 → x.fn = 4 → (k.gr x.wb.toNat).toNat < 2048 / w → issue? s c [kG x.wa.toNat, kG x.wb.toNat, kW x.wd.toNat] = some (s1, i) →
      ∃ u v, exec (.vins c x) s = .next (settled u) ∧ VStep s1 u c x.wd.toNat v i.t 1 a ∧
        ∀ j, j < 2048 / w → lane w v j = if j = (k.gr x.wb.toNat).toNat then (k.gr x.wa.toNat).toNat % 2 ^ w else lane w (k.wr x.wd.toNat) j)

/-- With listed functions, formats and rounding modes: each element of VOP and VFMA is the operation's one rounding of the elements' values (SR drawing from the lanes' generators, sat as R76), FABS and FNEG of a number change the sign bit only, VCMP sets
bit j of pd to the comparison of lane j (with a NaN EQ, LT and LE are 0, NE and UNORD 1), VCVT narrows the 64 lanes into the part that it names, leaving the other elements, or widens that part. The flags of all elements fall due with the result. -/
def Obligations.VectorFloatResults : Prop :=
  ∀ (s s1 : State) (c : CoreRef) (i : Issue), c.mover = false → InCode s1 c i →
    let k := coreAt s1 c
    let a := arith s1 c.tile
    (∀ x : FmtV, x.fn.toNat ≤ 6 → x.ty ≠ 3 → x.rm.toNat ≤ 5 → (5 ≤ x.fn.toNat → x.wb = 0) →
      issue? s c (if 5 ≤ x.fn.toNat then [kW x.wa.toNat] else [kW x.wa.toNat, kW x.wb.toNat]) = some (s1, i) →
      let w := tyBits x.ty.toNat
      let rs := if x.fn.toNat ≤ 2 then srFor a x.rm.toNat (tyFmt x.ty.toNat) (srLanes x.ty.toNat (2048 / w)) else ([], a.sr)
      let el := fun j => vopElem x.fn.toNat x.ty.toNat x.rm.toNat (x.sat == 1) (nth rs.1 j 0) (lane w (k.wr x.wa.toNat) j) (lane w (k.wr x.wb.toNat) j)
      ∃ u v, exec (.vop c x) s = .next (settled u) ∧
        VStep s1 u c x.wd.toNat v i.t 1 (({ a with sr := rs.2 } : Arith).flag (i.t + 4) (flagsOf (2048 / w) fun j => (el j).2)) ∧
        (∀ j, j < 2048 / w → lane w v j = (el j).1 % 2 ^ w) ∧
        (∀ j, j < 2048 / w → (valueOf (tyFmt x.ty.toNat) (lane w (k.wr x.wa.toNat) j)).isNan = false →
          (x.fn = 5 → lane w v j = lane w (k.wr x.wa.toNat) j % 2 ^ (w - 1)) ∧
          (x.fn = 6 → lane w v j % 2 ^ (w - 1) = lane w (k.wr x.wa.toNat) j % 2 ^ (w - 1) ∧ lane w v j / 2 ^ (w - 1) ≠ lane w (k.wr x.wa.toNat) j / 2 ^ (w - 1)))) ∧
    (∀ x : FmtF, x.ty ≠ 3 → x.rm.toNat ≤ 5 → issue? s c [kW x.wa.toNat, kW x.wb.toNat, kW x.wc.toNat] = some (s1, i) →
      let w := tyBits x.ty.toNat
      let f := tyFmt x.ty.toNat
      let rs := srFor a x.rm.toNat f (srLanes x.ty.toNat (2048 / w))
      let exact := fun j => Num.fma x.rm.toNat (valueOf f (lane w (k.wr x.wa.toNat) j)) (valueOf f (lane w (k.wr x.wb.toNat) j)) (valueOf f (lane w (k.wr x.wc.toNat) j))
      let el := fun j => convert f x.rm.toNat (x.sat == 1) (nth rs.1 j 0) (exact j).1
      ∃ u v, exec (.vfma c x) s = .next (settled u) ∧
        VStep s1 u c x.wd.toNat v i.t 1 (({ a with sr := rs.2 } : Arith).flag (i.t + 4) (flagsOf (2048 / w) fun j => Nat.lor (exact j).2 (el j).2)) ∧
        (∀ j, j < 2048 / w → lane w v j = (el j).1 % 2 ^ w)) ∧
    (∀ x : FmtV, x.fn.toNat ≤ 4 → (x.ty = 0 ∨ x.ty = 3) → x.rm = 0 → x.sat = 0 → x.wd.toNat % 4 = 0 → issue? s c [kW x.wa.toNat, kW x.wb.toNat] = some (s1, i) →
      ∃ u v, exec (.vcmp c x) s = .next (settled u) ∧ VPStep s1 u c (x.wd.toNat / 4) v i.t 1 a ∧
        ∀ j, j < 64 →
          let p := lane 32 (k.wr x.wa.toNat) j
          let q := lane 32 (k.wr x.wb.toNat) j
          let nan := (valueOf 0 p).isNan || (valueOf 0 q).isNan
          (x.ty = 3 → v.getLsbD j = (match x.fn.toNat with
            | 0 => decide (signed 32 p = signed 32 q)
            | 1 => decide (signed 32 p ≠ signed 32 q)
            | 2 => decide (signed 32 p < signed 32 q)
            | 3 => decide (signed 32 p ≤ signed 32 q)
            | _ => false)) ∧
          (x.ty = 0 → nan = true → v.getLsbD j = (x.fn.toNat == 1 || x.fn.toNat == 4)) ∧
          (x.ty = 0 → nan = false → v.getLsbD j = (match x.fn.toNat with
            | 0 => Num.eqv (valueOf 0 p) (valueOf 0 q)
            | 1 => !Num.eqv (valueOf 0 p) (valueOf 0 q)
            | 2 => Num.lt false (valueOf 0 p) (valueOf 0 q)
            | 3 => !Num.lt false (valueOf 0 q) (valueOf 0 p)
            | _ => false))) ∧
    (∀ x : FmtK, x.rsv = 0 → x.rm.toNat ≤ 5 → x.fs.toNat < 10 → x.fd.toNat < 10 → cvtPair x.fs.toNat x.fd.toNat = true →
      let w := fmtBits (if x.fs.toNat = 0 then x.fd.toNat else x.fs.toNat)
      x.part.toNat < 32 / w → issue? s c (if x.fs.toNat = 0 ∧ w < 32 then [kW x.wa.toNat, kW x.wd.toNat] else [kW x.wa.toNat]) = some (s1, i) →
      let rs := srFor a x.rm.toNat x.fd.toNat (List.range 64)
      let el := fun j => if x.fs = 0 then convert x.fd.toNat x.rm.toNat (x.sat == 1) (nth rs.1 j 0) (valueOf 0 (lane 32 (k.wr x.wa.toNat) j))
                         else convert 0 x.rm.toNat false 0 (valueOf x.fs.toNat (lane w (k.wr x.wa.toNat) (64 * x.part.toNat + j)))
      ∃ u v, exec (.vcvt c x) s = .next (settled u) ∧
        VStep s1 u c x.wd.toNat v i.t 1 (({ a with sr := if x.fs = 0 then rs.2 else a.sr } : Arith).flag (i.t + 4) (flagsOf 64 fun j => (el j).2)) ∧
        (x.fs = 0 → ∀ j, j < 2048 / w →
          lane w v j = if 64 * x.part.toNat ≤ j ∧ j < 64 * x.part.toNat + 64 then (el (j - 64 * x.part.toNat)).1 % 2 ^ w else lane w (k.wr x.wd.toNat) j) ∧
        (x.fs ≠ 0 → ∀ j, j < 64 → lane 32 v j = (el j).1 % 2 ^ 32))

/-- With their fields as R107 to R110 ask: VSFU applies its function to each lane, VRED writes the reduction's FP32 result with zeros above, VQNT writes 64 E2M1 results into its part and both block scales, a VSMX step writes p and c and replaces the
row's pair (m, s) of R79 alone, VSMX reset makes every pair (−∞, +0), VSMX reads copy m or s. SNCHK of values adds to its set's counts and sums; SNCHK end of row clears the sums and keeps the counts. -/
def Obligations.ReductionsAndSoftmaxResults : Prop :=
  ∀ (s s1 : State) (c : CoreRef) (i : Issue), c.mover = false → InCode s1 c i →
    let k := coreAt s1 c
    let a := arith s1 c.tile
    (∀ x : FmtV, x.fn.toNat ≤ 3 → x.wb = 0 → x.rm = 0 → x.sat = 0 → x.ty = 0 → issue? s c [kW x.wa.toNat] = some (s1, i) →
      let el := fun j => special x.fn.toNat (BitVec.ofNat 32 (lane 32 (k.wr x.wa.toNat) j))
      ∃ u v, exec (.vsfu c x) s = .next (settled u) ∧ VStep s1 u c x.wd.toNat v i.t 2 (a.flag (i.t + 14) (flagsOf 64 fun j => (el j).2)) ∧
        ∀ j, j < 64 → lane 32 v j = (el j).1.toNat) ∧
    (∀ x : FmtV, x.fn.toNat ≤ 2 → x.wb = 0 → x.rm = 0 → x.sat = 0 → x.ty ≠ 3 → issue? s c [kW x.wa.toNat] = some (s1, i) →
      let w := tyBits x.ty.toNat
      let r := reduce x.fn.toNat x.ty.toNat ((List.range (2048 / w)).map fun j => lane w (k.wr x.wa.toNat) j)
      ∃ u v, exec (.vred c x) s = .next (settled u) ∧ VGStep s1 u c x.wd.toNat v i.t 1 (a.flag (i.t + 9) r.2) ∧ v.toNat = r.1.toNat) ∧
    (∀ x : FmtQ, x.rsv = 0 → x.rm.toNat ≤ 5 → x.ty.toNat < 2 → issue? s c [kW x.wa.toNat, kW x.wd.toNat] = some (s1, i) →
      let w := tyBits x.ty.toNat
      let rs := srFor a x.rm.toNat 5 (srLanes x.ty.toNat 64)
      let vs := (List.range 64).map fun j => (valueOf (tyFmt x.ty.toNat) (lane w (k.wr x.wa.toNat) j), nth rs.1 j 0)
      let q0 := quantise x.rm.toNat (vs.take 32)
      let q1 := quantise x.rm.toNat (vs.drop 32)
      ∃ u g, exec (.vqnt c x) s = .next (settled u) ∧ VCore s1 u c i.t 2 (({ a with sr := rs.2 } : Arith).flag (i.t + 10) (Nat.lor q0.2.2 q1.2.2)) ∧
        WroteG k (coreAt u c) x.rd.toNat g ∧ g = BitVec.ofNat 64 (q0.1 + 256 * q1.1) ∧ SameP k (coreAt u c) ∧ SameD k (coreAt u c) ∧
        (∀ r, r ≠ x.wd.toNat → (coreAt u c).wr r = k.wr r) ∧
        (∀ j, j < 512 → (j < 64 * x.part.toNat ∨ 64 * x.part.toNat + 64 ≤ j) → lane 4 ((coreAt u c).wr x.wd.toNat) j = lane 4 (k.wr x.wd.toNat) j) ∧
        (q0.2.1.length = 32 → q1.2.1.length = 32 → ∀ j, j < 64 → lane 4 ((coreAt u c).wr x.wd.toNat) (64 * x.part.toNat + j) = nth (q0.2.1 ++ q1.2.1) j 0 % 16)) ∧
    (∀ x : FmtY, x.fn = 0 → (k.gr x.gr.toNat).toNat < 64 → issue? s c [kW x.wa.toNat, kG x.gr.toNat, kP x.pm.toNat] = some (s1, i) →
      let r := (k.gr x.gr.toNat).toNat
      let st := softmaxStep (nth a.smM r 0) (nth a.smS r 0) ((List.range 64).map fun j => BitVec.ofNat 32 (lane 32 (k.wr x.wa.toNat) j)) (k.pr x.pm.toNat)
      ∃ u, exec (.vsmxStep c x) s = .next (settled u) ∧
        VCore s1 u c i.t 2 (({ a with smM := a.smM.set r st.2.2.1, smS := a.smS.set r st.2.2.2.1 } : Arith).flag (i.t + 22) st.2.2.2.2) ∧
        WroteG k (coreAt u c) x.gc.toNat (st.2.1.setWidth 64) ∧ WroteW k (coreAt u c) x.wd.toNat (packWide 32 (st.1.map BitVec.toNat)) ∧
        SameP k (coreAt u c) ∧ SameD k (coreAt u c)) ∧
    (∀ x : FmtY, x.wa = 0 → x.gr = 0 → x.gc = 0 → x.pm = 0 → issue? s c [] = some (s1, i) →
      (x.fn = 1 → x.wd = 0 → ∃ u, exec (.vsmxReset c x) s = .next (settled u) ∧
        VCore s1 u c i.t 1 { a with smM := List.replicate 64 0xFF800000, smS := List.replicate 64 0 } ∧ SameG k (coreAt u c) ∧ SameP k (coreAt u c) ∧ SameW k (coreAt u c) ∧ SameD k (coreAt u c)) ∧
      (x.fn = 2 → ∃ u v, exec (.vsmxReadM c x) s = .next (settled u) ∧ VStep s1 u c x.wd.toNat v i.t 1 a ∧
        (a.smM.length = 64 → ∀ j, j < 64 → lane 32 v j = (nth a.smM j 0).toNat)) ∧
      (x.fn = 3 → ∃ u v, exec (.vsmxReadS c x) s = .next (settled u) ∧ VStep s1 u c x.wd.toNat v i.t 1 a ∧
        (a.smS.length = 64 → ∀ j, j < 64 → lane 32 v j = (nth a.smS j 0).toNat))) ∧
    (∀ x : FmtV, x.wd = 0 → x.wb = 0 → x.rm = 0 → x.sat = 0 → issue? s c (if getBits x.fn 4 3 = 1 then [] else [kW x.wa.toNat]) = some (s1, i) →
      let n := x.fn.toNat % 8
      let ws := sentSet i.task n
      let old := SMap.get SentRow.fresh a.sents n
      ws ≠ [] → sentInt ws = decide (x.ty = 3) →
      (x.fn.toNat / 8 = 0 → ∃ u a', exec (.snchk c x) s = .next (settled u) ∧ VCore s1 u c i.t 1 a' ∧ a'.check = i.t ∧ a'.acc = a.acc ∧ a'.aflags = a.aflags ∧
        SMap.find a'.sents n = some (sentScan ws (tyFmt x.ty.toNat) old (tyRaw x.ty.toNat (k.wr x.wa.toNat))).st ∧
        SameG k (coreAt u c) ∧ SameP k (coreAt u c) ∧ SameW k (coreAt u c) ∧ SameD k (coreAt u c)) ∧
      (x.fn.toNat / 8 = 1 → x.wa = 0 → ∃ u a', exec (.snchk c x) s = .next (settled u) ∧ VCore s1 u c i.t 1 a' ∧ a'.check = i.t ∧ a'.acc = a.acc ∧
        SMap.find a'.sents n = some { old with sum := 0, sq := 0 } ∧ SameG k (coreAt u c) ∧ SameP k (coreAt u c) ∧ SameW k (coreAt u c) ∧ SameD k (coreAt u c)))

/-! ### Edley: matrix and drift instructions, sentinels -/

/-- When ACCRD's row is in range it writes the row's 64 entries to wd. An MMA whose checks pass adds one operation in flight with its formats, length, sources and operand cycles (2·K over the rate of Table 3.5), fixes the accumulator's mode, and goes on; the accumulator changes
only later. The completion of the oldest MMA is the state at the first cycle n + 12 + late after its issue, when its sums are in the accumulator. -/
def Obligations.MatrixInstructionsIssue : Prop :=
  (∀ (s s1 : State) (c : CoreRef) (i : Issue) (x : FmtI), c.mover = false → InCode s1 c i → x.imm = 0 → ((coreAt s1 c).gr x.ra.toNat).toNat < 64 →
    issue? s c [kG x.ra.toNat] (fun y => accReadable y c.tile) = some (s1, i) →
    ∃ u v, exec (.accrd c x) s = .next (settled u) ∧ WStep s1 u c x.rd.toNat v i.t 1 ∧
      ((accRow (arith s1 c.tile) ((coreAt s1 c).gr x.ra.toNat).toNat).length = 64 →
        ∀ j, j < 64 → lane 32 v j = (nth (accRow (arith s1 c.tile) ((coreAt s1 c).gr x.ra.toNat).toNat) j 0).toNat)) ∧
  (∀ (s s1 : State) (c : CoreRef) (i : Issue) (x : FmtX) (rate : Nat) (int : Bool), c.mover = false → InCode s1 c i →
    (let K := ((coreAt s c).gr x.gk.toNat).toNat
     issue? s c (kG x.gk.toNat :: fieldSrcs (fieldOf? x.a) x.fa.toNat K ++ fieldSrcs (fieldOf? x.b) x.fb.toNat K) (fun y => mmaFree y c.tile) = some (s1, i)) →
    fieldOf? x.a ≠ none → fieldOf? x.b ≠ none → mmaPair x.fa.toNat x.fb.toNat = some (rate, int) →
    mmaChecks s1 c i.task x ((coreAt s1 c).gr x.gk.toNat) = [] →
    (∀ d ∈ operandSide (fieldOf? x.a) ++ operandSide (fieldOf? x.b), inputHeld s1 c.tile d i.t = false) →
    (operandSide (fieldOf? x.a) = [] ∨ operandSide (fieldOf? x.a) ≠ operandSide (fieldOf? x.b)) →
    let k := coreAt s1 c
    let a := arith s1 c.tile
    ∃ u m, exec (.mma c x) s = .next (settled u) ∧ VCore s1 u c i.t 1 { a with mmas := a.mmas ++ [m], accInt := int } ∧
      m.fa = x.fa.toNat ∧ m.fb = x.fb.toNat ∧ m.clr = (x.clr == 1) ∧ m.k = (k.gr x.gk.toNat).toNat ∧ m.n = 2 * m.k / rate ∧ m.t = i.t ∧ m.pos = 0 ∧ m.pc = k.pc ∧
      m.a = operandSrc k (fieldOf? x.a) m.fa m.k ∧ m.b = operandSrc k (fieldOf? x.b) m.fb m.k ∧
      SameG k (coreAt u c) ∧ SameP k (coreAt u c) ∧ SameW k (coreAt u c) ∧ SameD k (coreAt u c)) ∧
  (∀ (s : State) (n : Nat) (m : MmaOp), (arith s n).mmas = [m] → activeTiles s = [] → m.pos = m.n → s.clk.cyc ≤ m.t + m.n + 12 + m.late →
    m.t + m.n + 12 + m.late < cycleAt s (closing s) →
    ∃ u, exec (.mmaComplete n) s = .next (settled u) ∧ u.clk.cyc = m.t + m.n + 12 + m.late ∧ (arith u n).mmas = [] ∧ (arith u n).acc = (mmaFold (arith s n) m).acc ∧
      u.mem = s.mem ∧ u.cores = s.cores ∧ u.regs = s.regs)

/-- For an INT8 MMA whose operands have been taken, entry (i, j) of the accumulator is the entry before (0 with CLEAR) plus the signed products of element i of A and element j of B of every step, each step's sum clamped to 32 bits; rows stay 64 entries long. -/
def Obligations.AccumulatorEntrySums : Prop :=
  ∀ (a : Arith) (m : MmaOp) (i j : Nat), m.fa = 7 → m.fb = 7 → i < 64 → j < 64 → (m.clr = true ∨ (accRow a i).length = 64) →
    let c0 : Int := if m.clr then 0 else (nth (accRow a i) j 0).toInt
    let prod := fun k => signed 8 (operandBits 7 m.inA k i) * signed 8 (operandBits 7 m.inB k j)
    (accRow (mmaFold a m) i).length = 64 ∧
    (nth (accRow (mmaFold a m) i) j 0).toInt =
      (List.range m.k).foldl (fun (acc : Int) k => max (-(2 ^ 31)) (min (2 ^ 31 - 1) (acc + prod k))) c0

/-- An MDRAIN without scale and bias vectors, whose checks pass, whose task has no drain sentinel and whose accumulator is readable, adds a drain in flight whose 64 rows are the accumulator's rows converted to its format, row by row, and goes on with no other change. The completion of the only drain of a tile, all of whose
rows are written, is the state at cycle D + 70 + late with no drain left. -/
def Obligations.DrainWritesItsRows : Prop :=
  (∀ (s s1 : State) (c : CoreRef) (i : Issue) (x : FmtD), c.mover = false → InCode s1 c i → issue? s c [kD x.dd.toNat] = some (s1, i) →
    x.sk = 0 → x.be = 0 → mdrainChecks s1 c x = [] → bitOf (sentHead i.task) 39 = false → drainFree s1 c.tile ≤ i.t → activeTiles s1 = [] → i.t < cycleAt s1 (closing s1) →
    let a := arith s1 c.tile
    retireArith i.t a = a →
    ∃ u d, exec (.mdrain c x) s = .next (settled u) ∧ arith u c.tile = { a with drains := a.drains ++ [d], sr := (drainRows a x.fmt.toNat x.rm.toNat (x.sat == 1) [] []).2 } ∧
      d.rows = (drainRows a x.fmt.toNat x.rm.toNat (x.sat == 1) [] []).1 ∧ d.rows.length = 64 ∧ d.dst = (coreAt s1 c).dr x.dd.toNat ∧ d.fmt = x.fmt.toNat ∧ d.row = 0 ∧ d.t = i.t ∧
      Goes s1 u c i.t 1 ∧ u.mem = s1.mem ∧ u.regs = s1.regs ∧ u.tiles = s1.tiles) ∧
  (∀ (s : State) (n : Nat) (d : DrainOp), (arith s n).drains = [d] → activeTiles s = [] → d.row = 64 → s.clk.cyc ≤ d.t + 70 + d.late → d.t + 70 + d.late < cycleAt s (closing s) →
    ∃ u, exec (.mdrainComplete n) s = .next (settled u) ∧ u.clk.cyc = d.t + 70 + d.late ∧ (arith u n).drains = [] ∧ u.mem = s.mem ∧ u.cores = s.cores ∧ u.regs = s.regs)

/-- On a mover core, with a count that is not 0, its reserved fields 0, a neighbour in the region on each side used, free links and a good descriptor: DOUT of a descriptor starts a sending stream and holds its output until its last beat, DOUT of an input starts a forward and holds both, DIN starts a capture that writes to
its descriptor and holds its input. DWAIT for a later schedule cycle stalls the core until it, and DWAIT_EXPIRE lets the core go on at that cycle. No register and no byte of memory changes. -/
def Obligations.DriftStreamsStart : Prop :=
  (∀ (s s1 : State) (c : CoreRef) (i : Issue) (x : FmtS) (noise : LinkNoise), c.mover = true → InCode s1 c i → x.rsv = 0 → x.cnt ≠ 0 →
    let side := x.dir.toNat
    let k := coreAt s1 c
    let t := tile s1 c.tile
    i.task.neighbour c.tile side ≠ none →
    (x.st = 1 → x.sx.toNat < 16 → issue? s c [kD x.sx.toNat] = some (s1, i) → streamDesc s1 c x = [] → outputHeld s1 c.tile side i.t = false →
      ∃ u, exec (.dout c ⟨x, noise⟩) s = .next (settled u) ∧ u = { s1 with cores := u.cores, tiles := u.tiles } ∧ Goes s1 u c i.t 1 ∧
        (∀ n, n ≠ c.tile → SMap.find u.tiles n = SMap.find s1.tiles n) ∧
        tile u c.tile = { t with outHold := (tile u c.tile).outHold, douts := t.douts ++ [{ side := side, desc := k.dr x.sx.toNat, n := x.cnt.toNat, start := i.t, done := 0, pc := k.pc, noise := noise }] } ∧
        (∀ y, i.t ≤ y → (outputHeld u c.tile side y = true ↔ (y < i.t + x.cnt.toNat ∨ outputHeld s1 c.tile side y = true)))) ∧
    (x.st = 2 → x.sx.toNat < 4 → issue? s c [] = some (s1, i) → i.task.neighbour c.tile x.sx.toNat ≠ none → outputHeld s1 c.tile side i.t = false → inputHeld s1 c.tile x.sx.toNat i.t = false →
      ∃ u, exec (.dout c ⟨x, noise⟩) s = .next (settled u) ∧ u = { s1 with cores := u.cores, tiles := u.tiles } ∧ Goes s1 u c i.t 1 ∧
        (tile u c.tile).cons = t.cons ++ [{ side := x.sx.toNat, start := i.t, n := x.cnt.toNat, done := 0, sink := .forward side, pc := k.pc, noise := noise }] ∧
        inputHeld u c.tile x.sx.toNat i.t = true ∧ outputHeld u c.tile side i.t = true) ∧
    (x.st = 1 → x.sx.toNat < 16 → issue? s c [kD x.sx.toNat] = some (s1, i) → streamDesc s1 c x = [] → inputHeld s1 c.tile side i.t = false →
      ∃ u, exec (.din c x) s = .next (settled u) ∧ u = { s1 with cores := u.cores, tiles := u.tiles } ∧ Goes s1 u c i.t 1 ∧
        (tile u c.tile).cons = t.cons ++ [{ side := side, start := i.t, n := x.cnt.toNat, done := 0, sink := .desc (k.dr x.sx.toNat), pc := k.pc, noise := [] }] ∧
        inputHeld u c.tile side i.t = true)) ∧
  (∀ (s s1 : State) (c : CoreRef) (i : Issue) (x : BitVec 26), InCode s1 c i → issue? s c [] = some (s1, i) → i.t < i.task.start + x.toNat →
    ∃ u, exec (.dwait c x) s = .next (settled u) ∧ OnlyCore s1 u c ∧ (coreAt u c).st = .wait (i.task.start + x.toNat) ∧ (coreAt u c).readyAt = i.task.start + x.toNat ∧
      (coreAt u c).pc = (seqNext (coreAt s1 c).loops ((coreAt s1 c).pc + 4)).1 ∧ SameG (coreAt s1 c) (coreAt u c) ∧ SameD (coreAt s1 c) (coreAt u c)) ∧
  (∀ (s s1 : State) (c : CoreRef) (t : Nat), (coreAt s c).st = .wait t → eventAt s t = some s1 → (coreAt s1 c).st = .wait t →
    ∃ u, exec (.dwaitExpire c) s = .next (settled u) ∧ OnlyCore s1 u c ∧ coreAt u c = { coreAt s1 c with st := .run } ∧ t ≤ s1.clk.cyc)


/-! ### The Tick, submission, and task graphs -/

namespace Sys2Proof.Claims

/-- Only registers have changed, and of those only the ones whose keys are listed. -/
def RegsOnly (s u : State) (keys : List Nat) : Prop := u = { s with regs := u.regs } ∧ RegsBut s u keys

/-- Field `f` reads `x`, and the other bits of its register are as they were. -/
def Holds (s u : State) (f : Fld) (x : Nat) (i : Nat := 0) (j : Nat := 0) (fn : Nat := 0) : Prop :=
  fg u f i j fn = x ∧ ∀ b, b < f.lo ∨ f.hi < b → (rd u f.reg i j fn).getLsbD b = (rd s f.reg i j fn).getLsbD b

/-- Every byte of memory reads as before. -/
def SameMem (s u : State) : Prop := ∀ a, memByte u.mem a = memByte s.mem a

/-- A graph's nodes after its gates and counters have been looked at: a WAITING node that is runnable is ELIGIBLE with the present time as its age, every other node is as it was. -/
def Woken (u : State) (g g' : Graph) : Prop :=
  g' = { g with nodes := g'.nodes } ∧ g'.nodes.length = g.nodes.length ∧
  ∀ (k : Nat) (n n' : Node), g.nodes[k]? = some n → g'.nodes[k]? = some n' →
    n' = if g.validated = true ∧ g.status = none ∧ n.state = .waiting ∧ n.runnable u g.part = true then { n with state := .eligible, age := mer u } else n

/-- Every graph of a list so, in place. -/
def AllWoken (u : State) (l l' : List Graph) : Prop :=
  l'.length = l.length ∧ ∀ (j : Nat) (g g' : Graph), l[j]? = some g → l'[j]? = some g' → Woken u g g'

/-- The nodes that a header of 128 bytes counts as in flight (R39). -/
def headerNodes (bs : List Byte) : Nat :=
  let n := getBits (dw (wordsOf 16 bs) 0) 16 0
  if 1 ≤ n ∧ n ≤ 65536 ∧ getBits (dw (wordsOf 16 bs) 1) 52 32 ≤ 1048576 then n else 0

end Sys2Proof.Claims

/-- For the PF or the Overman: a non-zero write to TGE_TICK_SWITCH arms a switch at that time with PERIOD_NEXT captured when it is a boundary O + k × P at least 1 ms ahead and PERIOD_NEXT lies in 20 to 2,000, and clears
SWITCH_ERR; otherwise it only sets SWITCH_ERR. A write of 0 cancels the switch and clears PENDING and SWITCH_ERR. PERIOD_NEXT takes the written value unless PENDING is 1. A virtual function's write changes nothing. Nothing else changes. -/
def Obligations.TickScheduleWrites : Prop :=
  ∀ (s : State) (f : Func) (v : Word),
    let ctl := regKey .tgeTickCtl 0 0 0
    let sw := regKey .tgeTickSwitch 0 0 0
    let p := fg s F.TGE_TICK_CTL_PERIOD_NEXT
    let arms := (∃ k : Int, (v.toNat : Int) = s.clk.origin + k * (period s * 1000 : Nat)) ∧ mer s + 1000000 ≤ v.toNat ∧ 20 ≤ p ∧ p ≤ 2000
    let rest := fun (u : State) => ∀ b, b ≠ 30 → b ≠ 31 → (rd u .tgeTickCtl).getLsbD b = (rd s .tgeTickCtl).getLsbD b
    (isPriv s f = true → v ≠ 0 → arms →
      ∃ u, exec (.tickSwitchArm f v) s = .next (settled u) ∧ u = { s with regs := u.regs, clk := { s.clk with switch := some (v.toNat, p) } } ∧ RegsBut s u [ctl, sw] ∧
        rd u .tgeTickSwitch = v ∧ fg u F.TGE_TICK_CTL_PENDING = 1 ∧ fg u F.TGE_TICK_CTL_SWITCH_ERR = 0 ∧ rest u) ∧
    (isPriv s f = true → v ≠ 0 → ¬ arms →
      ∃ u, exec (.tickSwitchArm f v) s = .next (settled u) ∧ RegsOnly s u [ctl] ∧ Holds s u F.TGE_TICK_CTL_SWITCH_ERR 1) ∧
    (isPriv s f = true →
      ∃ u, exec (.tickSwitchCancel f) s = .next (settled u) ∧ u = { s with regs := u.regs, clk := { s.clk with switch := none } } ∧ RegsBut s u [ctl, sw] ∧
        fg u F.TGE_TICK_CTL_PENDING = 0 ∧ fg u F.TGE_TICK_CTL_SWITCH_ERR = 0 ∧ rest u ∧ rd u .tgeTickSwitch = BitVec.ofNat 64 s.clk.origin) ∧
    (isPriv s f = true → fg s F.TGE_TICK_CTL_PENDING = 0 →
      ∃ u, exec (.tickCtlWrite f v) s = .next (settled u) ∧ RegsOnly s u [ctl] ∧ Holds s u F.TGE_TICK_CTL_PERIOD_NEXT (getBits v 26 16)) ∧
    (fg s F.TGE_TICK_CTL_PENDING = 1 → exec (.tickCtlWrite f v) s = .next (settled s)) ∧
    (isPriv s f = false →
      exec (.tickSwitchArm f v) s = .next (settled s) ∧ exec (.tickSwitchCancel f) s = .next (settled s) ∧ exec (.tickCtlWrite f v) s = .next (settled s))

/-- On a powered module TICK_BOUNDARY brings scheduled traffic and time up to the closing boundary b, makes b the opening boundary, adds 1 to TGE_TICK_NOW, and then does what Table 2.17 puts at cycle 0 and
in the cycles up to 255. The switch whose time has come sets origin and PERIOD and clears PENDING. The budget is BUDGET_MW × P less the debt of the Tick that closes (none where it is unlimited), a partition's cap
is CAP_MW × P (none for 0), and ADMITTED_UJ is 0. Admission is on when EN is 1, the module is awake and not halted, and the fabric reference is there. -/
def Obligations.TickBoundaryOpensATick : Prop :=
  (∀ s : State, s.om.powered = true →
    let b := closing s
    let s0 := advanceToNs (settle s (cycleAt s b)) b
    ∃ s1 u, exec .tickBoundary s = .next (settled u) ∧ u = boundarySettle (boundaryZero s1 b) b ∧
      s1 = { s0 with regs := s1.regs, clk := { s0.clk with tickMer := b, tickCyc := cycleAt s0 b } } ∧ RegsBut s0 s1 [regKey .tgeTickNow 0 0 0] ∧
      rd s1 .tgeTickNow = rd s0 .tgeTickNow + 1 ∧ s0.clk.cyc = max (settle s (cycleAt s b)).clk.cyc (cycleAt (settle s (cycleAt s b)) b)) ∧
  (∀ (s : State) (b t p : Nat), s.clk.switch = some (t, p) → t ≤ b → p < 2048 →
    let u := switchPeriod s b
    u = { s with regs := u.regs, clk := { s.clk with switch := none, origin := t } } ∧ RegsBut s u [regKey .tgeTickCtl 0 0 0] ∧ period u = p ∧ fg u F.TGE_TICK_CTL_PENDING = 0 ∧
    ∀ k, 10 < k → k ≠ 31 → (rd u .tgeTickCtl).getLsbD k = (rd s .tgeTickCtl).getLsbD k) ∧
  (∀ (s : State) (b t p : Nat), s.clk.switch = some (t, p) → b < t → switchPeriod s b = s) ∧
  (∀ s : State,
    let u := openBudget s
    let mw := fg s F.TGE_ENERGY_BUDGET_BUDGET_MW
    let debt : Int := (s.tge.budget.map fun x => max 0 (-x)).getD 0
    u.tge.budget = (if mw = 0xFFFFFFFF then none else some ((mw * period s : Nat) - debt)) ∧ fg u F.TGE_ENERGY_STATUS_ADMITTED_UJ = 0 ∧
    (∀ q, q < 8 → SMap.find u.tge.caps q = if fg s F.TGE_PART_ENERGY_CAP_CAP_MW q = 0 then none else some ((fg s F.TGE_PART_ENERGY_CAP_CAP_MW q * period s : Nat) : Int)) ∧
    u = { s with regs := u.regs, tge := { s.tge with budget := u.tge.budget, caps := u.tge.caps, debt := u.tge.debt } } ∧ RegsBut s u [regKey .tgeEnergyStatus 0 0 0]) ∧
  (∀ (s : State) (b : Nat), s.om.refs.resume = none →
    let u := openAdmission s b
    (u.tge.admitOn = true ↔ fg s F.TGE_ADMIT_CTL_EN = 1 ∧ awake s = true ∧ s.tge.halted = false ∧ fg s F.CLK_REF_STATUS_FABRIC_LOST ≠ 1) ∧
    u = { s with tge := { s.tge with admitOn := u.tge.admitOn, noFit := [], tight := [] } })

/-- After the overruns of a boundary no task of a slot is LAUNCHING or RUNNING. A READY task that was passed over in the Tick has one more such Tick counted and any other READY task none; at STARVE_TICKS (at least 1) it
is reserved. Every finished graph but a shadow run's is released at the boundary unless it already was. -/
def Obligations.OverrunsStarvationAndRelease : Prop :=
  (∀ (s : State) (b slot : Nat) (t : Task) (n : Node), SMap.wf s.tasks = true → (slot, t) ∈ s.tasks → node? (overruns s b) t.gseq t.node = some n →
    n.state ≠ .launching ∧ n.state ≠ .running) ∧
  (∀ (s : State) (j k : Nat) (g : Graph) (n : Node), s.tge.graphs[j]? = some g → g.nodes[k]? = some n →
    ∃ g' n', (starve s).tge.graphs[j]? = some g' ∧ g'.nodes[k]? = some n' ∧ g' = { g with nodes := g'.nodes } ∧
      (n.state ≠ .ready → n' = n) ∧
      (n.state = .ready → n' = { n with passed := n'.passed, passedNow := false, reserved := n'.reserved } ∧ n'.passed = (if n.passedNow then n.passed + 1 else 0) ∧
        (n'.reserved = true ↔ n.reserved = true ∨ max 1 (fg s F.TGE_ADMIT_CTL_STARVE_TICKS) ≤ n'.passed))) ∧
  (∀ (s : State) (b j : Nat) (g : Graph), s.tge.graphs[j]? = some g →
    ∃ g', (releaseGraphs s b).tge.graphs[j]? = some g' ∧ g' = { g with finished := g'.finished, released := g'.released } ∧
      g'.finished = (if g.finished = none ∧ g.complete = true then some s.clk.cyc else g.finished) ∧
      g'.released = (if g'.finished.isSome = true ∧ g.released = none ∧ g.shadow = false then some b else g.released))

/-- A doorbell of a function that may act on the queue's partition, in service, sets the ring's tail or head from bits 15..0 of its value and no other index; a value of 2^SIZE_LOG2 or more only sets DOORBELL_RANGE. A new submission tail is
remembered with its Meridian time behind the earlier ones. A control write sets EN and SIZE_LOG2 as written; while EN is 1 SIZE_LOG2 stays; a write that sets EN with SIZE_LOG2 outside 4 to 16 leaves EN at 0 and sets CFG_ERR. -/
def Obligations.DoorbellsMoveRingIndices : Prop :=
  ∀ (s : State) (f : Func) (q : Nat) (v : Word),
    let x := getBits v 15 0
    (doorbellOpen s f (q / 16) = true → 2 ^ fg s F.TGE_SQ_CTL_SIZE_LOG2 q ≤ x →
      ∃ u, exec (.sqTailDoorbell f q v) s = .next (settled u) ∧ RegsOnly s u [regKey .tgeQStatus q 0 0] ∧ Holds s u F.TGE_Q_STATUS_DOORBELL_RANGE 1 q) ∧
    (doorbellOpen s f (q / 16) = true → x < 2 ^ fg s F.TGE_SQ_CTL_SIZE_LOG2 q →
      ∃ u, exec (.sqTailDoorbell f q v) s = .next (settled u) ∧ RegsBut s u [regKey .tgeSqHead q 0 0] ∧ Holds s u F.TGE_SQ_HEAD_DOORBELL x q ∧
        u = { s with regs := u.regs, tge := { s.tge with dbells := u.tge.dbells } } ∧ (∀ r, r ≠ q → SMap.find u.tge.dbells r = SMap.find s.tge.dbells r) ∧
        SMap.get [] u.tge.dbells q = (if x = fg s F.TGE_SQ_HEAD_DOORBELL q then SMap.get [] s.tge.dbells q else SMap.get [] s.tge.dbells q ++ [(mer s, x)])) ∧
    (doorbellOpen s f (q / 16) = true → 2 ^ fg s F.TGE_CQ_CTL_SIZE_LOG2 q ≤ x →
      ∃ u, exec (.cqHeadDoorbell f q v) s = .next (settled u) ∧ RegsOnly s u [regKey .tgeQStatus q 0 0] ∧ Holds s u F.TGE_Q_STATUS_DOORBELL_RANGE 1 q) ∧
    (doorbellOpen s f (q / 16) = true → x < 2 ^ fg s F.TGE_CQ_CTL_SIZE_LOG2 q →
      ∃ u, exec (.cqHeadDoorbell f q v) s = .next (settled u) ∧ RegsOnly s u [regKey .tgeCqTail q 0 0, regKey .tgeQStatus q 0 0] ∧
        Holds s u F.TGE_CQ_TAIL_DOORBELL x q ∧ ∀ b, b ≠ 3 → (rd u .tgeQStatus q).getLsbD b = (rd s .tgeQStatus q).getLsbD b) ∧
    (mayAct s f (q / 16) = true →
      let size := if fg s F.TGE_SQ_CTL_EN q = 1 then fg s F.TGE_SQ_CTL_SIZE_LOG2 q else getBits v 4 0
      let bad := fg s F.TGE_SQ_CTL_EN q ≠ 1 ∧ getBits v 31 31 = 1 ∧ (size < 4 ∨ 16 < size)
      ∃ u, exec (.sqCtlWrite f q v) s = .next (settled u) ∧ RegsOnly s u [regKey .tgeSqCtl q 0 0, regKey .tgeQStatus q 0 0] ∧ fg u F.TGE_SQ_CTL_SIZE_LOG2 q = size ∧
        (bad → fg u F.TGE_SQ_CTL_EN q = 0 ∧ fg u F.TGE_Q_STATUS_CFG_ERR q = 1) ∧ (¬ bad → fg u F.TGE_SQ_CTL_EN q = getBits v 31 31 ∧ rd u .tgeQStatus q = rd s .tgeQStatus q)) ∧
    (mayAct s f (q / 16) = true →
      let size := if fg s F.TGE_CQ_CTL_EN q = 1 then fg s F.TGE_CQ_CTL_SIZE_LOG2 q else getBits v 4 0
      let bad := fg s F.TGE_CQ_CTL_EN q ≠ 1 ∧ getBits v 31 31 = 1 ∧ (size < 4 ∨ 16 < size)
      ∃ u, exec (.cqCtlWrite f q v) s = .next (settled u) ∧ RegsOnly s u [regKey .tgeCqCtl q 0 0, regKey .tgeQStatus q 0 0] ∧ fg u F.TGE_CQ_CTL_SIZE_LOG2 q = size ∧
        fg u F.TGE_CQ_CTL_VECTOR q = getBits v 26 16 ∧ fg u F.TGE_CQ_CTL_IRQ_EN q = getBits v 30 30 ∧
        (bad → fg u F.TGE_CQ_CTL_EN q = 0 ∧ fg u F.TGE_Q_STATUS_CFG_ERR q = 1) ∧
        (¬ bad → fg u F.TGE_CQ_CTL_EN q = getBits v 31 31 ∧ fg u F.TGE_Q_STATUS_CFG_ERR q = fg s F.TGE_Q_STATUS_CFG_ERR q))

/-- The header at the head of the queue that is served first becomes the last graph in flight with the next sequence number, and the head moves on; a header that fails a check leaves a graph of status GRAPH_INVALID with that DETAIL. A refused
fetch sets SQ_ADDR_FAULT and clears EN. The first graph not yet validated, whose arrays pass every check, gets one node per descriptor with its DEP_COUNT, WAITING or at once ELIGIBLE where nothing holds it; a node that fails a check gives the
graph GRAPH_INVALID, the DETAIL and the node. -/
def Obligations.GraphsAreFetchedAndValidated : Prop :=
  (∀ (s : State) (q : Nat), oldestQueue s = some q → s.tge.graphs.length < 4096 → awake s = true →
    let i := fg s F.TGE_SQ_HEAD_INDEX q
    let ga := BitVec.ofNat 64 ((rd s .tgeSqBase q).toNat + 128 * i)
    (∀ (st a : Nat) (s1 : State), engineRead s (q / 16) ga 128 = (.refused st a, s1) →
      ∃ u, exec .graphHeaderFetch s = .next (settled u) ∧ RegsOnly s1 u [regKey .tgeQStatus q 0 0, regKey .tgeSqCtl q 0 0] ∧
        Holds s1 u F.TGE_Q_STATUS_SQ_ADDR_FAULT 1 q ∧ Holds s1 u F.TGE_SQ_CTL_EN 0 q) ∧
    (∀ (bs : List Byte) (s1 : State), engineRead s (q / 16) ga 128 = (.data bs, s1) → nodesInFlight s + headerNodes bs ≤ 524288 → fg s F.TGE_SQ_CTL_SIZE_LOG2 q ≤ 16 →
      ∃ u g, exec .graphHeaderFetch s = .next (settled u) ∧ u.tge.graphs.getLast? = some g ∧ u.tge.graphs.length = s1.tge.graphs.length + 1 ∧
        g.queue = q ∧ g.seq = s.tge.nextSeq ∧ g.hdr = wordsOf 16 bs ∧ u.tge.nextSeq = s1.tge.nextSeq + 1 ∧ RegsBut s1 u [regKey .tgeSqHead q 0 0] ∧
        Holds s1 u F.TGE_SQ_HEAD_INDEX ((i + 1) % 2 ^ fg s F.TGE_SQ_CTL_SIZE_LOG2 q) q ∧
        (headerCheck g.hdr = 0 → g.validated = false ∧ g.status = none) ∧ (headerCheck g.hdr ≠ 0 → g.validated = true ∧ g.status = some (2, headerCheck g.hdr, true, 0)))) ∧
  (∀ (s s1 : State) (g h : Graph) (rest : List Graph) (descs : List (List Word)) (edges : List Nat) (j : Nat),
    s.tge.graphs.filter (fun x => !x.validated) = g :: rest → fetchArrays s g = (some (some (descs, edges)), s1) → confBad s1 g.part g descs = false →
    s1.tge.graphs[j]? = some h → h.seq = g.seq → h.status = none →
    (∀ k d, nodesCheck descs (db g.hdr 1 52 32) edges = some (k, d) →
      ∃ u h', exec .graphValidate s = .next (settled u) ∧ u.tge.graphs[j]? = some h' ∧ h'.validated = true ∧ h'.status = some (2, d, false, k)) ∧
    (nodesCheck descs (db g.hdr 1 52 32) edges = none → strayBad descs edges = false → stateTests s1 g.part (descs.map Node.fresh) = none → g.cancelled = false →
      ∃ u h', exec .graphValidate s = .next (settled u) ∧ u.tge.graphs[j]? = some h' ∧ h'.validated = true ∧ h'.status = none ∧ h'.edges = edges ∧ h'.nodes.length = descs.length ∧
        ∀ (k : Nat) (ws : List Word) (n : Node), descs[k]? = some ws → h'.nodes[k]? = some n →
          n.words = ws ∧ n.deps = db ws 0 31 16 ∧ n.state = (if (Node.fresh ws).runnable s1 h.part then .eligible else .waiting)))

/-- SLOT_GRANT: the oldest ELIGIBLE task becomes READY in the lowest free slot, whose epoch rises by 1 modulo 256. ADMISSION from cycle 256 on: where the first READY task in the order of R48 and R52 passes the time and energy tests and a
placer finds a region, the task is LAUNCHING on that region, which lies in its partition on free tiles, its tiles are occupied, and its ENERGY leaves the budget; while admission is off, halted or the module asleep nothing changes. A write of EN = 0 turns
admission off at once; a write of EN = 1 waits for the next boundary. -/
def Obligations.SlotsAndAdmission : Prop :=
  (∀ (s : State) (seq k : Nat) (n : Node), leastBy ageBefore (nodesIn s .eligible) = some (seq, k, n) → SMap.wf s.tge.slots = true →
    let x := freeSlotFrom 0 s.tge.slots
    (∀ y, y < x → ∃ sl, SMap.find s.tge.slots y = some sl ∧ sl.holder ≠ none) ∧ (slotOf s x).holder = none ∧
    (x < 65536 →
      ∃ u, exec .slotGrant s = .next (settled u) ∧ u = { s with tge := { s.tge with slots := u.tge.slots, graphs := u.tge.graphs } } ∧
        SMap.find u.tge.slots x = some { epoch := ((slotOf s x).epoch + 1) % 256, holder := some (seq, k) } ∧ (∀ y, y ≠ x → SMap.find u.tge.slots y = SMap.find s.tge.slots y) ∧
        ∀ m, node? s seq k = some m → node? u seq k = some { m with state := .ready, slot := some x })) ∧
  (∀ s : State, s.tge.admitOn = false ∨ s.tge.halted = true ∨ awake s = false ∨ (s.clk.tickCyc + 256 ≤ s.clk.cyc ∧ windowOpen s = false) →
    exec .admission s = .next (settled s)) ∧
  (∀ (s : State) (seq k d : Nat) (n : Node) (g : Graph) (r : Region) (ds : List Nat) (rest : List (Nat × Nat × Node)),
    s.tge.admitOn = true → s.tge.halted = false → awake s = true → s.clk.tickCyc + 256 ≤ s.clk.cyc →
    let l := sortBy ageBefore (nodesIn s .ready)
    l.filter (fun x => x.2.2.reserved) ++ l.filter (fun x => !x.2.2.reserved) = (seq, k, n) :: rest → graph? s seq = some g → node? s seq k = some n →
    partPaused s g.part = false → n.restarted = false → unsatisfiable s g.part n = false → tooLong s n = false → timeFits s n = true → energyFits s g.part n = true →
    (permittedDies n).filter (fun d => n.reserved || !(reservedDies l).contains d) = d :: ds → searchedInVain s seq k d = false → SMap.get 0 s.tge.placer d ≤ s.clk.cyc →
    findOrigin s g.part d n = some r →
      fits s g.part r = true ∧ r.die = d ∧ r.rows = n.rows ∧ r.cols = n.cols ∧
      ∃ u m t, exec .admission s = .next (settled u) ∧ u.mem = s.mem ∧ u.cores = s.cores ∧ node? u seq k = some m ∧ m.state = .launching ∧ m.region = some r ∧
        task? u (n.slot.getD 0) = some t ∧ t.gseq = seq ∧ t.node = k ∧ t.part = g.part ∧ t.region = r ∧ t.tiles = regionTiles s r ∧ t.args = (n.words.drop 6).take 4 ∧ t.started = false ∧
        (∀ i, i ∈ t.tiles → (tile u i).slot = some (n.slot.getD 0)) ∧ (∀ i, i ∉ t.tiles → tile u i = tile s i) ∧
        u.tge.budget = s.tge.budget.map (· - ((n.energy * 1000 : Nat) : Int))) ∧
  (∀ (s : State) (f : Func) (v : Word), isPriv s f = true →
    ∃ u, exec (.admitCtlWrite f v) s = .next (settled u) ∧ u = { s with regs := u.regs, tge := { s.tge with admitOn := u.tge.admitOn } } ∧ RegsBut s u [regKey .tgeAdmitCtl 0 0 0] ∧
      fg u F.TGE_ADMIT_CTL_EN = getBits v 31 31 ∧ fg u F.TGE_ADMIT_CTL_STARVE_TICKS = getBits v 7 0 ∧ u.tge.admitOn = (s.tge.admitOn && decide (getBits v 31 31 = 1)))

/-- The launch of a LAUNCHING task whose image is read, whose header keeps to Table 4.1 with the descriptor's IMAGE_ID and which declares no sentinels: every tile of the region has its issue core at ISSUE_ENTRY and its mover core at MOVER_ENTRY, running, with all
registers zero and no loop, from one and the same cycle, its arithmetic state is reset but for the SR seeds, and the task is RUNNING; a single tile's store holds the image from STORE_BASE on. A header that breaks Table 4.1 raises BAD_IMAGE (0x24) at PC 0, a
different IMAGE_ID raises 0x25, and the region's tiles are free again. -/
def Obligations.TasksLaunch : Prop :=
  ∀ (s s1 : State) (slot : Nat) (t : Task) (n : Node) (bs : List Byte),
    task? s slot = some t → node? s t.gseq t.node = some n → n.state = .launching → engineRead s t.part (dw n.words 3) n.imageBytes = (.data bs, s1) →
    let hd := wordsOf 16 (fit 128 bs)
    (imageOk hd n.imageBytes = true → dw hd 3 = dw n.words 12 → dw n.words 10 = 0 →
      let at_ := max s1.clk.cyc t.launchAt
      ∃ u, exec (.taskLaunch slot) s = .next (settled u) ∧
        task? u slot = some { t with codeEnd := db hd 2 63 32, start := at_, started := true, sets := [] } ∧
        (∀ m, node? u t.gseq t.node = some m → m.state = .running) ∧
        (∀ i, i ∈ t.tiles →
          coreAt u ⟨i, false⟩ = { Core.idle with pc := BitVec.ofNat 64 (db hd 1 63 32), st := .run, readyAt := at_ } ∧
          coreAt u ⟨i, true⟩ = { Core.idle with pc := BitVec.ofNat 64 (db hd 1 31 0), st := .run, readyAt := at_ } ∧
          arith u i = { Arith.fresh with sr := (arith u i).sr } ∧ (tile u i).windows = []) ∧
        (∀ i, t.tiles = [i] → activeTiles s1 = [] → Memory.wf s1.mem = true → ∀ k, k < bs.length → k < windowTable (tile u i).base → memByte u.mem (keyTile i ((tile u i).base + k)) = nth bs k 0)) ∧
    (∀ cause, (imageOk hd n.imageBytes = false ∧ cause = 0x24) ∨ (imageOk hd n.imageBytes = true ∧ dw hd 3 ≠ dw n.words 12 ∧ cause = 0x25) → task? s1 slot = some t → s1.flips = [] →
      ∃ u r, exec (.taskLaunch slot) s = .next (settled u) ∧ u.recs = s1.recs ++ [r] ∧ r.cls = 1 ∧ r.cause = cause ∧ r.pc = 0 ∧
        (∀ m, node? u t.gseq t.node = some m → m.state = .faulted) ∧ (∀ i, i ∈ t.tiles → (tile u i).slot = none))

/-- Once every condition of R46 holds before the closing boundary, the task end event makes the task DONE, frees its tiles and its slot, adds to its post gate and counts down its successors. The reset of a RESETTING task frees its tiles; where restarts are
left and its graph is neither cancelled nor aborted it is READY again with its slot's epoch one higher, and otherwise it is FAULTED, or CANCELLED with its graph. -/
def Obligations.TasksEnd : Prop :=
  (∀ (s : State) (slot : Nat) (t t1 : Task) (g : Graph) (n : Node), task? s slot = some t → t.started = true →
    let e := t.tiles.foldl (fun m i => max m (endCycle s i)) s.clk.cyc
    let s1 := advanceTo (settle s e) e
    e < cycleAt s (closing s) → task? s1 slot = some t1 → t1.tiles.all (tileDone s1) = true → graph? s1 t1.gseq = some g → g.nodes[t1.node]? = some n → n.state = .running →
    ∃ u, exec (.taskEndEvent slot) s = .next (settled u) ∧ (∀ m, node? u t1.gseq t1.node = some m → m.state = .done ∧ m.slot = none) ∧
      (∀ x, n.slot = some x → (slotOf u x).holder = none) ∧ (∀ i, i ∈ t1.tiles → (tile u i).slot = none ∧ (tile u i).windows = [] ∧ coreAt u ⟨i, false⟩ = Core.idle ∧ coreAt u ⟨i, true⟩ = Core.idle) ∧
      (db n.words 1 15 15 = 1 → (∀ i, i ∈ t1.tiles → (tile s1 i).gatherI = [] ∧ (tile s1 i).gatherM = []) → gate u g.part (db n.words 1 9 0) = (gate s1 g.part (db n.words 1 9 0) + db n.words 2 31 0) % 2 ^ 32) ∧
      (∀ j m, j ≠ t1.node → g.nodes[j]? = some m → ∃ m', node? u t1.gseq j = some m' ∧ m'.deps = m.deps - (g.succsOf t1.node).count j)) ∧
  (∀ (s : State) (slot : Nat) (t : Task) (g : Graph) (n : Node), task? s slot = some t → graph? s t.gseq = some g → g.nodes[t.node]? = some n → n.state = .resetting →
    let again := n.twice = false ∧ db n.words 11 27 27 ≠ 1 ∧ (if n.overrun then n.nOverrun < db n.words 11 31 28 else n.nFence < 3)
    ∃ u, exec (.regionResetComplete slot) s = .next (settled u) ∧ (∀ i, i ∈ t.tiles → (tile u i).slot = none ∧ (tile u i).freeAt = s.clk.cyc) ∧
      (again → g.cancelled = false → g.aborted = false → (slotOf u slot).epoch = ((slotOf s slot).epoch + 1) % 256 ∧
        node? u t.gseq t.node = some { n with state := .ready, restarted := true, region := none, nOverrun := n.nOverrun + n.overrun.toNat, nFence := n.nFence + (!n.overrun).toNat }) ∧
      (again → g.cancelled = true ∨ g.aborted = true → ∃ m, node? u t.gseq t.node = some m ∧ m.state = .cancelled ∧ m.slot = none) ∧
      (¬ again → ∃ m, node? u t.gseq t.node = some m ∧ m.state = .faulted ∧ m.slot = none))

/-- The oldest released record of a queue goes to CQ_BASE + 32 × INDEX with the rights of its partition, once the ring has room, EN is 1 and its error records are out: the graph is freed, INDEX moves on, and PHASE inverts on a wrap. While the ring is full or
EN is 0 it waits and CQ_WAIT reads 1. The record holds STATUS, DETAIL, QUEUE and PHASE in word 0, GRAPH_TAG in word 1 and the release time in word 2 (Table 2.12). -/
def Obligations.CompletionRecords : Prop :=
  (∀ (s s2 : State) (q a : Nat) (g : Graph) (rest : List Graph), releasedOf s q = g :: rest → g.mute = false → cqFull s q = false → fg s F.TGE_CQ_CTL_EN q = 1 → recordsPending s g = false →
    fg s F.TGE_CQ_CTL_SIZE_LOG2 q ≤ 16 → g.queue = q → q < 128 →
    let s0 := if g.released = some s.clk.tickMer then advanceTo s (s.clk.tickCyc + 256) else s
    let i := fg s F.TGE_CQ_TAIL_INDEX q
    let ph := fg s F.TGE_CQ_TAIL_PHASE q
    let i' := (i + 1) % 2 ^ fg s F.TGE_CQ_CTL_SIZE_LOG2 q
    engineWrite s0 g.part (BitVec.ofNat 64 ((rd s .tgeCqBase q).toNat + 32 * i)) (bytesOfWords (recordOf g ph)) = ((stOK, a), s2) → s2.regs = s.regs →
    ∃ u, exec (.completionRecordWrite q) s = .next (settled u) ∧ u.mem = s2.mem ∧ fg u F.TGE_CQ_TAIL_INDEX q = i' ∧ fg u F.TGE_CQ_TAIL_PHASE q = (if i' = 0 then 1 - ph else ph) ∧
      u.tge.graphs.map (·.seq) = (s2.tge.graphs.map (·.seq)).filter (· != g.seq)) ∧
  (∀ (s : State) (q : Nat) (g : Graph) (rest : List Graph), releasedOf s q = g :: rest → g.mute = false → cqFull s q = true ∨ fg s F.TGE_CQ_CTL_EN q ≠ 1 →
    ∃ u, exec (.completionRecordWrite q) s = .next (settled u) ∧ RegsOnly s u [regKey .tgeQStatus q 0 0] ∧ Holds s u F.TGE_Q_STATUS_CQ_WAIT 1 q) ∧
  (∀ (g : Graph) (ph : Nat), g.queue < 128 → ph < 2 → (∀ st, g.status = some st → st.2.1 < 256) →
    ∃ w0 w1 w2 w3, recordOf g ph = [w0, w1, w2, w3] ∧ getBits w0 63 56 = g.code ∧ getBits w0 46 40 = g.queue ∧ getBits w0 0 0 = ph ∧ w1 = g.tag ∧
      (g.code ≠ 2 → getBits w0 55 47 = 0) ∧ w2 = BitVec.ofNat 64 (g.released.getD 0) ∧ (g.cancelled = true → (∀ st, g.status = some st → st.1 ≠ 2) → g.code = 5))

/-- A gate write sets VALUE and GATE_ADD adds ADD modulo 2^32 (through a virtual function to its own partition); no other gate changes, and a WAITING task that has become runnable is ELIGIBLE. GRAPH_CANCEL marks the graph in flight that carries the
tag and belongs to the function, and makes each of its tasks that is neither terminal nor admitted CANCELLED, its slot freed; admitted tasks run on. -/
def Obligations.GatesAndCancellation : Prop :=
  (∀ (s : State) (f : Func) (p g : Nat) (v : Word), mayAct s f p = true →
    ∃ u, exec (.gateValueWrite f p g v) s = .next (settled u) ∧ u = { s with regs := u.regs, tge := { s.tge with graphs := u.tge.graphs } } ∧ RegsBut s u [regKey .tgeGate p g 0] ∧
      gate u p g = getBits v 31 0 ∧ AllWoken u s.tge.graphs u.tge.graphs) ∧
  (∀ (s : State) (f : Func) (v : Word) (p : Nat), (isPriv s f = true ∧ p = getBits v 58 56) ∨ (∃ i, f = .vf i ∧ vfPart s i = some p ∧ mayAct s f p = true) →
    let g := getBits v 41 32
    ∃ u, exec (.gateAdd f v) s = .next (settled u) ∧ u = { s with regs := u.regs, tge := { s.tge with graphs := u.tge.graphs } } ∧ RegsBut s u [regKey .tgeGate p g 0] ∧
      gate u p g = (gate s p g + getBits v 31 0) % 2 ^ 32 ∧ AllWoken u s.tge.graphs u.tge.graphs) ∧
  (∀ (s : State) (f : Func) (v : Word) (g : Graph),
    s.tge.graphs.filter (fun g => !g.shadow && g.tag == v && cancelReaches s f g.part && g.finished.isNone) = [g] → graph? s g.seq = some g →
    ∃ u g', exec (.graphCancel f v) s = .next (settled u) ∧ u.mem = s.mem ∧ u.regs = s.regs ∧ u.tiles = s.tiles ∧ graph? u g.seq = some g' ∧ g'.cancelled = true ∧ g'.nodes.length = g.nodes.length ∧
      ∀ (k : Nat) (n : Node), g.nodes[k]? = some n →
        g'.nodes[k]? = some (if n.state.terminal = true ∨ n.state.admitted = true then n else { n with state := .cancelled, slot := none }) ∧
        (n.state.terminal = false → n.state.admitted = false → ∀ x, n.slot = some x → (slotOf u x).holder = none))


/-! ### Transfers, fences, channels, commands, task control and system registers -/

namespace Sys2Proof.Claims

/-- Core `c` after issue cycle `t`: the next instruction in sequence, one cycle later. -/
def nextCore (k : Core) (t : Nat) : Core :=
  { k with pc := (seqNext k.loops (k.pc + 4)).1, loops := (seqNext k.loops (k.pc + 4)).2, readyAt := t + 1 }

/-- A message sent in state `s1` (the core's gather buffer written): the flight with the bytes of the store, the tag in `rd`, the next tag, and the outstanding send. -/
def Sent (s1 u : State) (c : CoreRef) (i : Issue) (rd dst q off : Nat) (req rep : Option Nat) : Prop :=
  ∃ fl, u.flights = s1.flights ++ [fl] ∧ fl.core = coreKey c ∧ fl.slot = i.slot ∧ fl.epoch = i.task.epoch ∧ fl.tag = (coreAt s1 c).sendTag ∧ fl.dst = dst ∧ fl.q = q ∧
    fl.data = LoadBytes (flushGather s1 c.tile c.mover) c.tile ((tile s1 c.tile).base + off) 64 ∧ fl.request = req.isSome ∧ fl.resv = req ∧ fl.marked = false ∧
    fl.sender = (logicalOf s1 c.tile).getD 0 ∧ (∀ r, req = some r → fl.replyQ = r) ∧ (∀ g, rep = some g → fl.gen = g) ∧
    WroteG (coreAt s1 c) (coreAt u c) rd (BitVec.ofNat 64 (coreAt s1 c).sendTag) ∧
    coreAt u c = { nextCore (coreAt s1 c) i.t with g := (coreAt u c).g, rdy := (coreAt u c).rdy, sendTag := ((coreAt s1 c).sendTag + 1) % 65536, sends := (coreAt s1 c).sends ++ [(coreAt s1 c).sendTag] }

/-- A SEAM or ASSAY command submitted in state `s1`: its block and origin at the end of the queue, the tag in `rd`, the next tag, and the outstanding command. -/
def Submitted (s1 u : State) (c : CoreRef) (i : Issue) (rd kind area : Nat) (ws : List Word) : Prop :=
  u.seam.queue = s1.seam.queue ++ [{ part := i.task.part, kind := kind, block := ws, origin := .task (coreKey c) i.slot i.task.epoch (coreAt s1 c).cmdTag (coreAt s1 c).pc area,
                                     assay := none, leaves := [], sent := false }] ∧
  WroteG (coreAt s1 c) (coreAt u c) rd (BitVec.ofNat 64 (coreAt s1 c).cmdTag) ∧
  coreAt u c = { nextCore (coreAt s1 c) i.t with g := (coreAt u c).g, rdy := (coreAt u c).rdy, cmdTag := ((coreAt s1 c).cmdTag + 1) % 65536, cmds := (coreAt s1 c).cmds ++ [(coreAt s1 c).cmdTag] }

/-- Time stands before the Tick's closing boundary (R55). -/
def Early (s : State) : Prop := s.clk.cyc < cycleAt s (closing s)

/-- No landing data has been written in the present cycle to n bytes of a tile's store from an absolute offset. -/
def NoLanding (s : State) (tl a n : Nat) : Prop := ∀ j, j < n → ¬ Landed s tl (a + j)

end Sys2Proof.Claims

/-- With every operand check of R119 passed and fewer than 64 requests outstanding, HGET and HPUT add a request with direction, store offset, global address, length and PC, and the core goes on; memory does not change. A request that completes without error
leaves the core, an HGET's bytes then standing in the store; one that completes with an error before the closing boundary leaves the core and raises its exception with the request's PC and address. A request that still has fabric operations, one whose flits the network has lost, and one that an earlier request
of its core to the same line holds back wait. -/
def Obligations.TransfersIssueAndComplete : Prop :=
  (∀ (s s1 : State) (c : CoreRef) (i : Issue) (x : FmtR) (put : Bool), InCode s1 c i → s1.flips = [] → i.task.shadow = 0 → gather (tile s1 c.tile) c.mover = [] →
    issue? s c [kG x.rd.toNat, kG x.ra.toNat, kG x.rb.toNat] (flushWait c) = some (s1, i) → x.fn = 0 → (coreAt s1 c).haul.length < 64 →
    let k := coreAt s1 c
    let ga := if put then k.gr x.rb.toNat else k.gr x.ra.toNat
    let off := if put then k.gr x.ra.toNat else k.gr x.rb.toNat
    let len := (k.gr x.rd.toNat).toNat
    len % 64 = 0 → 64 ≤ len → len ≤ 1048576 → off.toNat % 64 = 0 → ga.toNat % 64 = 0 → (tile s1 c.tile).base + off.toNat + len ≤ 0x180000 →
    ∃ u r, exec (if put then .hput c x else .hget c x) s = .next (settled u) ∧ u.mem = s1.mem ∧ (∀ j, j ≠ coreKey c → SMap.find u.cores j = SMap.find s1.cores j) ∧
      r.id = k.nextReq ∧ r.put = put ∧ r.store = (tile s1 c.tile).base + off.toNat ∧ r.addr = ga ∧ r.len = len ∧ r.pc = k.pc ∧ r.born = i.t ∧
      coreAt u c = { nextCore k i.t with haul := k.haul ++ [r], nextReq := k.nextReq + 1 }) ∧
  (∀ (s : State) (c : CoreRef) (id slot : Nat) (t : Task) (r : HaulReq),
    let s0 := settle s s.clk.cyc
    taskOf s0 c.tile = some (slot, t) → t.shadow = 0 → (coreAt s0 c).haul.find? (fun r => r.id == id) = some r →
    (r.ops ≠ [] ∨ r.lost = true ∨ waitsForEarlier s0 c t.part r = true → exec (.haulRequestComplete c id .ok) s = .next (settled s0)) ∧
    (r.lost = false → meetsHeld s0 (coreWho slot c) t.part r.addr r.len r.put = false →
    (∀ (a : Nat) (s2 : State), waitsForEarlier s0 c t.part r = false → r.ops = [] → r.err = 0 → (∀ d la, resolve s0 (coreWho slot c) t.part r.addr r.put ≠ .remote d la) → haulLocal s0 slot t c r = ((stOK, a), s2) → (coreAt s2 c).st = .run →
      ∃ u, exec (.haulRequestComplete c id .ok) s = .next (settled u) ∧ u.mem = s2.mem ∧ (coreAt u c).haul = (coreAt s2 c).haul.filter (fun y => y.id != r.id)) ∧
    (∀ (d la : Nat), waitsForEarlier s0 c t.part r = false → r.ops = [] → r.err = 0 → resolve s0 (coreWho slot c) t.part r.addr r.put = .remote d la → (coreAt s0 c).st = .run →
      ∃ u, exec (.haulRequestComplete c id .ok) s = .next (settled u) ∧ u.mem = s0.mem ∧ (coreAt u c).haul = (coreAt s0 c).haul.filter (fun y => y.id != r.id)) ∧
    (∀ err, err ≠ .ok → errStatus err ≠ stOK → Early s0 → s0.flips = [] →
      ∃ u x, exec (.haulRequestComplete c id err) s = .next (settled u) ∧ u.recs = s0.recs ++ [x] ∧ x.cls = 1 ∧ x.cause = statusCause (errStatus err) ∧ x.pc = r.pc.toNat ∧ x.aux = r.addr ∧
        (∀ m, node? u t.gseq t.node = some m → m.state = .faulted)))) ∧
  (∀ (s : State) (t : Task) (n off : Nat) (bs : List Byte), s.flips = [] → Memory.wf s.mem = true → t.shadow = 0 → bs.length % 64 = 0 → 0 < bs.length → storeBase s n ≤ off → off + bs.length ≤ storeBase s n + windowTable (storeBase s n) →
    off + bs.length ≤ 0x180000 →
    (∀ j, j < bs.length → memByte (landData s t n off bs []).mem (keyTile n (off + j)) = nth bs j 0) ∧
    (∀ a, (∀ j, j < bs.length → a ≠ keyTile n (off + j)) → memByte (landData s t n off bs []).mem a = memByte s.mem a))

/-- With unused fields zero, a FENCE whose condition holds lets the core go on with no register changed: kind 0 no store-engine operation of the core is in progress (its gather entries having been written), kind 1 no transfer is outstanding, kind 2 no remote write of the core
(to another module, or with tag 0b01 to another partition of this one) lacks its completion, kind 3 no command is outstanding, kind 4 at most ra transfers are outstanding. Where the condition does not hold, the command changes nothing. -/
def Obligations.FencesWaitForTheirCondition : Prop :=
  ∀ (s s1 : State) (c : CoreRef) (i : Issue), InCode s1 c i → s1.flips = [] →
    (issue? s c [] (flushWait c) = some (s1, i) →
      ((∀ o ∈ (tile s1 c.tile).stops, o.mover ≠ c.mover) → ∃ u, exec (.fenceStore c 0 0 0) s = .next (settled u) ∧ Goes s1 u c i.t 1 ∧ u.mem = (flushGather s1 c.tile c.mover).mem ∧
        gather (tile u c.tile) c.mover = []) ∧
      ((∃ o ∈ (tile s1 c.tile).stops, o.mover = c.mover) → exec (.fenceStore c 0 0 0) s = .next (settled s))) ∧
    (issue? s c [] = some (s1, i) →
      ((coreAt s1 c).haul = [] → ∃ u, exec (.fenceHaul c 0 0 0) s = .next (settled u) ∧ u = { s1 with cores := u.cores } ∧ Goes s1 u c i.t 1) ∧
      ((coreAt s1 c).haul ≠ [] → exec (.fenceHaul c 0 0 0) s = .next (settled s)) ∧
      ((∀ o ∈ s1.xp.ops, o.write = true → o.core? ≠ some (coreKey c)) → (∀ r ∈ (coreAt s1 c).haul, r.remoteWrite s1 = false) → ∃ u, exec (.fenceRemote c 0 0 0) s = .next (settled u) ∧ u = { s1 with cores := u.cores } ∧ Goes s1 u c i.t 1) ∧
      ((∃ o ∈ s1.xp.ops, o.write = true ∧ o.core? = some (coreKey c)) ∨ (∃ r ∈ (coreAt s1 c).haul, r.remoteWrite s1 = true) → exec (.fenceRemote c 0 0 0) s = .next (settled s)) ∧
      ((coreAt s1 c).cmds = [] → ∃ u, exec (.fenceCmd c 0 0 0) s = .next (settled u) ∧ u = { s1 with cores := u.cores } ∧ Goes s1 u c i.t 1) ∧
      ((coreAt s1 c).cmds ≠ [] → exec (.fenceCmd c 0 0 0) s = .next (settled s))) ∧
    (∀ ra : BitVec 5, issue? s c [kG ra.toNat] = some (s1, i) →
      ((coreAt s1 c).haul.length ≤ ((coreAt s1 c).gr ra.toNat).toNat → ∃ u, exec (.fenceHaulCount c 0 ra 0) s = .next (settled u) ∧ u = { s1 with cores := u.cores } ∧ Goes s1 u c i.t 1) ∧
      (((coreAt s1 c).gr ra.toNat).toNat < (coreAt s1 c).haul.length → exec (.fenceHaulCount c 0 ra 0) s = .next (settled s)))

/-- For an ordinary task with fewer than 16 outcomes unread, SEND, REQ and REPLY to a valid destination send 64 bytes of the store under the core's next tag, which rd receives; REQ reserves a reply slot of its own queue, and writes all ones less 1 and sends nothing when the queue has no
room; with 16 outcomes unread rd gets all ones and nothing is sent. RECV writes the oldest message that was there before its cycle to the store and its word to rd (0 with no message); one that was stored marked, or that its check finds uncorrectable, raises MEM_UNCORRECTABLE. STAT returns and removes the oldest outcome, COUNT gives the queue's messages. -/
def Obligations.MessagesLeaveAndArriveAtCores : Prop :=
  ∀ (s s1 : State) (c : CoreRef) (i : Issue) (rd ra rb : BitVec 5) (hi : BitVec 7), InCode s1 c i → s1.flips = [] → Memory.wf s1.mem = true → i.task.shadow = 0 →
    let k := coreAt s1 c
    let w := k.gr ra.toNat
    let off := (k.gr rb.toNat).toNat
    (issue? s c [kG ra.toNat, kG rb.toNat] (blockWait c fun k => (k.gr rb.toNat).toNat) = some (s1, i) → (tile s1 c.tile).base + off + 64 ≤ 0x180000 →
      NoLanding s1 c.tile ((tile s1 c.tile).base + off) 64 →
      (k.sendOut < 16 →
        (sendDest s1 i.task c.tile w = true →
          ∃ u d, msgTile s1 i.task c.tile (w.toNat / 16) = some d ∧ exec (.msgSend c rd ra rb 0) s = .next (settled u) ∧ Sent s1 u c i rd.toNat d (w.toNat % 16) off none none) ∧
        (sendDest s1 i.task c.tile w = true → hi.toNat < 16 → 8 ≤ hi.toNat → (msgQueue (tile s1 c.tile) hi.toNat).entries.length + (msgQueue (tile s1 c.tile) hi.toNat).resv < 32 →
          ∃ u d, msgTile s1 i.task c.tile (w.toNat / 16) = some d ∧ exec (.msgReq c rd ra rb hi) s = .next (settled u) ∧ Sent s1 u c i rd.toNat d (w.toNat % 16) off (some hi.toNat) none ∧
            (msgQueue (tile u c.tile) hi.toNat).resv = (msgQueue (tile s1 c.tile) hi.toNat).resv + 1) ∧
        (sendDest s1 i.task c.tile w = true → hi.toNat < 16 → 8 ≤ hi.toNat → 32 ≤ (msgQueue (tile s1 c.tile) hi.toNat).entries.length + (msgQueue (tile s1 c.tile) hi.toNat).resv →
          ∃ u, exec (.msgReq c rd ra rb hi) s = .next (settled u) ∧ u.flights = s1.flights ∧ WroteG k (coreAt u c) rd.toNat (BitVec.allOnes 64 - 1)) ∧
        (replyDest s1 i.task c.tile w = true →
          ∃ u d, msgTile s1 i.task c.tile (getBits w 13 4) = some d ∧ exec (.msgReply c rd ra rb 0) s = .next (settled u) ∧
            Sent s1 u c i rd.toNat d (getBits w 17 14) off none (some (getBits w 25 18)))) ∧
      (16 ≤ k.sendOut → sendDest s1 i.task c.tile w = true →
        ∃ u, exec (.msgSend c rd ra rb 0) s = .next (settled u) ∧ u.flights = s1.flights ∧ WroteG k (coreAt u c) rd.toNat (BitVec.allOnes 64))) ∧
    (issue? s c [kG ra.toNat, kG rb.toNat] = some (s1, i) → (tile s1 c.tile).base + off + 64 ≤ 0x180000 → w.toNat < 16 →
      ∀ upset : List (Nat × BitVec 80),
        ((∀ m ∈ (msgQueue (tile s1 c.tile) w.toNat).entries, i.t ≤ m.at_) → ∃ u, exec (.msgRecv c rd ra rb ⟨0, upset⟩) s = .next (settled u) ∧ GStep s1 u c rd.toNat 0 i.t 1) ∧
        (∀ m ms, (msgQueue (tile s1 c.tile) w.toNat).entries = m :: ms → m.at_ < i.t → (m.marked = true ∨ entryData m.data upset = none) → Early s1 →
          ∃ u x, exec (.msgRecv c rd ra rb ⟨0, upset⟩) s = .next (settled u) ∧ u.recs = s1.recs ++ [x] ∧ x.cls = 1 ∧ x.cause = 0x21 ∧ x.pc = k.pc.toNat) ∧
        (∀ m ms, (msgQueue (tile s1 c.tile) w.toNat).entries = m :: ms → m.at_ < i.t → m.marked = false → m.data.length = 64 →
          ∃ u, exec (.msgRecv c rd ra rb ⟨0, []⟩) s = .next (settled u) ∧ WroteG k (coreAt u c) rd.toNat (recvWord m) ∧ (msgQueue (tile u c.tile) w.toNat).entries = ms ∧
            (off + 64 ≤ windowTable (tile s1 c.tile).base → ∀ j, j < 64 → memByte u.mem (keyTile c.tile ((tile s1 c.tile).base + off + j)) = nth m.data j 0))) ∧
    (issue? s c [] = some (s1, i) →
      (k.outcomes = [] → ∃ u, exec (.msgStat c rd 0 0 0) s = .next (settled u) ∧ GStep s1 u c rd.toNat 0 i.t 1) ∧
      (∀ code tag os, k.outcomes = (code, tag) :: os →
        ∃ u, exec (.msgStat c rd 0 0 0) s = .next (settled u) ∧ OnlyCore s1 u c ∧ (coreAt u c).outcomes = os ∧ WroteG k (coreAt u c) rd.toNat (BitVec.ofNat 64 (2 ^ 63 + code * 2 ^ 16 + tag)))) ∧
    (issue? s c [kG ra.toNat] = some (s1, i) → w.toNat < 16 →
      ∃ u, exec (.msgCount c rd ra 0 0) s = .next (settled u) ∧ GStep s1 u c rd.toNat (BitVec.ofNat 64 (msgQueue (tile s1 c.tile) w.toNat).entries.length) i.t 1)

/-- With aligned offsets in the store range and fewer than 32 commands outstanding, the issue of a SEAM or ASSAY command reads the 64-byte block at ra: a block that keeps its format is queued with the completion area at rb under the core's next tag, which rd receives; a block that
does not raises SEAM_FORMAT (0x19) at the instruction's PC. With 32 outstanding it waits. -/
def Obligations.SeamAndAssayCommandsAreSubmitted : Prop :=
  ∀ (s s1 : State) (c : CoreRef) (i : Issue) (rd ra rb : BitVec 5), InCode s1 c i → s1.flips = [] → i.task.shadow = 0 →
    issue? s c [kG ra.toNat, kG rb.toNat] (blockWait c fun k => (k.gr ra.toNat).toNat) = some (s1, i) →
    let a := ((coreAt s1 c).gr ra.toNat).toNat
    let b := ((coreAt s1 c).gr rb.toNat).toNat
    let base := (tile s1 c.tile).base
    let s2 := flushGather s1 c.tile c.mover
    let ws := wordsOf 8 (LoadBytes s2 c.tile (base + a) 64)
    a % 64 = 0 → b % 64 = 0 → base + a + 64 ≤ 0x180000 → base + b + 64 ≤ 0x180000 → NoLanding s1 c.tile (base + a) 64 →
    ∀ (e : Instr) (kind : Nat) (ok : Bool),
      (e = .seamFetchIssue c rd ra rb ∧ kind = 0 ∧ ok = fetchFormat s2 c.tile ws) ∨ (e = .seamAppendIssue c rd ra rb ∧ kind = 1 ∧ ok = appendFormat ws) ∨
      (e = .seamControlIssue c rd ra rb ∧ kind = 2 ∧ ok = controlFormat s2 c.tile ws) ∨ (e = .assayQueryIssue c rd ra rb ∧ kind = 3 ∧ ok = queryFormat ws) →
      ((coreAt s1 c).cmds.length < 32 → ok = true → ∃ u, exec e s = .next (settled u) ∧ Submitted s1 u c i rd.toNat kind (base + b) ws) ∧
      ((coreAt s1 c).cmds.length < 32 → ok = false → Early s1 →
        ∃ u x, exec e s = .next (settled u) ∧ u.recs = s1.recs ++ [x] ∧ x.cls = 1 ∧ x.cause = 0x19 ∧ x.pc = (coreAt s1 c).pc.toNat ∧ x.tile = some (c.tile, (logicalOf s1 c.tile).getD 0, c.mover) ∧
          ∀ m, node? u i.task.gseq i.task.node = some m → m.state = .faulted) ∧
      (32 ≤ (coreAt s1 c).cmds.length → exec e s = .next (settled s))

/-- NOP only goes on. TEND ends the core. GATE with nothing outstanding adds to the gate modulo 2^32. TRAP raises TRAP (0x1A) with bits 15..0 of ra. CSR read gives the register of Table 4.3, CSR write to AFLAGS clears the bits written as 1 and to SR_SEED seeds the 64 generators, both giving the old value;
CSR set and clear of a register that the core holds raise CSR_READONLY (0x09), every register being read-only for them. A word with a reserved major opcode, or with a function code that its opcode's table does not list, raises ILLEGAL_INSTR (0x02). -/
def Obligations.TaskControlAndSystemRegisters : Prop :=
  ∀ (s s1 : State) (c : CoreRef) (i : Issue) (rd ra rb : BitVec 5) (csr : BitVec 12), InCode s1 c i → s1.flips = [] → i.task.shadow = 0 →
    let k := coreAt s1 c
    let raises := fun (e : Instr) (code : Nat) (aux : Word) => exec e s = .next (settled (raise s1 i.slot c code k.pc aux))
    (issue? s c [] = some (s1, i) →
      (∃ u, exec (.taskNop c 0 0 0) s = .next (settled u) ∧ u = { s1 with cores := u.cores } ∧ Goes s1 u c i.t 1) ∧
      (issue? s c [] (tendWait c) = some (s1, i) → ∃ u, exec (.tend c 0 0 0) s = .next (settled u) ∧ coreAt u c = { nextCore k i.t with st := .ended } ∧ (∀ j, j ≠ coreKey c → SMap.find u.cores j = SMap.find s1.cores j) ∧
        u.mem = (if c.mover then s1 else flushGather s1 c.tile false).mem) ∧
      (csrHeld c.mover csr.toNat = true → ∃ v u, exec (.csrRead c rd 0 csr) s = .next (settled u) ∧ GStep s1 u c rd.toNat v i.t 1 ∧
        (csr = 0x000 → v = BitVec.ofNat 64 c.mover.toNat) ∧ (csr = 0x001 → v = BitVec.ofNat 64 (c.tile * 2 ^ 16 + (logicalOf s1 c.tile).getD 0)) ∧
        (csr = 0x003 → v = BitVec.ofNat 64 (i.task.part * 2 ^ 48 + i.task.node * 2 ^ 32 + i.task.epoch * 2 ^ 16 + i.slot)) ∧
        (∀ n, n < 4 → csr.toNat = 8 + n → v = nth i.task.args n 0) ∧ (csr = 0x010 → v = BitVec.ofNat 64 (i.t - i.task.start)) ∧ (csr = 0x011 → v = BitVec.ofNat 64 (s1.clk.cyc - s1.clk.tickCyc)) ∧
        (csr = 0x012 → v = BitVec.ofNat 64 (mer s1)) ∧ (csr = 0x020 → v = BitVec.ofNat 64 (arith s1 c.tile).aflags) ∧ (csr = 0x021 → v = 0) ∧
        (csr = 0x030 → v = BitVec.ofNat 64 (tile s1 c.tile).base) ∧ (csr = 0x031 → v = 0x180000) ∧ (csr = 0x040 → v = BitVec.ofNat 64 k.haul.length) ∧
        (csr = 0x041 → v = BitVec.ofNat 64 k.cmds.length) ∧ (csr = 0x042 → v = BitVec.ofNat 64 (k.sends.length + k.outcomes.length))) ∧
      (∀ w : BitVec 32, noInstr w = true → raises (.illegalInstr c w) 0x02 0)) ∧
    (issue? s c [kG ra.toNat] = some (s1, i) →
      raises (.trap c 0 ra 0) 0x1A (BitVec.ofNat 64 (getBits (k.gr ra.toNat) 15 0)) ∧
      (csrHeld c.mover csr.toNat = true → raises (.csrSet c 0 ra csr) 0x09 0 ∧ raises (.csrClear c 0 ra csr) 0x09 0) ∧
      (c.mover = false →
        ∃ u, exec (.csrWrite c rd ra 0x020) s = .next (settled u) ∧ WroteG k (coreAt u c) rd.toNat (BitVec.ofNat 64 (arith s1 c.tile).aflags) ∧ u.mem = s1.mem ∧ u.regs = s1.regs ∧
          (arith u c.tile) = { arith s1 c.tile with aflags := (arith u c.tile).aflags } ∧
          ∀ b, (arith u c.tile).aflags.testBit b = ((arith s1 c.tile).aflags.testBit b && !(k.gr ra.toNat).toNat.testBit b)) ∧
      (c.mover = false →
        ∃ u, exec (.csrWrite c rd ra 0x021) s = .next (settled u) ∧ WroteG k (coreAt u c) rd.toNat 0 ∧ u.mem = s1.mem ∧ u.regs = s1.regs ∧
          (arith u c.tile) = { arith s1 c.tile with sr := (arith u c.tile).sr } ∧ (arith u c.tile).sr.length = 64 ∧
          ∀ n, n < 64 → let x := (k.gr ra.toNat).toNat % 2 ^ 32 ^^^ (0x9E3779B9 * (n + 1)) % 2 ^ 32
            (nth (arith u c.tile).sr n 0).toNat = if x = 0 then 1 else x)) ∧
    (issue? s c [kG ra.toNat, kG rb.toNat] (flushWait c) = some (s1, i) → (k.gr ra.toNat).toNat < 1024 → k.haul = [] → k.gates = [] → (tile s1 c.tile).stops = [] → gather (tile s1 c.tile) c.mover = [] →
      ∃ u, exec (.taskGate c 0 ra rb) s = .next (settled u) ∧
        gate u i.task.part (k.gr ra.toNat).toNat = (gate s1 i.task.part (k.gr ra.toNat).toNat + (k.gr rb.toNat).toNat) % 2 ^ 32 ∧ u.mem = s1.mem ∧
        coreAt u c = nextCore k i.t)


/-! ### Registers and the host interface -/

namespace Sys2Proof.Claims

/-- Registers whose writes have a command of their own. -/
def commandRegs : List RegName :=
  [.glbSectionApply, .tgeTickSwitch, .tgeTickCtl, .tgeSqCtl, .tgeCqCtl, .tgeGate, .tgeGateAdd, .tgeGraphCancel, .tgeAdmitCtl, .plTileState, .tgePlaceCtl,
   .seamHqTail, .seamHqCtl, .seamCtl, .seamLeaseCfg, .seamContrailCtl, .seamRemoteCfg, .assayCtl, .portLinkCtl, .portDevid, .portCollTable, .hostDmaCtl,
   .guardShadowCtl, .guardProspectNominate, .guardProspectCtl, .guardLogHead, .guardLogCtl, .guardResetReq, .guardResetRelease, .guardOverman, .guardRejoinCtl,
   .secFwCtl, .secStageCtl, .secAttestCtl, .secPartCtl, .secSessCtl, .secSealCtl, .pstoreXferCtl, .clkTimeSet, .clkDormantCtl]

/-- Registers whose writes a rule of their chapter limits. -/
def limitedRegs : List RegName :=
  [.seamPoolT1, .seamPoolT2, .seamPoolMap, .seamPoolSketch, .seamHostBase, .seamHostFrames, .tgeEnergyBudget, .tgeSqBase, .tgeCqBase, .seamTierCtl2, .hostDmaBase, .hostMsixData,
   .guardLogBase, .guardRejoinPlan, .guardRejoinAdmit, .secTenantKey, .clkThermCtl, .portTelemCtl, .portSampleCtl, .tsCtl, .seamLeaseBase, .portCollStatus, .portPartHerald]

/-- The command of the table that a 64-bit write of v to a register with rows of its own is. -/
def RowCommand (f : Func) (r : RegName) (i j : Nat) (v : Word) (c : Instr) : Prop :=
  match r with
  | .glbSectionApply => c = (.sectionApplyGo f v)
  | .tgeTickSwitch => c = (if v = 0 then .tickSwitchCancel f else .tickSwitchArm f v)
  | .tgeTickCtl => c = (.tickCtlWrite f v)
  | .tgeSqCtl => c = (.sqCtlWrite f i v)
  | .tgeCqCtl => c = (.cqCtlWrite f i v)
  | .tgeGate => c = (.gateValueWrite f i j v)
  | .tgeGateAdd => c = (.gateAdd f v)
  | .tgeGraphCancel => c = (.graphCancel f v)
  | .tgeAdmitCtl => c = (.admitCtlWrite f v)
  | .plTileState => c = (.plFenceWrite f i v)
  | .tgePlaceCtl => c = (.placeCtlWrite f v)
  | .seamHqTail => c = (.seamHqTailWrite f i v)
  | .seamHqCtl => c = (.seamHqCtlWrite f i v)
  | .seamCtl => c = (.seamCtlWrite f i v)
  | .seamLeaseCfg => c = (.seamLeaseCfgWrite f i j v)
  | .seamContrailCtl => c = (.seamContrailCtlWrite f i v)
  | .seamRemoteCfg => c = (.seamRemoteCfgWrite f i j v)
  | .assayCtl => c = (.assayCtlWrite f i v)
  | .portLinkCtl => c = (.portEnWrite f i v)
  | .portDevid => c = (.portDevidWrite f i v)
  | .portCollTable => c = (.collTableWrite f i v)
  | .hostDmaCtl => c = (.hostDmaCtlWrite f i v)
  | .guardShadowCtl => c = (.shadowGo f i v)
  | .guardProspectNominate => c = (.prospectNominate f v)
  | .guardProspectCtl => c = (.prospectCtlWrite f v)
  | .guardLogHead => c = (.logHeadWrite f (if i = 0 then 0 else 1 + j) v)
  | .guardLogCtl => c = (.logCtlWrite f (if i = 0 then 0 else 1 + j) v)
  | .guardResetReq => c = (.deviceResetReq f v)
  | .guardResetRelease => c = (.resetRelease f v)
  | .guardOverman => c = (.overmanSwitch f v)
  | .guardRejoinCtl => c = (.rejoinGo f i v)
  | .secFwCtl => c = (.fwCommit f v)
  | .secStageCtl => c = (.stageGo f v)
  | .secAttestCtl => c = (.attestGo f v)
  | .secPartCtl => c = (.confWrite f i v)
  | .secSessCtl => c = (.sessOpen f i v)
  | .secSealCtl => c = (.sealImportGo f i v)
  | .pstoreXferCtl => c = (.pstoreXferGo f v)
  | .clkTimeSet => c = (.clkTimeSetWrite f v)
  | .clkDormantCtl => c = (if getBits v 0 0 = 1 then .dormantEnter f v else .dormantExit f v)
  | _ => False

/-- The configuration space of a function after a configuration write that is within Table 13.1. -/
def CfgTakes (c : FuncCfg) (w : CfgWrite) (c' : FuncCfg) : Prop :=
  match w with
  | .maxPayload k => k ≤ 2 ∧ c' = { c with mps := k }
  | .maxRead k => k ≤ 5 ∧ c' = { c with mrrs := k }
  | .timeout v => v.toNat ∈ [0, 1, 2, 5, 6, 9, 10] ∧ c' = { c with cto := v }
  | .msixEnable on => c' = { c with msix := on }
  | .msixMask on => c' = { c with mask := on }
  | .master on => c' = { c with master := on }
  | .aerClear bits => c' = { c with aer := c.aer &&& ~~~bits }
  | _ => False

/-- A request of a core whose path to host memory broke off. -/
def lostHost (r : HaulReq) : HaulReq := if getBits r.addr 63 62 = 2 ∧ r.err = 0 then { r with err := stHostAbort, errAt := r.addr.toNat } else r

/-- A message of a function's vector may leave. -/
def mayMsix (s : State) (fn : Nat) : Prop := (cfg s fn).msix = true ∧ (cfg s fn).mask = false ∧ mayMaster s fn = true ∧ hostUp s = true

/-- The bytes of memory from a key. -/
def bytesAt (s : State) (a n : Nat) : List Byte := (List.range n).map fun j => memByte s.mem (a + j)

end Sys2Proof.Claims

/-- A host function's aligned 64-bit read completes with the register's bytes, write-only fields reading 0, and clears its RC fields. A 64-bit or 32-bit write changes, of the bits it covers, RW bits to the written value, RWL bits while LOCK is 0, W1C bits to 0 where a 1 is written and W1S bits to 1 where a 1 is written, and no
other bit. A write narrower or misaligned, to an offset that holds no register or to one that the function does not reach changes nothing; a read of an offset with no register that the function reaches gives zeros. No function reaches a register of a ninth or later stack, of the controller of an unpopulated Tier 2 position, of a fused-off port, or of the channels of a tile that serves no
partition, and the PF reads no channel of a tile that serves another partition than its own. A 64-bit write to a register with rows of its own in the table is that row's command. -/
def Obligations.RegistersReadAndWriteByAccessCode : Prop :=
  (∀ (s : State) (f : Func) (off : Nat) (r : RegName) (i j : Nat), f ≠ .overman → answers s f = true → off % 8 = 0 → readable s f off = some (r, i, j) →
    let fn := regFn f r
    ∃ u w, exec (.registerRead f off .b8) s = .next (settled u) ∧ u = { s with regs := u.regs, outs := s.outs ++ [.completion (fnOf f) 0 (bytesOf 8 (w : Word).toNat)] } ∧
      RegsBut s u [regKey r i j fn] ∧
      ∀ b, b < 64 → w.getLsbD b = ((view s r i j fn).getLsbD b && !(r.maskOf .wo).getLsbD b) ∧
        (rd u r i j fn).getLsbD b = ((rd s r i j fn).getLsbD b && !(r.maskOf .rc).getLsbD b)) ∧
  (∀ (s : State) (f : Func) (off : Nat), f ≠ .overman → answers s f = true → off % 8 = 0 → readable s f off = none →
    exec (.registerRead f off .b8) s = .next (settled { s with outs := s.outs ++ [.completion (fnOf f) 0 (List.replicate 8 0)] })) ∧
  (∀ (s : State) (f : Func) (off : Nat), (regAt off = none ∨ (0x410800 ≤ off ∧ off < 0x411000) ∨
      (∃ k b, k < 16 ∧ b < 0x100 ∧ off = 0x420000 + 0x100 * k + b ∧ t2Populated s k = false) ∨ (∃ n b, n < 32 ∧ b < 0x100 ∧ off = 0x510000 + 0x100 * n + b ∧ portEnabled s n = false) ∨
      (∃ n b, n < 1152 ∧ b < 0x100 ∧ off = 0xA40000 + 0x100 * n + b ∧ tilePart s n = none)) →
    readable s f off = none ∧ writable s f off = none) ∧
  (∀ (s : State) (n b : Nat), n < 1152 → b < 0x100 → tilePart s n ≠ some (fg s F.HOST_PF_CTL_BAR2_PART) → readable s .pf (0xA40000 + 0x100 * n + b) = none) ∧
  (∀ (s : State) (f : Func) (off : Nat) (v : Word) (r : RegName) (i j : Nat) (c : Instr), answers s f = true → off % 8 = 0 → writable s f off = some (r, i, j) → RowCommand f r i j v c →
    (r = .seamContrailCtl → v.getLsbD 63 = true) → (r = .assayCtl → v.getLsbD 0 = true) → exec (.registerWrite f off .b8 v) s = exec c s) ∧
  (∀ (s : State) (f : Func) (off : Nat) (z : Size) (v m : Word) (r : RegName) (i j : Nat), answers s f = true → accessMask off z = some m → writable s f (off / 8 * 8) = some (r, i, j) →
    r ∉ commandRegs → r ∉ limitedRegs →
    let fn := regFn f r
    let w := if off % 8 = 4 then v <<< 32 else v
    ∃ u, exec (.registerWrite f off z v) s = .next (settled u) ∧ RegsOnly s u [regKey r i j fn] ∧
      ∀ b, b < 64 →
        let on := m.getLsbD b
        let free := (r.maskOf .rw).getLsbD b || ((r.maskOf .rwl).getLsbD b && !locked s r i)
        (rd u r i j fn).getLsbD b =
          ((if on && free then w.getLsbD b else (rd s r i j fn).getLsbD b) && !(on && (r.maskOf .w1c).getLsbD b && w.getLsbD b) || (on && (r.maskOf .w1s).getLsbD b && w.getLsbD b))) ∧
  (∀ (s : State) (f : Func) (off : Nat) (z : Size) (v : Word), z = .b1 ∨ z = .b2 ∨ (z = .b8 ∧ off % 8 ≠ 0) ∨ (z = .b4 ∧ off % 4 ≠ 0) ∨ writable s f (off / 8 * 8) = none →
    exec (.registerWrite f off z v) s = .next (settled s))

/-- Loss of the link and PERST clear DL_UP and count, and end every core's request to host memory with HOST_ABORT. A link that comes up at a permitted speed and width shows them, with configuration space at reset; a lower speed or width is shown and counted. Configuration writes set NumVFs (0 to 8), the BAR2 size (2^30 to 2^42), D3hot,
payload and request sizes, the completion timeout, MSI-X Enable and Function Mask and bus mastering, and clear AER status bits.
A function-level reset stops the function's DMA rings with their descriptors abandoned, and the submission, completion and host command rings of its partitions, returns its MSI-X structures to reset, and lets the function send no request. -/
def Obligations.HostLinkAndFunctionsChange : Prop :=
  (∀ (s : State) (e : Instr), e = .hostLinkDown ∨ e = .perstAssert → hostUp s = true → (∀ x ∈ s.dmas, ∀ d ∈ x.2, d.sent = true) →
    ∃ u, exec e s = .next (settled u) ∧ u = { s with regs := u.regs, cores := u.cores, free := u.free } ∧ RegsBut s u [regKey .hostLinkStatus 0 0 0, regKey .hostLinkErr 0 0 0] ∧
      (∀ k, SMap.find u.cores k = (SMap.find s.cores k).map fun c => { c with haul := c.haul.map lostHost }) ∧ Holds s u F.HOST_LINK_STATUS_DL_UP 0 ∧
      Holds s u F.HOST_LINK_ERR_DOWN (min (fg s F.HOST_LINK_ERR_DOWN + 1) 65535)) ∧
  (∀ (s : State) (gen : BitVec 4) (width : BitVec 6), linkMode gen.toNat width.toNat = true →
    (hostUp s = false → fg s F.CLK_REF_STATUS_HOST_LOST ≠ 1 →
      ∃ u, exec (.hostLinkUp gen width) s = .next (settled u) ∧ u = { s with regs := u.regs, numVfs := 0, bar2 := [], d3hot := [], cfgs := [] } ∧ RegsBut s u [regKey .hostLinkStatus 0 0 0] ∧
        fg u F.HOST_LINK_STATUS_DL_UP = 1 ∧ fg u F.HOST_LINK_STATUS_GEN = gen.toNat ∧ fg u F.HOST_LINK_STATUS_WIDTH = width.toNat ∧ fg u F.HOST_LINK_STATUS_FLIT = (if gen = 6 then 1 else 0)) ∧
    (hostUp s = true →
      gen.toNat < fg s F.HOST_LINK_STATUS_GEN ∨ width.toNat < fg s F.HOST_LINK_STATUS_WIDTH →
      ∃ u, exec (.hostLinkRetrain gen width) s = .next (settled u) ∧ RegsOnly s u [regKey .hostLinkStatus 0 0 0, regKey .hostLinkErr 0 0 0] ∧ fg u F.HOST_LINK_STATUS_DL_UP = 1 ∧
        fg u F.HOST_LINK_STATUS_GEN = gen.toNat ∧ fg u F.HOST_LINK_STATUS_WIDTH = width.toNat ∧ Holds s u F.HOST_LINK_ERR_RETRAINS (min (fg s F.HOST_LINK_ERR_RETRAINS + 1) 65535))) ∧
  (∀ (s : State) (f : Func), funcExists s f = true →
    (hostUp s = true →
      (∀ n, fnOf f = 0 → n ≤ 8 → exec (.configurationWrite f (.numVfs n)) s = .next (settled { s with numVfs := n })) ∧
      (∀ k, 30 ≤ k → k ≤ 42 → ∃ u, exec (.configurationWrite f (.bar2Size k)) s = .next (settled u) ∧ u = { s with bar2 := u.bar2 } ∧ bar2Bytes u (fnOf f) = 2 ^ k ∧
        ∀ g, g ≠ fnOf f → bar2Bytes u g = bar2Bytes s g) ∧
      (∀ (w : CfgWrite) (c' : FuncCfg), CfgTakes (cfg s (fnOf f)) w c' → (∀ i, rd s .hostMsixPba i 0 (fnOf f) = 0) →
        ∃ u, exec (.configurationWrite f w) s = .next (settled u) ∧ u = { s with cfgs := u.cfgs } ∧ cfg u (fnOf f) = c' ∧ ∀ g, g ≠ fnOf f → cfg u g = cfg s g) ∧
      (∀ on, (on = true ∨ ∀ i, rd s .hostMsixPba i 0 (fnOf f) = 0) → ∃ u, exec (.configurationWrite f (.power on)) s = .next (settled u) ∧ u = { s with d3hot := u.d3hot } ∧ (fnOf f ∈ u.d3hot ↔ on = true) ∧ ∀ g, g ≠ fnOf f → (g ∈ u.d3hot ↔ g ∈ s.d3hot))) ∧
    (SMap.wf s.dmas = true →
      ∃ u, exec (.functionLevelReset f) s = .next (settled u) ∧ u.mem = s.mem ∧ u.tiles = s.tiles ∧ u.cores = s.cores ∧
        (∀ r ∈ ringsOf s (fnOf f), fg u F.HOST_DMA_CTL_EN r = 0 ∧ dmaProg u r = []) ∧
        (∀ p ∈ ownedBy s (fnOf f), fg u F.SEAM_HQ_CTL_EN p = 0 ∧ ∀ q, q / 16 = p → fg u F.TGE_SQ_CTL_EN q = 0 ∧ fg u F.TGE_CQ_CTL_EN q = 0) ∧
        (∀ v, v < tableSize (fnOf f) → rd u .hostMsixData v 0 (fnOf f) = RegName.reset .hostMsixData ∧ rd u .hostMsixAddr v 0 (fnOf f) = RegName.reset .hostMsixAddr) ∧
        mayMaster u (fnOf f) = false))

/-- With no wrong stored bit, a BAR2 read within one line of memory that the function may reach completes with its bytes and a write stores them; a refused line completes with Unsupported Request or Completer Abort, counts and leaves a record (a refused write sets the AER bit; its place is the model's choice, log entry 83). A doorbell sets TAIL or DOORBELL_RANGE. A started descriptor is
in progress behind the ring's others and HEAD moves on; one that breaks Table 13.7 has status DESC_INVALID. The oldest descriptor whose data has moved is written back with DONE, status and bytes, counted, its gate posted when it ended OK, and otherwise the ring stops with ERR and FAIL_INDEX. EN stays 0 for a bad size. Unmasking sends a pending message, and so does the
moderation timeout of an unmasked vector. -/
def Obligations.Bar2DmaAndInterrupts : Prop :=
  (∀ (s : State) (f : Func) (off n d o : Nat), s.flips = [] → 0 < n → off % 64 + n ≤ 64 → bar2Served s f off n false = true → bar2Judge s f off false = .ok (.mem d o) →
    exec (.bar2Read f off n) s = .next (settled { s with outs := s.outs ++ [.completion (fnOf f) 0 (bytesAt s (keyMem d o) n)] })) ∧
  (∀ (s : State) (f : Func) (off n st : Nat), 0 < n → off % 64 + n ≤ 64 → bar2Served s f off n false = true → bar2Judge s f off false = .error st →
    ∃ u x, exec (.bar2Read f off n) s = .next (settled u) ∧ u.outs = s.outs ++ [.completion (fnOf f) st []] ∧ u.recs = s.recs ++ [x] ∧ x.cls = 0x10 ∧ x.cause = (if st = 4 then 2 else 0) ∧
      x.aux = BitVec.ofNat 64 off ∧ fg u F.HOST_BAR2_STATUS_REFUSED_RD 0 0 (fnOf f) = min (fg s F.HOST_BAR2_STATUS_REFUSED_RD 0 0 (fnOf f) + 1) (2 ^ 32 - 1)) ∧
  (∀ (s : State) (f : Func) (off d o : Nat) (bs : List Byte), s.flips = [] → Memory.wf s.mem = true → bs ≠ [] → off % 64 + bs.length ≤ 64 → bar2Served s f off bs.length true = true →
    (bar2Judge s f off true = .ok (.mem d o) →
      ∃ u, exec (.bar2Write f off bs) s = .next (settled u) ∧ u = { s with mem := u.mem, flips := u.flips } ∧ bytesAt u (keyMem d o) bs.length = bs ∧
        ∀ a, a < keyMem d o ∨ keyMem d o + bs.length ≤ a → memByte u.mem a = memByte s.mem a) ∧
    (∀ st, bar2Judge s f off true = .error st →
      ∃ u x, exec (.bar2Write f off bs) s = .next (settled u) ∧ u.mem = s.mem ∧ u.outs = s.outs ∧ u.recs = s.recs ++ [x] ∧ x.cls = 0x10 ∧ x.cause = (if st = 4 then 2 else 1) ∧
        (cfg u (fnOf f)).aer = (cfg s (fnOf f)).aer ||| 1#32 <<< (if st = 4 then 15 else 20) ∧
        fg u F.HOST_BAR2_STATUS_REFUSED_WR 0 0 (fnOf f) = min (fg s F.HOST_BAR2_STATUS_REFUSED_WR 0 0 (fnOf f) + 1) (2 ^ 32 - 1))) ∧
  (∀ (s : State) (f : Func) (r : Nat) (v : Word), mayRing s f r = true →
    (partFenced s (ringPart s r) = false → inDeviceReset s = false →
      (getBits v 15 0 < 2 ^ fg s F.HOST_DMA_CTL_SIZE_LOG2 r → ∃ u, exec (.dmaDoorbell f r v) s = .next (settled u) ∧ RegsOnly s u [regKey .hostDmaHead r 0 0] ∧ Holds s u F.HOST_DMA_HEAD_TAIL (getBits v 15 0) r) ∧
      (2 ^ fg s F.HOST_DMA_CTL_SIZE_LOG2 r ≤ getBits v 15 0 → ∃ u, exec (.dmaDoorbell f r v) s = .next (settled u) ∧ RegsOnly s u [regKey .hostDmaStatus r 0 0] ∧ Holds s u F.HOST_DMA_STATUS_DOORBELL_RANGE 1 r)) ∧
    (∃ u, exec (.hostDmaCtlWrite f r v) s = .next (settled u) ∧ RegsOnly s u [regKey .hostDmaCtl r 0 0] ∧ fg u F.HOST_DMA_CTL_VECTOR r = getBits v 26 16 ∧ fg u F.HOST_DMA_CTL_IRQ_EN r = getBits v 30 30 ∧
      fg u F.HOST_DMA_CTL_PART r = (if r < 64 then 0 else getBits v 29 27) ∧
      fg u F.HOST_DMA_CTL_SIZE_LOG2 r = (if fg s F.HOST_DMA_CTL_EN r = 1 then fg s F.HOST_DMA_CTL_SIZE_LOG2 r else getBits v 4 0) ∧
      (fg s F.HOST_DMA_CTL_EN r ≠ 1 → getBits v 4 0 < 4 ∨ 16 < getBits v 4 0 → fg u F.HOST_DMA_CTL_EN r = 0) ∧ (fg s F.HOST_DMA_CTL_EN r = 1 → fg u F.HOST_DMA_CTL_EN r = getBits v 31 31))) ∧
  (∀ (s s1 : State) (r : Nat) (bs : List Byte), ringRuns s r = true → ringBaseOk s r = true → r < 64 →
    let ix := fg s F.HOST_DMA_HEAD_HEAD r
    let ws := wordsOf 8 bs
    engineRead s (ringPart s r) (BitVec.ofNat 64 (descAddr s r ix)) 64 = (.data bs, s1) → db ws 0 58 58 = 0 → fg s1 F.HOST_DMA_CTL_SIZE_LOG2 r ≤ 16 →
    getBits (dw ws 1) 63 62 ≠ 1 → getBits (dw ws 2) 63 62 ≠ 1 →
    ∃ u, exec (.dmaDescStart r) s = .next (settled u) ∧ u.mem = s1.mem ∧ fg u F.HOST_DMA_HEAD_HEAD r = (ix + 1) % 2 ^ fg s1 F.HOST_DMA_CTL_SIZE_LOG2 r ∧ fg u F.HOST_DMA_STATUS_BUSY r = 1 ∧
      dmaProg u r = dmaProg s1 r ++ [{ ix := ix, words := ws, sent := dmaBad ws, st := if dmaBad ws then 0x30 else 0, errAt := 0 }]) ∧
  (∀ (s : State) (r : Nat) (d : DmaDesc) (rest : List DmaDesc), r < 64 → SMap.wf s.dmas = true → dmaProg s r = d :: rest → d.sent = true → (∀ o ∈ s.xp.ops, o.why ≠ .dma r d.ix) → hostUp s = true → mayMaster s (ownerFn s (r / 8)) = true →
    getBits (rd s .hostDmaBase r) 63 62 = 2 → (rd s .hostDmaBase r).toNat % 64 = 0 → (rd s .hostDmaBase r).toNat + 64 * d.ix + 64 ≤ 3 * 2 ^ 62 → Memory.wf s.mem = true →
    let k := keyHost ((rd s .hostDmaBase r).toNat + 64 * d.ix + 56 - 2 ^ 63)
    ∃ u w, exec (.dmaDescComplete r .given) s = .next (settled u) ∧ dmaProg u r = rest ∧ bytesAt u k 8 = bytesOf 8 (w : Word).toNat ∧ (∀ a, a < k ∨ k + 8 ≤ a → memByte u.mem a = memByte s.mem a) ∧
      (d.st < 2 ^ 15 → w.toNat = 2 ^ 63 + d.st * 2 ^ 48 + (if d.st = 0 then d.len else d.errAt % 2 ^ 32)) ∧
      fg u F.HOST_DMA_STATUS_DONE_COUNT r = min (fg s F.HOST_DMA_STATUS_DONE_COUNT r + 1) (2 ^ 32 - 1) ∧
      (d.st = 0 → db d.words 0 57 57 = 1 → gate u (r / 8) (db d.words 0 41 32) = (gate s (r / 8) (db d.words 0 41 32) + db d.words 3 31 0) % 2 ^ 32) ∧
      (d.st ≠ 0 → fg u F.HOST_DMA_CTL_EN r = 0 ∧ fg u F.HOST_DMA_STATUS_ERR r = 1 ∧ fg u F.HOST_DMA_STATUS_FAIL_INDEX r = d.ix % 65536)) ∧
  (∀ (s : State) (f : Func) (v : Nat), funcExists s f = true → v < tableSize (fnOf f) →
    let fn := fnOf f
    let msg := Out.msix fn v (rd s .hostMsixAddr v 0 fn) (BitVec.ofNat 64 (fg s F.HOST_MSIX_DATA_DATA v 0 fn))
    (mayMsix s fn →
      ∃ u, exec (.msixUnmask f v) s = .next (settled u) ∧ fg u F.HOST_MSIX_DATA_MASK v 0 fn = 0 ∧
        u.outs = s.outs ++ (if bitOf (rd s .hostMsixPba (v / 64) 0 fn) (v % 64) then [msg] else []) ∧ bitOf (rd u .hostMsixPba (v / 64) 0 fn) (v % 64) = false) ∧
    (∀ n t0, SMap.find s.vecs (vecKey fn v) = some (n, t0) → fg s F.HOST_MSIX_DATA_MASK v 0 fn = 0 → mayMsix s fn →
      ∃ u, exec (.msixModTimeout f v) s = .next (settled u) ∧ u.outs = s.outs ++ [msg] ∧ u.clk.cyc = max s.clk.cyc (cycleAt s (t0 + fg s F.HOST_MSIX_MOD_TIME_US v 0 fn * 1000)) ∧
        fg u F.HOST_IRQ_STATUS_SENT 0 0 fn = min (fg s F.HOST_IRQ_STATUS_SENT 0 0 fn + 1) (2 ^ 32 - 1)))


/-! ### Sections, placement, memory and the haulage network -/

/-- A GO by the PF or the Overman with no apply in progress: where every field names a partition 0 to 7 or 15, every existing partition that gains or loses a section is held in reset and none of them has its Seam Engine enabled, the map is the one that takes effect and RESULT is 1; otherwise RESULT is 4, 3 or 5 and nothing is applied. An apply waits
while a re-placement is in progress. At completion GLB_SECTION_ACTIVE is the map, RESULT is 2, and the stores of every section that changes to a partition hold zeros. -/
def Obligations.SectionApplyRuns : Prop :=
  (∀ (s : State) (f : Func) (v : Word) (e : Instr), (e = .sectionApplyGo f v ∧ isPriv s f = true ∧ getBits v 0 0 = 1 ∧ s.apply = none) ∨ (e = .sectionApplyStart ∧ s.apply = some none) →
    (∀ d ∈ s.dies, d.repl = none) →
    let m := rd s .glbSectionMap
    let named := ∀ k, k < 8 → mapField m k < 8 ∨ mapField m k = 15
    let moved := fun (p : Nat) => p < 8 ∧ ∃ k, k < 8 ∧ mapField m k ≠ sectionPart s k ∧ (mapField m k = p ∨ sectionPart s k = p)
    let held := ∀ p, moved p → partHeld s p = true ∨ partExists s p = false
    let off := ∀ p, moved p → fg s F.SEAM_CTL_EN p ≠ 1
    ∃ u, exec e s = .next (settled u) ∧ u = { s with regs := u.regs, apply := u.apply } ∧ RegsBut s u [regKey .glbSectionStatus 0 0 0] ∧
      (named → held → off → u.apply = some (some m) ∧ Holds s u F.GLB_SECTION_STATUS_RESULT 1) ∧
      (¬ named → u.apply = none ∧ Holds s u F.GLB_SECTION_STATUS_RESULT 4) ∧
      (named → ¬ held → u.apply = none ∧ Holds s u F.GLB_SECTION_STATUS_RESULT 3) ∧
      (named → held → ¬ off → u.apply = none ∧ Holds s u F.GLB_SECTION_STATUS_RESULT 5)) ∧
  (∀ (s : State) (f : Func) (v : Word), isPriv s f = true → getBits v 0 0 = 1 → s.apply = none → (∃ d ∈ s.dies, d.repl ≠ none) →
    ∃ u, exec (.sectionApplyGo f v) s = .next (settled u) ∧ u = { s with regs := u.regs, apply := some none } ∧ RegsBut s u [regKey .glbSectionStatus 0 0 0] ∧ Holds s u F.GLB_SECTION_STATUS_RESULT 1) ∧
  (∀ (s : State) (m : Word), s.apply = some (some m) → Memory.wf s.mem = true →
    ∃ u, exec .sectionApplyComplete s = .next (settled u) ∧ u.apply = none ∧ rd u .glbSectionActive = m ∧ fg u F.GLB_SECTION_STATUS_RESULT = 2 ∧
      (∀ k, k < 8 → mapField m k < 8 → mapField m k ≠ sectionPart s k → ∀ n ∈ sectionTiles s k, ∀ a, a < 0x180000 → memByte u.mem (keyTile n a) = 0) ∧
      (∀ a, (∀ k n o, k < 8 → n ∈ sectionTiles s k → o < 0x180000 → a ≠ keyTile n o) → memByte u.mem a = memByte s.mem a) ∧
      (∀ p, p < 8 → partExists s p = true → partExists u p = false → fg u F.PORT_DEVID_VALID p = 0 ∧ fg u F.SEC_PART_CTL_STATE p = 0))

/-- With no wrong stored bit, a fence by the PF or the Overman, or the failure of a passage, fences the tile with a TILE_FENCED record and a capacity-change record, its buffers are empty, and a task on it is RESETTING; memory changes only where a store-engine operation is abandoned, whose beats written so far remain. A failed passage
also makes breaks of the crosscuts through it and discards the flits that its stop's buffers and entry queues hold on four rings. RETIRE_EN takes the written bit while LOCK is 0.
Link selection zeroes the stores of the physical tiles whose logical column changes; when the mapping is in force it is the first enabled columns that are not retired, the columns are RETIRED and the retirement waits to be recorded. -/
def Obligations.FencesPassagesAndReplacement : Prop :=
  (∀ (s : State) (n : Nat) (e : Instr) (cause : Nat), n < 1152 →
    let s0 := settle s s.clk.cyc
    (∃ f v, e = .plFenceWrite f n v ∧ isPriv s f = true ∧ getBits v 7 7 = 1 ∧ cause = 1) ∨ (e = .passageFail n ∧ (tile s0 n).passFail = false ∧ tileDie n < s0.dies.length ∧ cause = 3) →
    (tile s0 n).fenced = false → s0.flips = [] →
    ∃ u r r' more, exec e s = .next (settled u) ∧ u.recs = s0.recs ++ r :: r' :: more ∧ r.cls = 4 ∧ r.cause = cause ∧ r.unit = 1 ∧ r.unitIx = n ∧ r'.cls = 5 ∧
      (tile u n).fenced = true ∧ (tile u n).gatherI = [] ∧ (tile u n).gatherM = [] ∧ (tile u n).stops = [] ∧ (tile u n).windows = [] ∧
      ((∀ k, (tile s0 k).stops = []) → u.mem = s0.mem) ∧
      (∀ o rest, (tile s0 n).stops = o :: rest → (∀ k, k ≠ n → (tile s0 k).stops = []) → o.copy = false → Memory.wf s0.mem = true → o.len % 64 = 0 → o.dst + o.len ≤ storeBase s0 n + windowTable (storeBase s0 n) →
        ∀ j, j < o.len → memByte u.mem (keyTile n (o.dst + j)) =
          if j < 64 * (8 * (s0.clk.cyc - (o.start + 8))) then BitVec.ofNat 8 (o.pat.toNat / 2 ^ (8 * (j % 8))) else memByte s0.mem (keyTile n (o.dst + j))) ∧
      (∀ k t, (tile s0 n).slot = some k → task? s0 k = some t → ∀ m, node? u t.gseq t.node = some m → m.state = .resetting) ∧
      (cause = 3 → (tile u n).passFail = true ∧
        (∀ l, l < 15 → (l ∈ (diePlace u (tileDie n)).breaks ↔ l ∈ (diePlace s0 (tileDie n)).breaks ∨ l ∈ crossedBy s0 (tileDie n) (tileCol n))) ∧
        (∀ q, q < 2 → (∀ x ∈ (ring u (tileDie n * 68 + 2 * tileRow n + q)).flits, x.pos ≠ tileCol n + 1) ∧ (∀ x ∈ (ring u (tileDie n * 68 + 2 * tileRow n + q)).queue, x.pos ≠ tileCol n + 1) ∧
          (∀ x ∈ (ring u (tileDie n * 68 + 32 + 2 * tileCol n + q)).flits, x.pos ≠ tileRow n + 1) ∧ ∀ x ∈ (ring u (tileDie n * 68 + 32 + 2 * tileCol n + q)).queue, x.pos ≠ tileRow n + 1))) ∧
  (∀ (s : State) (f : Func) (v : Word), isPriv s f = true →
    ∃ u, exec (.placeCtlWrite f v) s = .next (settled u) ∧ RegsOnly s u [regKey .tgePlaceCtl 0 0 0] ∧
      fg u F.TGE_PLACE_CTL_RETIRE_EN = (if fg s F.TGE_PLACE_CTL_LOCK = 1 then fg s F.TGE_PLACE_CTL_RETIRE_EN else getBits v 0 0) ∧
      fg u F.TGE_PLACE_CTL_LOCK = (if fg s F.TGE_PLACE_CTL_LOCK = 1 ∨ getBits v 63 63 = 1 then 1 else 0)) ∧
  (∀ (s : State) (d b : Nat) (cols : List Nat), d < s.dies.length →
    let m := nextMap s d cols
    ((diePlace s d).repl = some (b, cols, false) → heldResetting s d = false → Memory.wf s.mem = true →
      ∃ u, exec (.replacementLinkSelect d) s = .next (settled u) ∧ diePlace u d = { diePlace s d with repl := some (b, cols, true) } ∧
        ∀ l, l < m.length → m[l]? ≠ (diePlace s d).map[l]? → ∀ r, r < 16 → ∀ a, a < 0x180000 → memByte u.mem (keyTile (tileAt d r (nth m l 0)) a) = 0) ∧
    ((diePlace s d).repl = some (b, cols, true) →
      ∃ u, exec (.replacementInForce d) s = .next (settled u) ∧ (diePlace u d).map = m ∧ (diePlace u d).breaks = breaksOf s d m ∧ (diePlace u d).repl = none ∧
        m = ((List.range 18).filter fun c => decide (c ∉ retiredCols s d ++ cols)).take (enabledCols s) ∧ u.mapPend = s.mapPend ++ cols.map (fun c => (d, c)) ∧ u.mem = s.mem ∧
        (d < 4 → ∀ c, c < 18 → (c ∈ retiredCols u d ↔ c ∈ retiredCols s d ∨ c ∈ cols)) ∧ ∃ r, u.recs = s.recs ++ [r] ∧ r.cls = 5 ∧ r.cause = 1))

/-- A read of a line with no wrong stored bit changes nothing but the counts of its way; where exactly one of the 80 stored bits of a word of the line is wrong, the data stays, CE_COUNT rises by one, a record of class 0x08 names the device, and a write-back is scheduled, after which in a later cycle the stored word is right again. A write stores exactly
the bytes of its mask. A scrub step moves to the next 128-byte line, or to 0 with one more pass at the end; in Dormant nothing is scrubbed. A completed soft repair counts, uses a spare, leaves the row to be recorded and serves the row's requests. A refresh changes no data; the device's temperature and rate show. -/
def Obligations.MemoryControllersServe : Prop :=
  ∀ (s : State) (dev : Nat), devPresent s dev = true → devFenced s dev = false → s.flips = [] → s.memc.wback = [] →
    let i := (devIx dev).1
    let j := (devIx dev).2
    let way := fun (u : State) (line : MemLink) =>
      (dev < 8 → fg u F.MEM_DEV_LINK_CMD_RETRY i j = min (fg s F.MEM_DEV_LINK_CMD_RETRY i j + line.retry.toNat) (2 ^ 32 - 1)) ∧
      (8 ≤ dev → fg u F.MEM_DEV_LINK_LINK_CE i j = min (fg s F.MEM_DEV_LINK_LINK_CE i j + line.ce) (2 ^ 32 - 1))
    (∀ (off : Nat) (who : Reader) (age : BitVec 32) (line : MemLink), off / 64 * 64 < devBytes s dev → rowHeld s dev (off / 64 * 64) = false →
      (∃ u, exec (.memRead dev off ⟨who, age⟩ ⟨[], line⟩) s = .next (settled u) ∧ RegsOnly s u [regKey .memDevLink i j 0] ∧ way u line) ∧
      (∀ w k, w < 8 → k < 80 → Memory.wf s.mem = true →
        let key := keyMem dev (off / 64 * 64) / 8 + w
        ∃ u r more, exec (.memRead dev off ⟨who, age⟩ ⟨[(w, BitVec.twoPow 80 k, 0)], line⟩) s = .next (settled u) ∧ SameMem s u ∧
          (∀ t, s.clk.cyc < t → let v := ripenBack { u with clk := { u.clk with cyc := t } }
            v.flips = [] ∧ SameMem s v) ∧ u.memc.wback = [(key, s.clk.cyc, wordData s key)] ∧ u.recs = s.recs ++ r :: more ∧ r.cls = 8 ∧
          r.unit = (if dev < 8 then 5 else 6) ∧ r.unitIx = j ∧ fg u F.MEM_DEV_ECC_COUNT_CE_COUNT i j = min (fg s F.MEM_DEV_ECC_COUNT_CE_COUNT i j + 1) (2 ^ 32 - 1))) ∧
    (∀ (off : Nat) (mask : BitVec 64) (data : BitVec 512) (age : BitVec 32) (line : MemLink), off / 64 * 64 < devBytes s dev → rowHeld s dev (off / 64 * 64) = false → Memory.wf s.mem = true →
      let k := keyMem dev (off / 64 * 64)
      ∃ u, exec (.memWrite dev off mask ⟨data, age, line⟩) s = .next (settled u) ∧ u = { s with regs := u.regs, mem := u.mem } ∧ RegsBut s u [regKey .memDevLink i j 0] ∧ way u line ∧
        (∀ t, t < 64 → memByte u.mem (k + t) = if mask.getLsbD t then BitVec.ofNat 8 (data.toNat / 2 ^ (8 * t)) else memByte s.mem (k + t)) ∧
        ∀ a, a < k ∨ k + 64 ≤ a → memByte u.mem a = memByte s.mem a) ∧
    (let line := fg s F.MEM_DEV_SCRUB_LINE i j
     (if dev < 8 then fg s F.MEM_CTL_T1_SCRUB_H else fg s F.MEM_CTL_T2_SCRUB_H) ≠ 0 → dormant s = false → rowHeld s dev (line * 128) = false →
      ∃ u, exec (.memScrubStep dev []) s = .next (settled u) ∧ RegsOnly s u [regKey .memDevScrub i j 0] ∧
        ((line + 1) * 128 < devBytes s dev → fg u F.MEM_DEV_SCRUB_LINE i j = (line + 1) % 2 ^ 30 ∧ fg u F.MEM_DEV_SCRUB_PASSES i j = fg s F.MEM_DEV_SCRUB_PASSES i j) ∧
        (devBytes s dev ≤ (line + 1) * 128 → fg u F.MEM_DEV_SCRUB_LINE i j = 0 ∧ fg u F.MEM_DEV_SCRUB_PASSES i j = (fg s F.MEM_DEV_SCRUB_PASSES i j + 1) % 2 ^ 16)) ∧
    (∀ upset, dormant s = true → exec (.memScrubStep dev upset) s = .next (settled s)) ∧
    (∀ row t, (dev, row, t) ∈ s.memc.repairs →
      ∃ u, exec (.softRepairComplete dev row) s = .next (settled u) ∧ (∀ t', (dev, row, t') ∉ u.memc.repairs) ∧ u.memc.hppr = s.memc.hppr ++ [(dev, row)] ∧
        u.memc.held = s.memc.held.filter (fun r => !(r.dev == dev && deviceRow dev r.off == row)) ∧ (s.memc.held = [] → u.mem = s.mem) ∧
        fg u F.MEM_DEV_REPAIR_SPPR_DONE i j = min (fg s F.MEM_DEV_REPAIR_SPPR_DONE i j + 1) 65535 ∧ fg u F.MEM_DEV_REPAIR_HPPR_PENDING i j = min (fg s F.MEM_DEV_REPAIR_HPPR_PENDING i j + 1) 65535 ∧
        fg u F.MEM_DEV_REPAIR_SPARES_LEFT i j = fg s F.MEM_DEV_REPAIR_SPARES_LEFT i j - 1) ∧
    (∀ (bank : Nat) (dies : MemDies), ∃ u, exec (.memRefresh dev ⟨bank, dies⟩) s = .next (settled u) ∧ u = { s with regs := u.regs, memc := { s.memc with refresh := u.memc.refresh } } ∧
      RegsBut s u [regKey .memDevStatus i j 0, regKey .memDevLink i j 0] ∧ SMap.find u.memc.refresh dev = some bank ∧ fg u F.MEM_DEV_STATUS_TEMP i j = min 255 dies.temp ∧
      fg u F.MEM_DEV_STATUS_REF_RATE i j = (if 8 ≤ dev then dies.rate.toNat else if 85 ≤ dies.temp then 1 else 0) ∧
      (dev < 8 → fg u F.MEM_DEV_LINK_LINK_CE i j = min (fg s F.MEM_DEV_LINK_LINK_CE i j + dies.ecs) (2 ^ 32 - 1)))

/-- A source's flit that is next of its packet waits in its stop's entry queue of 8, with the AGE of what it carries. The head that the stop's arbiter grants (of two heads the older rank age, then the lower SRC_X, then the lower SRC_Y) enters when 2 of 4 slots stay free after an arriving flit and its rank age is within AGE_SLACK of the beacon's; it waits otherwise,
counted when the beacon withholds it. A shunted stop takes no flit. At its destination a flit of a packet with a reservation leaves the ring; the oldest packet with room leaves it and reserves room for its other flits; with no room the flit laps. A flit whose body is uncorrectable marks its request. A sideband error discards the flit with a record. A flit
that must change rings joins the entry queue there. A beacon that laps carries the rank age that waits. -/
def Obligations.RingsCarryFlits : Prop :=
  (∀ (s : State) (i pos source : Nat) (arriving : Bool) (fl : Flit),
    let r := ring s i
    let q : QueuedFlit := { pos := pos, source := source, fl := { fl with age := flitAge s fl }, marked := false }
    let step := exec (.flitEntry i ⟨pos, source⟩ arriving fl) s
    (shunted s (ringAt i pos) = true ∨ ringStops (ringColumn i) ≤ pos → step = .next (settled s)) ∧
    (q ∉ r.queue → 8 ≤ (r.queue.filter fun x => x.pos == pos).length ∨ fl.seq.toNat ≠ SMap.get 0 r.next (packetKey fl) → step = .next (settled s)) ∧
    (∀ (r1 : Ring) (h : QueuedFlit), shunted s (ringAt i pos) = false → pos < ringStops (ringColumn i) →
      (q ∈ r.queue ∧ r1 = r) ∨ (q ∉ r.queue ∧ (r.queue.filter fun x => x.pos == pos).length < 8 ∧ fl.seq.toNat = SMap.get 0 r.next (packetKey fl) ∧ lengthOk s fl = true ∧
        r1 = { r with queue := r.queue ++ [q], next := if fl.seq = fl.more then SMap.erase r.next (packetKey fl) else SMap.set r.next (packetKey fl) (fl.seq.toNat + 1) }) →
      granted s r1 pos = some h →
      let held := (r.flits.filter fun x => x.pos == pos).length
      let age := rankAge s r1 h
      let withheld := ∃ b, r.beacon = some b ∧ (s.haulCtl.2 : Int) < (age - b).toInt
      ∃ u, step = .next (settled u) ∧ u = { s with regs := u.regs, rings := u.rings } ∧ (∀ k, k ≠ i → ring u k = ring s k) ∧
        (withheld → ring u i = r1 ∧ RegsBut s u [regKey .haulRingLaps i 0 0] ∧ Holds s u F.HAUL_RING_LAPS_THROTTLED (min (fg s F.HAUL_RING_LAPS_THROTTLED i + 1) (2 ^ 32 - 1)) i) ∧
        (¬ withheld → 4 < held + arriving.toNat + 2 → ring u i = r1 ∧ u.regs = s.regs) ∧
        (¬ withheld → held + arriving.toNat + 2 ≤ 4 →
          ring u i = { r1 with flits := r.flits ++ [{ fl := h.fl, pos := pos, marked := h.marked }], queue := r1.queue.erase h,
                               counts := SMap.set r.counts (sourceKey h) (SMap.get 0 r.counts (sourceKey h) + 1), last := SMap.set r.last (sourceKey h) (mer s) } ∧
          fg u F.HAUL_RING_ENTERED_COUNT i = min (fg s F.HAUL_RING_ENTERED_COUNT i + 1) (2 ^ 64 - 1)))) ∧
  (∀ (s : State) (r : Ring) (pos : Nat) (x y : QueuedFlit), (heads r).filter (fun h => h.pos == pos) = [x, y] →
    granted s r pos = some (if (rankAge s r y - rankAge s r x).msb || (rankAge s r y == rankAge s r x &&
      (decide ((srcXY y.fl).1 < (srcXY x.fl).1) || (decide ((srcXY y.fl).1 = (srcXY x.fl).1) && decide ((srcXY y.fl).2 < (srcXY x.fl).2)))) then y else x)) ∧
  (∀ (s : State) (i ix : Nat) (room : Bool) (x : RingFlit), (ring s i).flits[ix]? = some x → x.marked = false →
    let r := ring s i
    let key := packetKey x.fl
    let onward := { x with pos := nextLive s i 20 x.pos }
    (isMulti x.fl.route = false → x.fl.cls ≠ .message → flitGoal s i x.fl = .ok (x.pos, true) →
      (key ∈ r.reserved →
        ∃ u, exec (.flitArrival i ix room ⟨.clean, []⟩) s = .next (settled u) ∧ u = { s with rings := u.rings } ∧ ring u i = { r with flits := r.flits.eraseIdx ix, reserved := r.reserved.erase key }) ∧
      (key ∉ r.reserved → r.refused.filter (fun y => y.pos == x.pos) = [] →
        ∃ u, exec (.flitArrival i ix true ⟨.clean, []⟩) s = .next (settled u) ∧ u = { s with rings := u.rings } ∧ (ring u i).flits = r.flits.eraseIdx ix ∧
          (ring u i).reserved = r.reserved ++ List.replicate x.fl.more.toNat key) ∧
      (key ∉ r.reserved → ∀ o, r.refused.filter (fun y => y.pos == x.pos) = [o] → o.key ≠ key → older o.age x.fl.age = true →
        ∃ u, exec (.flitArrival i ix true ⟨.clean, []⟩) s = .next (settled u) ∧ (ring u i).flits = r.flits.set ix onward ∧ (ring u i).reserved = r.reserved ++ List.replicate o.flits o.key) ∧
      (key ∉ r.reserved →
        ∃ u, exec (.flitArrival i ix false ⟨.clean, []⟩) s = .next (settled u) ∧ u = { s with regs := u.regs, rings := u.rings } ∧ (ring u i).flits = r.flits.set ix onward ∧ (ring u i).reserved = r.reserved ∧
          fg u F.HAUL_RING_LAPS_LAPS i = min (fg s F.HAUL_RING_LAPS_LAPS i + 1) (2 ^ 32 - 1)) ∧
      (key ∈ r.reserved → ∀ (upset : Upset) (w : Nat) (k : EccKind) (c : CoreRef) (q : HaulReq), w < 16 → bodyWordCheck upset w = .bad k → flitReq s x.fl = some (c, q) → q.err = stOK →
        (∀ y ∈ (coreAt s c).haul, y.id = q.id → y = q) →
        ∃ u, exec (.flitArrival i ix room ⟨.clean, upset⟩) s = .next (settled u) ∧ (ring u i).flits = r.flits.eraseIdx ix ∧
          fg u F.HAUL_RING_ERR_BODY_UE i = min (fg s F.HAUL_RING_ERR_BODY_UE i + 1) (2 ^ (F.HAUL_RING_ERR_BODY_UE.hi + 1 - F.HAUL_RING_ERR_BODY_UE.lo) - 1) ∧
          (coreAt u c).haul = (coreAt s c).haul.map fun y => if y = q then { y with err := stUncorrectable, errAt := y.addr.toNat } else y)) ∧
    (isMulti x.fl.route = false → x.fl.cls = .message → flitGoal s i x.fl = .ok (x.pos, true) →
      ∃ u, exec (.flitArrival i ix room ⟨.clean, []⟩) s = .next (settled u) ∧ u.flights = s.flights ∧ (ring u i).flits = r.flits.eraseIdx ix) ∧
    (∀ dst src tag part st, x.fl.route = .uni dst src tag part st → flitGoal s i x.fl = .ok (x.pos, false) →
      let (d, column, n, p) := legNext (i / 68) (ringColumn i) (ringIndex i) x.pos dst
      let j := ringNo d column n (pickRing (ringStops column) p (legGoal d column n src dst).1)
      j ≠ i → ((ring s j).queue.filter fun y => y.pos == p).length < 8 →
      ∃ u y, exec (.flitArrival i ix room ⟨.clean, []⟩) s = .next (settled u) ∧ (ring u i).flits = r.flits.eraseIdx ix ∧ (ring u j).queue = (ring s j).queue ++ [y] ∧ y.fl = x.fl ∧ y.pos = p) ∧
    (∀ final, isMulti x.fl.route = false → flitGoal s i x.fl = .ok (x.pos, final) →
      ∃ u y, exec (.flitArrival i ix room ⟨.sidebandUE, []⟩) s = .next (settled u) ∧ (ring u i).flits = r.flits.eraseIdx ix ∧ u.recs = s.recs ++ [y] ∧ y.cls = 0x11 ∧ y.cause = 1 ∧ y.aux = BitVec.ofNat 64 i) ∧
    (∀ e (c : CoreRef) (q : HaulReq), flitGoal s i x.fl = .error e → x.fl.cls = .request → flitReq s x.fl = some (c, q) → q.err = stOK → (∀ y ∈ (coreAt s c).haul, y.id = q.id → y = q) →
      ∃ u, exec (.flitArrival i ix room ⟨.clean, []⟩) s = .next (settled u) ∧ (ring u i).flits = r.flits.eraseIdx ix ∧
        (coreAt u c).haul = (coreAt s c).haul.map fun y => if y = q then { y with err := if e = .fenced then stTileFenced else stUnreachable, errAt := y.addr.toNat } else y)) ∧
  (∀ (s : State) (die ix : Nat), let i := die * 68 + ix
    ∃ u, exec (.ageBeaconLap die ix) s = .next (settled u) ∧ u = { s with rings := u.rings } ∧ (∀ k, k ≠ i → ring u k = ring s k) ∧
    ∃ b, ring u i = { ring s i with beacon := b } ∧ (heads (ring s i) = [] → b = none) ∧ (∀ h, heads (ring s i) = [h] → b = some (rankAge s (ring s i) h)) ∧
      (∀ a, b = some a → ∃ h ∈ heads (ring s i), a = rankAge s (ring s i) h))

/-- With no wrong stored bit, a request or a SEAM or ASSAY command that times out raises HAUL_ERROR with its PC after a HAUL_ERROR record of the network. A multicast that returns has been accepted by the stops of its mask that are neither fenced nor shunted and had room, each of which remembers its source and TAG, loads what it carries, and relays it along its
column; its misses are resent while RESEND_LIMIT allows, and then each stop left in the mask is fenced. One that does not return in 1,024 cycles is resent to every stop of its mask. -/
def Obligations.TimeoutsAndMulticasts : Prop :=
  (∀ (s : State) (c : CoreRef) (id slot slot' : Nat) (t t' : Task) (r : HaulReq), taskOf s c.tile = some (slot, t) → t.shadow = 0 → (coreAt s c).haul.find? (fun r => r.id == id) = some r →
    let at_ := r.born + max 1700 (fg s F.HAUL_TIMEOUT_TIMEOUT_HC)
    let s0 := advanceTo (settle s (max s.clk.cyc at_)) at_
    taskOf s0 c.tile = some (slot', t') → (coreAt s0 c).gates = [] → t'.shadow = 0 → s0.flips = [] → Early s0 →
    ∃ u h e, exec (.haulTimeout c (.request id)) s = .next (settled u) ∧ u.recs = s0.recs ++ [h, e] ∧ h.cls = 0x11 ∧ h.cause = 2 ∧ e.cls = 1 ∧ e.cause = 0x22 ∧ e.pc = r.pc.toNat ∧
      fg u F.HAUL_STATUS_TIMEOUTS = min (fg s0 F.HAUL_STATUS_TIMEOUTS + 1) (2 ^ 32 - 1) ∧ ∀ m, node? u t'.gseq t'.node = some m → m.state = .faulted) ∧
  (∀ (s : State) (c : CoreRef) (id slot slot' : Nat) (t t' : Task) (x : SeamCmd) (k sl ep tag : Nat) (pc : Word) (area : Nat), taskOf s c.tile = some (slot, t) → t.shadow = 0 → id ∈ (coreAt s c).cmds →
    findCmd s c id = some x → x.origin = .task k sl ep tag pc area →
    let s0 := settle s s.clk.cyc
    taskOf s0 c.tile = some (slot', t') → task? s0 slot = some t' → s0.flips = [] → Early s0 →
    ∃ u h e, exec (.haulTimeout c (.command id)) s = .next (settled u) ∧ u.recs = s0.recs ++ [h, e] ∧ h.cls = 0x11 ∧ h.cause = 2 ∧ e.cls = 1 ∧ e.cause = 0x22 ∧ e.pc = pc.toNat ∧
      fg u F.HAUL_STATUS_TIMEOUTS = min (fg s0 F.HAUL_STATUS_TIMEOUTS + 1) (2 ^ 32 - 1) ∧ ∀ m, node? u t'.gseq t'.node = some m → m.state = .faulted) ∧
  (∀ (s : State) (id : Nat) (m : Mcast) (k : Nat) (got : BitVec 18) (e : Instr), SMap.find s.mcasts id = some m → m.done = false → m.cols = [] → m.parent = none → m.load = .launch k →
    m.relay = 0 ∨ m.column = true → m.mask < 2 ^ (if m.column then 16 else 18) →
    let bits := castBits m
    let gone := fun b => (tile s (castTile m b)).fenced || (tile s (castTile m b)).passFail
    let s0 := if e = .mcastReturn id got then s else advanceTo (settle s (max s.clk.cyc (m.born + 1024))) (m.born + 1024)
    let left := if e = .mcastReturn id got then bits.filter fun b => gone b || (got.getLsbD b && !(tile s (castTile m b)).casts.contains (castId m)) else bits
    e = .mcastReturn id got ∨ (e = .mcastReturnTimeout ⟨id, got⟩ ∧ s0 = { s with clk := s0.clk, ariths := s0.ariths }) →
    ∃ u, exec e s = .next (settled u) ∧
      (left = [] → SMap.find u.mcasts id = none) ∧
      (left ≠ [] → m.sends < fg s F.HAUL_CTL_RESEND_LIMIT → ∃ mask, SMap.find u.mcasts id = some { m with mask := mask, sends := m.sends + 1, born := s0.clk.cyc } ∧
        (e = .mcastReturn id got → castBits { m with mask := mask } = left) ∧ (e ≠ .mcastReturn id got → mask = m.mask)) ∧
      (left ≠ [] → fg s F.HAUL_CTL_RESEND_LIMIT ≤ m.sends → SMap.find u.mcasts id = none ∧ ∀ b ∈ left, (tile u (castTile m b)).fenced = true) ∧
      (∀ b ∈ bits, b ∉ left → e = .mcastReturn id got → m.sends < fg s F.HAUL_CTL_RESEND_LIMIT → castId m ∈ (tile u (castTile m b)).casts)) ∧
  (∀ (s : State) (id b : Nat) (m : Mcast), SMap.find s.mcasts id = some m → m.done = false → m.cols = [] → m.column = false → m.relay ≠ 0 → castBits m = [b] → castGone s (castTile m b) = false →
    (tile s (castTile m b)).casts.contains (castId m) = false → m.parent = none → id < s.nextMc →
    ∃ u x, exec (.mcastReturn id 0) s = .next (settled u) ∧ SMap.find u.mcasts s.nextMc = some x ∧ u.nextMc = s.nextMc + 1 ∧
      x.column = true ∧ x.die = m.die ∧ x.index = b ∧ x.home = m.index ∧ x.mask = m.relay ∧ x.tag = m.tag ∧ x.load = m.load ∧ x.parent = some id ∧ x.sends = 0 ∧
      (∃ y, SMap.find u.mcasts id = some y ∧ y.done = true ∧ y.cols = [s.nextMc]) ∧
      (m.load = .firmware → Memory.wf s.mem = true → ∀ j, j < (tileImage s).body.length → j < fg s F.TS_CTL_RESERVE (castTile m b) * 2 ^ 15 → memByte u.mem (keyTile (castTile m b) j) = nth (tileImage s).body j 0))

/-- A message with none of its core to its queue ahead of it gets an outcome: FENCED on a fenced tile or failed passage, GONE while its channels are closed, STALE when it does not match, FULL when a request queue holds 32, and otherwise it joins its queue (giving back a reply queue's reservation) and is acknowledged; the outcome travels back. The outcome that reaches a core of the same
task waits there for MSG STAT, the send is no longer outstanding, and a failed REQ gives its reply slot back. -/
def Obligations.MessagesReachTheirQueues : Prop :=
  (∀ (s : State) (ix : Nat) (f : Flight), s.flights[ix]? = some f → (∀ g ∈ s.flights.take ix, ¬ (g.core = f.core ∧ g.dst = f.dst ∧ g.q = f.q)) →
    let t := tile s f.dst
    let q := msgQueue t f.q
    let o := if t.fenced = true ∨ t.passFail = true then 4 else if t.chanOpen = false then 2 else if msgMatched s f = false then 3 else if f.q < 8 ∧ 32 ≤ q.entries.length then 1 else 0
    ∃ u, exec (.msgArrival ix) s = .next (settled u) ∧ u.flights = s.flights.eraseIdx ix ∧ u.mem = s.mem ∧ u.cores = s.cores ∧
      u.outFlits = s.outFlits ++ [{ core := f.core, slot := f.slot, epoch := f.epoch, tag := f.tag, code := o, resv := f.resv }] ∧
      (o ≠ 0 → u.tiles = s.tiles) ∧
      (o = 0 → (∀ n, n ≠ f.dst → tile u n = tile s n) ∧ (msgQueue (tile u f.dst) f.q).resv = (if 8 ≤ f.q then q.resv - 1 else q.resv) ∧
        ∃ m, (msgQueue (tile u f.dst) f.q).entries = q.entries ++ [m] ∧ m.data = f.data ∧ m.request = f.request ∧ m.sender = f.sender ∧ m.replyQ = f.replyQ ∧ m.gen = f.gen ∧ m.marked = f.marked)) ∧
  (∀ (s : State) (ix : Nat) (f : OutcomeFlit) (t : Task), s.outFlits[ix]? = some f →
    let c : CoreRef := { tile := f.core / 2, mover := decide (f.core % 2 = 1) }
    taskOf s c.tile = some (f.slot, t) → t.epoch = f.epoch → t.shadow = 0 → f.tag ∈ (coreAt s c).sends →
    ∃ u, exec (.msgOutcome ix) s = .next (settled u) ∧ u.outFlits = s.outFlits.eraseIdx ix ∧ u.mem = s.mem ∧
      coreAt u c = { coreAt s c with sends := (coreAt s c).sends.erase f.tag, outcomes := (coreAt s c).outcomes ++ [(f.code, f.tag)] } ∧
      (∀ q, f.resv = some q → f.code ≠ 0 → (msgQueue (tile u c.tile) q).resv = (msgQueue (tile s c.tile) q).resv - 1) ∧ (f.code = 0 → u.tiles = s.tiles)) ∧
  (∀ (s : State) (ix : Nat) (f : OutcomeFlit), s.outFlits[ix]? = some f → (∀ x, taskOf s (f.core / 2) = some x → x.1 ≠ f.slot ∨ x.2.epoch ≠ f.epoch) →
    exec (.msgOutcome ix) s = .next (settled { s with outFlits := s.outFlits.eraseIdx ix }))


/-! ### Links and transport -/

namespace Sys2Proof.Claims

/-- A command of a link answers a state u before the operations of partitions that have lost their last home port complete (R299). -/
def LinkEnds (c : Instr) (s u : State) : Prop := exec c s = .next (settled (strand u))

/-- A port that has just entered HELD with a reason: no width, no lane map, counted and recorded; a width that was in force is recorded as changed. -/
def HeldNow (s u : State) (n reason : Nat) : Prop :=
  fg u F.PORT_LINK_STATUS_STATE n = 8 ∧ fg u F.PORT_LINK_STATUS_HELD_REASON n = reason ∧ fg u F.PORT_LINK_STATUS_WIDTH n = 0 ∧ fg u F.PORT_LINK_STATUS_LANE_MAP n = 0 ∧
  fg u F.PORT_EVENTS_HELD n = min (fg s F.PORT_EVENTS_HELD n + 1) 65535 ∧ (link u n).oldWidth = 0 ∧
  ∃ r more, u.recs = s.recs ++ r :: more ∧ r.cls = 0x0F ∧ r.unit = 7 ∧ r.unitIx = n ∧ ((link s n).oldWidth = 0 → more = []) ∧
    ((link s n).oldWidth ≠ 0 → ∃ x, more = [x] ∧ x.cls = 0x0E ∧ x.unit = 7 ∧ x.unitIx = n)

/-- A port that has just entered RETRAIN: counted, recorded, and a width proposal gone. -/
def RetrainNow (s u : State) (n : Nat) : Prop :=
  fg u F.PORT_LINK_STATUS_STATE n = 7 ∧ fg u F.PORT_EVENTS_RETRAINS n = min (fg s F.PORT_EVENTS_RETRAINS n + 1) 65535 ∧ (link u n).proposal = none ∧
  ∃ r, u.recs = s.recs ++ [r] ∧ r.cls = 0x0D ∧ r.unit = 7 ∧ r.unitIx = n

/-- A port that holds no block and has neither a packet nor a link control message waiting. -/
def Empty (s : State) (n : Nat) : Prop := (link s n).held = [] ∧ (link s n).txq = [] ∧ (link s n).ctl = []

/-- The blocks that a replay sends again: every held block with its own SEQ and the port's present ACK and NAK (R280). -/
def Replayed (k : Link) (n : Nat) : List Out :=
  k.held.map fun x => .block n (blockHead x.2.1.typ k.nak x.1 ((k.rxSeq + 1023) % 1024) x.2.1.payload) (blockPayload x.2.1.payload)

/-- A port's link control message has left in a numbered block, which its replay buffer holds (R278). -/
def ControlSent (s u : State) (n kind v : Nat) : Prop :=
  (link s n).held.length < 512 →
    (∃ h, u.outs = s.outs ++ [.block n h (blockPayload (Config.controlBytes kind v))] ∧ headType h = 2 ∧ headSeq h = (link s n).txSeq % 1024) ∧
    (link u n).txSeq = ((link s n).txSeq + 1) % 1024 ∧ ∃ c t, (link u n).held = (link s n).held ++ [((link s n).txSeq, c, t)] ∧ c.ctl = some (kind, v)

/-- The lanes of a LANE_MAP: the four lowest good ones, or all eight. -/
def MapOf (g m : Nat) : Prop := ∀ l, l < 8 → (laneIn m l = true ↔ laneIn g l = true ∧ (laneCount g = 8 ∨ ((List.range l).filter (laneIn g)).length < 4))

/-- Only the link and registers of ports, and what has left on them, have changed. -/
def LinkOnly (s u : State) : Prop := u = { s with regs := u.regs, links := u.links, outs := u.outs }

/-- Where partition p's next packet to an ID leaves: on port m, at once, unsealed and unsampled. -/
def LeavesOn (s : State) (p id : Nat) (used : List Nat) (m : Nat) : Prop :=
  (∃ s1, choosePort s p id used = some (m, s1)) ∧ (link s m).txq = [] ∧ (link s m).ctl = [] ∧ (link s m).held.length < 512 ∧ (∀ q, confOn s q = false) ∧ fg s F.PORT_SAMPLE_CTL_EN ≠ 1

/-- A packet that port n takes: its header is not sampled and nothing drops it; it is for partition p, unprotected, and no row is held and no passage has failed. -/
def Taken (s : State) (n p op : Nat) (pk : Packet) : Prop :=
  n < 32 ∧ p < 8 ∧ pk.op = op ∧ pk.reserved = false ∧ portState s n = 6 ∧ inDeviceReset s = false ∧ fg s F.PORT_SAMPLE_CTL_EN ≠ 1 ∧ dropOf s pk = none ∧ partOfId s pk.dst = some p ∧
  pk.enc = false ∧ (∀ q, confOn s q = false) ∧ s.memc.repairs = [] ∧ (∀ x ∈ s.tiles, x.2.passFail = false)

/-- Nothing else goes on when an operation ends: no operation is held, and no descriptor or rejoin is in progress. -/
def Calm (s : State) : Prop := (∀ o ∈ s.xp.ops, o.held = false) ∧ s.dmas = [] ∧ s.om.rejoins = []

/-- A packet has left on port m in one data block that carries its flits. -/
def LeftOn (s u : State) (m : Nat) (r : Packet) : Prop :=
  ∃ h, u.outs = s.outs ++ [.packet m r.op r, .block m h (blockPayload (flitsOf r).flatten)] ∧ headType h = 0 ∧ headSeq h = (link s m).txSeq % 1024

/-- A packet has left on port m, and it answers pk with an OP, a status, a mask and data. -/
def Answered (s u : State) (m : Nat) (pk : Packet) (op st mask : Nat) (bs : List Byte) : Prop :=
  ∃ r : Packet, LeftOn s u m r ∧ r.op = op ∧ r.dst = pk.src ∧ r.opId = pk.opId ∧ r.echo = pk.epoch ∧ r.plane = m ∧ r.status = st ∧ r.lineMask = mask ∧ r.payload = bs

end Sys2Proof.Claims

/-- EN starts training or takes a port to DISABLED; RETRAIN and a lost lane take an ACTIVE port to RETRAIN. DETECT with four lanes, EQUALIZE, LANE_CHECK, CONFIG (x8 with eight good lanes, else x4 on the four lowest) and ALIGN follow one another; each failure makes the port HELD with its reason, and an alignment lock makes it ACTIVE, its held blocks sent again. The lanes
that passed go to the partner in a link control block, which is numbered and held. A block with an uncorrectable codeword, a bad CRC or an unexpected sequence number asks for a replay; a good one moves the expected number on; an ACK frees blocks up to it; a NAK or the replay timeout replays, or retrains after eight in a row. Background rounds test lanes and propose a
width, and the pause ends at x8 or x4. What becomes of the operations of a partition that loses its last home port is stated apart (LinkEnds). -/
def Obligations.LinksTrainAndRecover : Prop :=
  (∀ u : State, (∀ o ∈ u.xp.ops, homePorts u o.part ≠ [] ∨ (partOfId u o.dst).isSome = true) → strand u = u) ∧
  (∀ (s : State) (n : Nat), n < 32 →
    let k := link s n
    let st := portState s n
    let off := fg s F.PORT_LINK_CTL_LANE_DISABLE n
    (∀ (f : Func) (v : Word) (e : Instr), e = .portEnWrite f n v ∨ e = .portRetrainWrite f n v → isPriv s f = true → portEnabled s n = true →
      (fg s F.PORT_LINK_CTL_EN n = 0 → getBits v 0 0 = 1 → n ∉ s.om.dead →
        ∃ u, LinkEnds e s u ∧ u = { s with regs := u.regs, links := u.links } ∧ RegsBut s u [regKey .portLinkCtl n 0 0, regKey .portLinkStatus n 0 0] ∧
          fg u F.PORT_LINK_CTL_EN n = 1 ∧ fg u F.PORT_LINK_CTL_LANE_DISABLE n = getBits v 15 8 ∧ portState u n = 1 ∧ (link u n).det = 0 ∧ (link u n).since = mer s) ∧
      (getBits v 0 0 = 0 → st ≠ 0 → Empty s n →
        ∃ u, LinkEnds e s u ∧ u.mem = s.mem ∧ fg u F.PORT_LINK_CTL_EN n = 0 ∧ portState u n = 0 ∧ fg u F.PORT_LINK_STATUS_WIDTH n = 0 ∧ fg u F.PORT_LINK_STATUS_LANE_MAP n = 0 ∧
          fg u F.PORT_LINK_STATUS_HELD_REASON n = 0 ∧ (k.oldWidth = 0 → u = { s with regs := u.regs, links := u.links } ∧ RegsBut s u [regKey .portLinkCtl n 0 0, regKey .portLinkStatus n 0 0]) ∧
          (k.oldWidth ≠ 0 → ∃ r, u.recs = s.recs ++ [r] ∧ r.cls = 0x0E ∧ r.unit = 7 ∧ r.unitIx = n)) ∧
      (fg s F.PORT_LINK_CTL_EN n = 1 → getBits v 0 0 = 1 → getBits v 16 16 = 1 → st = 6 → ∃ u, LinkEnds e s u ∧ RetrainNow s u n ∧ u.mem = s.mem)) ∧
    (∀ lanes : BitVec 8,
      let m := Nat.land lanes.toNat k.det
      (st = 1 → 4 ≤ laneCount lanes.toNat → ∃ u, exec (.detectDone n lanes) s = .next (settled u) ∧ u = { s with regs := u.regs, links := u.links } ∧ RegsBut s u [regKey .portLinkStatus n 0 0] ∧ portState u n = 2 ∧
        (link u n).det = lanes.toNat) ∧
      (st = 1 → laneCount lanes.toNat < 4 → Empty s n → ∃ u, LinkEnds (.detectTimeout n lanes) s u ∧ HeldNow s u n 1 ∧ u.clk.cyc = max s.clk.cyc (cycleAt s (k.since + 10000000))) ∧
      (st = 2 → 4 ≤ laneCount m → ∃ u, exec (.equalizeDone n lanes) s = .next (settled u) ∧ u = { s with regs := u.regs, links := u.links } ∧ RegsBut s u [regKey .portLinkStatus n 0 0] ∧ portState u n = 3 ∧ (link u n).eq = m) ∧
      (st = 2 → 4 ≤ laneCount m → ∃ u, LinkEnds (.equalizeTimeout n lanes) s u ∧ portState u n = 3 ∧ (link u n).eq = m ∧ u.clk.cyc = max s.clk.cyc (cycleAt s (k.since + 100000000))) ∧
      (st = 2 → laneCount m < 4 → Empty s n → ∃ u, LinkEnds (.equalizeTimeout n lanes) s u ∧ HeldNow s u n 5)) ∧
    (∀ errs : List Nat, st = 3 → k.ctl = [] →
      ∃ u, exec (.laneCheckDone n errs) s = .next (settled u) ∧ LinkOnly s u ∧ RegsBut s u [regKey .portLinkStatus n 0 0] ∧ portState u n = 4 ∧ ControlSent s u n 0 (link u n).passed ∧
        ∀ l, l < 8 → (laneIn (link u n).passed l = true ↔ laneIn k.eq l = true ∧ laneIn off l = false ∧ ∃ x, errs[l]? = some x ∧ x ≤ 10000)) ∧
    (∀ partner : BitVec 8, st = 4 →
      let g := laneMask fun l => laneIn k.passed l && laneIn partner.toNat l && !laneIn off l
      (4 ≤ laneCount g → ∃ u, LinkEnds (.configDone n partner) s u ∧ u = { s with regs := u.regs, links := u.links } ∧ portState u n = 5 ∧ fg u F.PORT_LINK_STATUS_GOOD n = g ∧
        fg u F.PORT_LINK_STATUS_WIDTH n = (if laneCount g = 8 then 8 else 4) ∧ MapOf g (fg u F.PORT_LINK_STATUS_LANE_MAP n)) ∧
      (laneCount g < 4 → Empty s n → ∃ u, LinkEnds (.configDone n partner) s u ∧ HeldNow s u n 2 ∧ fg u F.PORT_LINK_STATUS_GOOD n = g)) ∧
    (st = 5 → k.txq = [] → k.ctl = [] →
      let w := fg s F.PORT_LINK_STATUS_WIDTH n
      ∃ u more, exec (.alignLock n) s = .next (settled u) ∧ portState u n = 6 ∧ fg u F.PORT_LINK_STATUS_HELD_REASON n = 0 ∧ (link u n).oldWidth = w ∧ u.outs = s.outs ++ more ++ Replayed k n ∧
        (k.oldWidth = w → u.recs = s.recs ∧ more = []) ∧ (k.oldWidth ≠ w → ∃ r, u.recs = s.recs ++ [r] ∧ r.cls = 0x0E ∧ r.unit = 7 ∧ r.unitIx = n) ∧
        fg u F.PORT_EVENTS_WIDTH_DOWN n = (if k.oldWidth = 8 ∧ w = 4 then min (fg s F.PORT_EVENTS_WIDTH_DOWN n + 1) 65535 else fg s F.PORT_EVENTS_WIDTH_DOWN n)) ∧
    (st = 5 → Empty s n → ∃ u, LinkEnds (.alignTimeout n) s u ∧ HeldNow s u n 3 ∧ u.clk.cyc = max s.clk.cyc (cycleAt s (k.since + 10000))) ∧
    (∀ (errs : List Nat) (partner : BitVec 8) (lock : Bool), st = 7 → Empty s n →
      let g := laneMask fun l => laneIn (lanesPass off k.eq errs 100) l && laneIn partner.toNat l
      ∃ u, LinkEnds (.retrainDone n errs partner lock) s u ∧ fg u F.PORT_LINK_STATUS_GOOD n = g ∧ (laneCount g < 4 → HeldNow s u n 2) ∧ (4 ≤ laneCount g → lock = false → HeldNow s u n 3) ∧
        (4 ≤ laneCount g → lock = true → portState u n = 6 ∧ fg u F.PORT_LINK_STATUS_WIDTH n = (if laneCount g = 8 then 8 else 4) ∧ MapOf g (fg u F.PORT_LINK_STATUS_LANE_MAP n))) ∧
    (∀ lane, st = 6 → laneIn k.det lane = true → ∃ u, LinkEnds (.laneLoss n lane) s u ∧ RetrainNow s u n ∧ u.mem = s.mem) ∧
    (∀ b : LinkBlock, st = 6 → k.txq = [] → k.ctl = [] →
      let bad := b.wrong.countP fun w => decide (15 < w.length)
      let typ := headType b.head
      let seq := headSeq b.head
      let good := bad = 0 ∧ crcRight b.head b.payload = true ∧ typ ≠ 3
      let d := (headAck b.head + 1024 - (k.held.map fun x => x.1).headD 0) % 1024
      (∃ u, LinkEnds (.linkBlockRx n b) s u ∧ fg u F.PORT_FEC_COUNT_CW_UNCORR n = min (fg s F.PORT_FEC_COUNT_CW_UNCORR n + bad) (2 ^ 32 - 1) ∧
        fg u F.PORT_FEC_COUNT_CW_CORRECTED n = min (fg s F.PORT_FEC_COUNT_CW_CORRECTED n + b.wrong.countP fun w => decide (0 < w.length) && decide (w.length ≤ 15)) (2 ^ 32 - 1) ∧
        (bad ≠ 0 → link u n = { k with nak := true, told := (link u n).told }) ∧
        (bad = 0 → crcRight b.head b.payload = false ∨ typ = 3 → link u n = { k with nak := true, told := (link u n).told } ∧
          fg u F.PORT_REPLAY_CRC_FAIL n = min (fg s F.PORT_REPLAY_CRC_FAIL n + 1) 65535) ∧
        (good → k.held = [] → headNak b.head = false →
          (typ = 1 → link u n = { k with told := (link u n).told }) ∧
          (typ = 2 → seq = k.rxSeq → link u n = { k with rxSeq := (k.rxSeq + 1) % 1024, nak := false, told := (link u n).told }) ∧
          (typ = 0 → seq = k.rxSeq → k.rxq = [] → nextPacket (cut64 20 (blockPayload b.payload)) = none →
            link u n = { k with rxSeq := (k.rxSeq + 1) % 1024, nak := false, told := (link u n).told, rxq := (cut64 20 (blockPayload b.payload)).dropWhile fun f => f.all (· == 0) }) ∧
          (typ ≠ 1 → seq ≠ k.rxSeq → link u n = { k with nak := true, told := (link u n).told })) ∧
        (good → typ = 1 → headNak b.head = false → k.held ≠ [] → d < 512 → d < k.held.length → (link u n).held = k.held.drop (d + 1) ∧ fg u F.PORT_REPLAY_RUN n = 0 ∧
          ∀ x, k.held[d]? = some x → fg u F.PORT_RTT_RTT_NS n = (mer s - x.2.2) % 2 ^ 32) ∧
        (good → typ = 1 → headNak b.head = true → k.held ≠ [] → 512 ≤ d → (fg s F.PORT_REPLAY_RUN n = 8 → RetrainNow s u n) ∧
          (fg s F.PORT_REPLAY_RUN n < 8 → fg u F.PORT_REPLAY_RUN n = fg s F.PORT_REPLAY_RUN n + 1 ∧ fg u F.PORT_REPLAY_REPLAYS n = min (fg s F.PORT_REPLAY_REPLAYS n + 1) (2 ^ 32 - 1) ∧
            u.outs = s.outs ++ Replayed k n)))) ∧
    (st = 6 → k.held ≠ [] →
      ∃ u, LinkEnds (.replayTimeout n) s u ∧ u.clk.cyc = max s.clk.cyc (cycleAt s (k.ackAt + max 500 (fg s F.PORT_LINK_GLB_REPLAY_TIMEOUT_NS))) ∧ (fg s F.PORT_REPLAY_RUN n = 8 → RetrainNow s u n) ∧
        (fg s F.PORT_REPLAY_RUN n < 8 → fg u F.PORT_REPLAY_RUN n = fg s F.PORT_REPLAY_RUN n + 1 ∧ fg u F.PORT_REPLAY_TIMEOUTS n = min (fg s F.PORT_REPLAY_TIMEOUTS n + 1) 255 ∧
          u.outs = s.outs ++ Replayed k n)) ∧
    (let t := fg s F.PORT_LINK_GLB_LANE_RETRY_S
     roundsRun s n = true → k.round = none → t ≠ 0 → portEnabled s n = true → fg s F.CLK_REF_STATUS_FABRIC_LOST = 0 ∨ fg s F.PORT_LINK_STATUS_HELD_REASON n ≠ 4 →
      ∃ u, exec (.backgroundRound n) s = .next (settled u) ∧ (link u n).round = some (decide (st = 6)) ∧ u.clk.cyc = max s.clk.cyc (cycleAt s (k.count + t * 1000000000)) ∧ (st = 6 → u.regs = s.regs) ∧
        (st = 8 → n ∉ s.om.dead → portState u n = 1)) ∧
    (∀ (errs : List Nat) (partner : BitVec 8) (four : Bool), k.round = some four → k.ctl = [] → st = 6 ∨ (four = false ∧ st = 8) →
      ∃ u, exec (.backgroundRoundEnd n errs partner) s = .next (settled u) ∧ LinkOnly s u ∧ (link u n).round = none ∧ (link u n).count = mer s ∧ rd u .portLaneTime n = BitVec.ofNat 64 (mer s) ∧
        (four = true →
          let map := fg s F.PORT_LINK_STATUS_LANE_MAP n
          let pass := lanesPass k.disable (255 - map) errs 10000
          let g := Nat.lor map (Nat.land pass partner.toNat)
          let b := boundaryFrom s (mer s + 100000)
          fg u F.PORT_LANE_TEST_TESTED n = 255 - map ∧ fg u F.PORT_LANE_TEST_PASSED n = pass ∧ fg u F.PORT_LINK_STATUS_GOOD n = g ∧
            (link u n).proposal = (if g = 255 then some (b, false) else k.proposal) ∧ (g = 255 → ControlSent s u n 1 b)) ∧
        (four = false → u.outs = s.outs ∧ fg u F.PORT_LANE_TEST_TESTED n = k.det % 256 ∧ fg u F.PORT_LANE_TEST_PASSED n = k.passed % 256)) ∧
    (∀ b, k.proposal = some (b, false) →
      (mer s + 10000 < b → ∃ u, exec (.widthProposalAck n) s = .next (settled u) ∧ u = { s with links := u.links } ∧ link u n = { k with proposal := some (b, true) }) ∧
      (∃ u, exec (.widthProposalLapse n) s = .next (settled u) ∧ u.regs = s.regs ∧ link u n = { k with proposal := none } ∧ u.clk.cyc = max s.clk.cyc (cycleAt s (b - 10000)))) ∧
    (∀ (lock : Bool) (lane : Nat), st = 10 → k.txq = [] → k.ctl = [] → lane < 8 →
      ∃ u, exec (.pauseDone n lock lane) s = .next (settled u) ∧ portState u n = 6 ∧
        (lock = true → fg u F.PORT_LINK_STATUS_WIDTH n = 8 ∧ fg u F.PORT_LINK_STATUS_LANE_MAP n = 255 ∧ fg u F.PORT_EVENTS_WIDTH_UP n = min (fg s F.PORT_EVENTS_WIDTH_UP n + 1) 65535) ∧
        (lock = false → fg u F.PORT_LINK_STATUS_LANE_MAP n = k.oldMap % 256 ∧ laneIn (fg u F.PORT_LINK_STATUS_GOOD n) lane = false)))

/-- A packet that breaks a header rule, is for no partition, or is too old is dropped and counted. A read is answered with its lines, a write is done once and remembered, and a duplicate has its answer sent again; a fenced partition answers PEER_RESET. Responses end their operation. A request that times out is sent again on another plane, or after its retries ends
with the planes it used excluded; exclusions and remembered operations expire. Heralds are kept, end sessions and, for a reset, the operations to the ID. Beacons give offset and delay, and the median offset slews time by at most 100 ppm or steps it while admission is off. A device ID is taken while its partition is held, and an enabled table starts its descriptors. -/
def Obligations.TransportPacketsAreServed : Prop :=
  (∀ (s : State) (n : Nat) (pk : Packet) (auth : Bool) (e : Instr), n < 32 → portState s n = 6 → inDeviceReset s = false → fg s F.PORT_SAMPLE_CTL_EN ≠ 1 → s.memc.repairs = [] →
    (e = .rdReqReceive n pk auth ∧ pk.op = 1) ∨ (e = .rdRespReceive n pk auth ∧ pk.op = 2) ∨ (e = .wrReqReceive n pk auth ∧ pk.op = 3) ∨ (e = .wrCmpReceive n pk auth ∧ pk.op = 4) ∨ (e = .collDataReceive n pk auth ∧ pk.op = 8) ∨
      (e = .collAckReceive n pk auth ∧ pk.op = 9) ∨ ((e = .heraldResetReceive n pk ∨ e = .heraldReturnReceive n pk) ∧ pk.op = 12) →
    (∃ u, exec e s = .next (settled u) ∧
      (pk.reserved = true → u = { s with regs := u.regs, links := u.links } ∧ Holds s u F.PORT_XPORT_STATUS_MALFORMED (min (fg s F.PORT_XPORT_STATUS_MALFORMED + 1) 65535)) ∧
      (pk.reserved = false → 1 ≤ pk.lines → pk.lines ≤ 16 → partOfId s pk.dst = none → u = { s with regs := u.regs, links := u.links } ∧ Holds s u F.PORT_XPORT_STATUS_MISROUTED (min (fg s F.PORT_XPORT_STATUS_MISROUTED + 1) 65535)) ∧
      (pk.reserved = false → 1 ≤ pk.lines → pk.lines ≤ 16 → partOfId s pk.dst ≠ none → pk.time + max 2 (fg s F.PORT_XPORT_CTL_LIFETIME_US) * 1000 < mer s → u = { s with regs := u.regs, links := u.links } ∧
        Holds s u F.PORT_XPORT_STATUS_STALE (min (fg s F.PORT_XPORT_STATUS_STALE + 1) 65535)))) ∧
  (∀ (s : State) (n p m : Nat) (pk : Packet) (auth : Bool) (dev off : Nat → Nat), Taken s n p 1 pk → LeavesOn s p pk.src [] m →
    (partFenced s p = true → ∃ u, exec (.rdReqReceive n pk auth) s = .next (settled u) ∧ u.mem = s.mem ∧ Answered s u m pk 2 stPeerReset (2 ^ pk.lines - 1) []) ∧
    (partFenced s p = false → getBits pk.target 63 44 = 0 → s.flips = [] → (∀ i, i < pk.lines → resolveLocal s (packetWho pk) p (pk.target.toNat + 64 * i) false = .mem (dev i) (off i) ∧ devHeld s (dev i) = false) →
      ∃ u, exec (.rdReqReceive n pk auth) s = .next (settled u) ∧ u.mem = s.mem ∧ Answered s u m pk 2 stOK 0 ((List.range pk.lines).flatMap fun i => bytesAt s (keyMem (dev i) (off i)) 64))) ∧
  (∀ (s : State) (n p m : Nat) (pk : Packet) (auth : Bool) (dev off : Nat → Nat), Taken s n p 3 pk → LeavesOn s p pk.src [] m → partFenced s p = false → dupOf s pk = none → (s.xp.dups.countP fun x => x.die == n / 8) < 131072 →
    getBits pk.target 63 44 = 0 → s.flips = [] → (∀ i, i < pk.lines → resolveLocal s (packetWho pk) p (pk.target.toNat + 64 * i) true = .mem (dev i) (off i) ∧ devHeld s (dev i) = false) →
      ∃ u, exec (.wrReqReceive n pk auth) s = .next (settled u) ∧ Answered s u m pk 4 stOK 0 [] ∧
        u.mem = (List.range pk.lines).foldl (fun m i => memPut m (keyMem (dev i) (off i)) ((pk.payload.drop (64 * i)).take 64)) s.mem ∧
        ∃ x, u.xp.dups = s.xp.dups ++ [x] ∧ x.src = pk.src ∧ x.epoch = pk.epoch ∧ x.op = pk.opId ∧ x.time = mer s ∧ x.die = n / 8) ∧
  (∀ (s : State) (n p m : Nat) (pk r : Packet) (auth : Bool) (x : DupEntry), Taken s n p 3 pk → partFenced s p = false → dupOf s pk = some x → x.reply = some r → r.op = 4 → LeavesOn s p r.dst [] m →
    ∃ u q, exec (.wrReqReceive n pk auth) s = .next (settled u) ∧ u.mem = s.mem ∧ u.xp.dups = s.xp.dups ∧ fg u F.PORT_XPORT_STATUS_DUPLICATES = min (fg s F.PORT_XPORT_STATUS_DUPLICATES + 1) 65535 ∧
      LeftOn s u m q ∧ q.op = r.op ∧ q.opId = r.opId ∧ q.status = r.status ∧ q.lineMask = r.lineMask) ∧
  (∀ (s : State) (n p : Nat) (pk : Packet) (auth : Bool) (o : RemOp) (e : Instr), Calm s → pk.status = stOK → s.xp.ops.find? (fun q => q.id == pk.opId) = some o → o.part = p → o.dst = pk.src → 0 < o.sends →
    (e = .rdRespReceive n pk auth ∧ Taken s n p 2 pk ∧ o.why = .engine ∧ o.write = false) ∨ (e = .wrCmpReceive n pk auth ∧ Taken s n p 4 pk ∧ o.why = .engine ∧ o.write = true) ∨
      (e = .collAckReceive n pk auth ∧ Taken s n p 9 pk ∧ ∃ q i seq r, o.why = .coll q i seq r ∧ (coll? s q i seq = none ∨ ∃ c, coll? s q i seq = some c ∧ c.wrote = false)) →
    ∃ u, exec e s = .next (settled u) ∧ u.xp.ops = s.xp.ops.filter (fun q => q.id != o.id) ∧ u.mem = s.mem ∧ u.outs = s.outs ∧
      (e = .rdRespReceive n pk auth → ∀ i b, pk.payload[i]? = some b → i < 2 ^ 44 → SMap.find u.xp.arrived (o.dst * 2 ^ 44 + o.la + i) = some b)) ∧
  (∀ (s : State) (n p m i d o : Nat) (pk : Packet) (auth : Bool) (ws : List Word) (ids : List Nat), Taken s n p 8 pk → LeavesOn s p pk.src [] m → partFenced s p = false → dupOf s pk = none →
    (s.xp.dups.countP fun x => x.die == n / 8) < 131072 → s.flips = [] → pk.lines = 1 → pk.payload.length = 64 → collByTag s p (getBits pk.w5 63 48) = some (i, ws, ids) → db ws 0 61 61 = 0 → isBoundary s pk.bound.toNat = true →
    let seq := getBits pk.w5 47 16
    let rank := getBits pk.w5 15 8
    let q := pk.target.toNat
    let sh := collShard ws
    let own := collRank ws
    let a := (dw ws 4).toNat + (seq % 2 * sh + (q - own * sh)) * 4
    rank < collG ws → q + 16 ≤ collCount ws → q % 16 = 0 → q / sh = own → (q + 15) / sh = own → collCur s p i ≤ seq → seq < collCur s p i + 2 → coll? s p i seq = none →
    a % 64 = 0 → a < 2 ^ 64 → resolve s (.engine p) p (BitVec.ofNat 64 a) true = .mem d o →
      ∃ u c, exec (.collDataReceive n pk auth) s = .next (settled u) ∧ Answered s u m pk 9 stOK 0 [] ∧ u.mem = memPut s.mem (keyMem d o) pk.payload ∧ coll? u p i seq = some c ∧ c.got = [(rank, q)] ∧ c.fired = none) ∧
  (∀ (s : State) (op m : Nat) (o : RemOp), s.xp.ops.find? (fun q => q.id == op) = some o → o.held = false →
    let s1 := advanceToNs s (o.sentAt + max 1 (fg s F.PORT_XPORT_CTL_RETRY_US) * 1000)
    sendRefusal s1 o.part o.dst = none → partOfId s o.dst = none → o.lines ≤ 16 →
    (o.sends ≤ fg s F.PORT_XPORT_CTL_RETRIES → LeavesOn s1 o.part o.dst o.planes m →
      ∃ u r, exec (.opRetryTimeout op) s = .next (settled u) ∧ u.clk = s1.clk ∧ fg u F.PORT_XPORT_ERR_RESENDS = min (fg s F.PORT_XPORT_ERR_RESENDS + 1) 65535 ∧ LeftOn s u m r ∧ r.op = o.opCode ∧ r.opId = o.id ∧ r.dst = o.dst ∧
        ∃ q ∈ u.xp.ops, q.id = o.id ∧ q.sends = o.sends + 1 ∧ q.planes = o.planes ++ [m] ∧ q.sentAt = mer s1) ∧
    (fg s F.PORT_XPORT_CTL_RETRIES < o.sends → o.why = .engine → Calm s → s.xp.excl.length + o.planes.length ≤ 1024 →
      ∃ u, exec (.opRetryTimeout op) s = .next (settled u) ∧ fg u F.PORT_XPORT_ERR_TIMEOUTS = min (fg s F.PORT_XPORT_ERR_TIMEOUTS + 1) (2 ^ 32 - 1) ∧ u.xp.ops = s.xp.ops.filter (fun q => q.id != o.id) ∧
        ∀ k ∈ o.planes, (o.dst, k, mer s1 + fg s F.PORT_XPORT_CTL_EXCLUDE_MS * 1000000) ∈ u.xp.excl)) ∧
  (∀ (s : State) (dev : BitVec 18) (plane t : Nat), s.xp.excl.find? (fun (d, k, _) => d == dev.toNat && k == plane) = some (dev.toNat, plane, t) →
    ∃ u, exec (.exclusionExpire dev plane) s = .next (settled u) ∧ RegsBut s u [regKey .portXportErr 0 0 0] ∧ u.xp.excl = s.xp.excl.filter (· != (dev.toNat, plane, t)) ∧ u.clk.cyc = max s.clk.cyc (cycleAt s t) ∧
      fg u F.PORT_XPORT_ERR_EXCLUSIONS = min 2047 u.xp.excl.length) ∧
  (∀ (s : State) (src : BitVec 18) (epoch : BitVec 8) (op : BitVec 32) (x : DupEntry),
    let is := fun (e : DupEntry) => e.src == src.toNat && e.epoch == epoch.toNat && e.op == op.toNat
    s.xp.dups.find? is = some x →
    ∃ u, exec (.duplicateEntryExpire src epoch op) s = .next (settled u) ∧ u.regs = s.regs ∧ u.xp.dups = s.xp.dups.filter (fun e => !is e) ∧
      u.clk.cyc = max s.clk.cyc (cycleAt s (x.time + ((fg s F.PORT_XPORT_CTL_RETRIES + 1) * (max 1 (fg s F.PORT_XPORT_CTL_RETRY_US) * 1000) + max 2 (fg s F.PORT_XPORT_CTL_LIFETIME_US) * 1000)))) ∧
  (∀ (s : State) (n p : Nat) (pk : Packet), Taken s n p 12 pk → Calm s → (∀ o ∈ s.xp.ops, o.why = .engine) → s.xp.colls = [] → poolsOf s pk.src = [] → s.ke.shakes = [] → SMap.wf s.regs = true →
    (pk.hkind = 1 → ∃ u, exec (.heraldResetReceive n pk) s = .next (settled u) ∧ fg u F.PORT_PART_HERALD_RESETS_RX p = min (fg s F.PORT_PART_HERALD_RESETS_RX p + 1) 65535 ∧ (∀ o ∈ u.xp.ops, o.dst ≠ pk.src) ∧
      (∃ h ∈ u.xp.heralds, h.id = pk.src) ∧ (∀ h ∈ u.xp.heralds, h.id = pk.src → h.kind = 1 ∧ h.epoch = pk.epoch) ∧ ∀ q, q < 8 → slotsWith u q pk.src [2, 3] = []) ∧
    (pk.hkind = 2 → ∃ u, exec (.heraldReturnReceive n pk) s = .next (settled u) ∧ fg u F.PORT_PART_HERALD_RETURNS_RX p = min (fg s F.PORT_PART_HERALD_RETURNS_RX p + 1) 65535 ∧ u.xp.ops = s.xp.ops ∧
      (∃ h ∈ u.xp.heralds, h.id = pk.src) ∧ (∀ h ∈ u.xp.heralds, h.id = pk.src → h.kind = 2 ∧ h.epoch = pk.epoch) ∧
      ∀ q, q < 8 → ∀ k ∈ slotsWith u q pk.src [2, 3], fg u F.SEC_SLOT_PEER_EPOCH q k = pk.epoch)) ∧
  (∀ (s : State), fg s F.PORT_SAMPLE_CTL_EN ≠ 1 →
    ((∀ n ∈ activePorts s, (link s n).txq = [] ∧ (link s n).ctl = [] ∧ (link s n).held.length < 512) →
      ∃ u, exec .beaconExchange s = .next (settled u) ∧ u = { s with sync := u.sync, outs := u.outs, links := u.links } ∧
      u.outs = s.outs ++ (activePorts s).flatMap (fun n =>
        let pk := { blankPacket s (firstPart s) 0x0D 0 with plane := n }
        let k := link s n
        [.packet n 0x0D pk, .beacon n (mer s), .block n (blockHead 0 k.nak k.txSeq ((k.rxSeq + 1023) % 1024) (flitsOf pk).flatten) (blockPayload (flitsOf pk).flatten)]) ∧
      ∀ n, beacon u n = if n ∈ activePorts s then { beacon s n with sent := some (mer s) } else beacon s n) ∧
    (∀ (n t1 : Nat) (pk : Packet), n < 32 → portState s n = 6 → inDeviceReset s = false → pk.op = 0x0E → pk.reserved = false → (partOfId s pk.dst).isSome = true → mer s ≤ pk.time + max 2 (fg s F.PORT_XPORT_CTL_LIFETIME_US) * 1000 → (beacon s n).sent = some t1 →
      ∃ u, exec (.beaconRespReceive n pk) s = .next (settled u) ∧ u = { s with sync := u.sync } ∧
        beacon u n = { sent := none, off := (((pk.w5.toNat : Int) - t1) + ((pk.bound.toNat : Int) - mer s)) / 2, delay := (((mer s : Int) - t1) - ((pk.bound.toNat : Int) - pk.w5.toNat)) / 2, at_ := some (mer s) })) ∧
  (∀ s : State,
    let us := max 1 (fg s F.PORT_TIME_CTL_BEACON_US)
    let s1 := advanceToNs s (s.sync.last + us * 1000)
    let l := qualifying s1
    ∃ u, exec .meridianDiscipline s = .next (settled u) ∧ u.mem = s.mem ∧ u.sync.last = mer s1 ∧
      (l = [] → fg u F.PORT_TIME_STATUS_PORTS_USED = 0 ∧ (fg s F.CLK_TIME_STATUS_STATE = 0 → mer u = mer s1)) ∧
      (∀ off, l[(l.length - 1) / 2]? = some off → fg s F.CLK_REF_STATUS_FABRIC_LOST ≠ 1 →
        fg u F.PORT_TIME_STATUS_OFFSET_NS = (off % 2 ^ 32).toNat ∧ fg u F.PORT_TIME_STATUS_PORTS_USED = l.length ∧ fg u F.PORT_TIME_STATUS_HOLDOVER = 0 ∧ fg u F.CLK_TIME_STATUS_STATE = 1 ∧
        (1000 < off.natAbs → fg s F.TGE_ADMIT_CTL_EN ≠ 1 → mer u = ((mer s1 : Int) + off).toNat) ∧
        (off.natAbs ≤ 1000 ∨ fg s F.TGE_ADMIT_CTL_EN = 1 → mer u = ((mer s1 : Int) + max (-((us / 10 : Nat) : Int)) (min ((us / 10 : Nat) : Int) off)).toNat))) ∧
  (∀ (s : State) (p : Nat) (v : Word), isPriv s .pf = true → p < 8 → idOpen s p = true → p ∉ s.xp.owed →
    let id := getBits v 17 0
    let wrong := getBits v 63 63 = 1 ∧ (id = 0 ∨ id = 0x3FFFF ∨ ∃ q, q < 8 ∧ q ≠ p ∧ devId s q = some id)
    ∃ u, exec (.portDevidWrite .pf p v) s = .next (settled u) ∧ RegsOnly s u [regKey .portDevid p 0 0] ∧
      (wrong → fg u F.PORT_DEVID_VALID p = 0 ∧ fg u F.PORT_DEVID_CFG_ERR p = 1) ∧ (¬ wrong → fg u F.PORT_DEVID_VALID p = getBits v 63 63 ∧ fg u F.PORT_DEVID_ID p = id)) ∧
  (∀ (s : State) (f : Func) (p : Nat) (v : Word), mayAct s f p = true → p < 8 → s.flips = [] →
    ∃ u, exec (.collTableWrite f p v) s = .next (settled u) ∧ fg u F.PORT_COLL_TABLE_BASE p = getBits v 43 6 ∧ fg u F.PORT_COLL_TABLE_ENTRIES p = getBits v 51 44 ∧ fg u F.PORT_COLL_TABLE_EN p = getBits v 63 63 ∧
      (getBits v 63 63 = 0 → RegsOnly s { u with xp := s.xp } [regKey .portCollTable p 0 0] ∧ ∀ k ∈ u.xp.collDesc, k.1 / 256 ≠ p) ∧
      (getBits v 63 63 = 1 → fg s F.PORT_COLL_TABLE_EN p = 0 → ∀ i, i ≤ getBits v 51 44 → ∃ x, SMap.find u.xp.collDesc (p * 256 + i) = some x ∧ x.next = 0))


/-! ### The Seam Engines and the Assay units -/

namespace Sys2Proof.Claims

/-- The Ledger entry of a stream lies at key a of Tier 1, in one piece, and memory is sound. -/
def Home (s : State) (p sid a : Nat) : Prop :=
  localKey? s p (entryAddr s p sid) = some a ∧ entryAddr s p sid % 4096 + 128 ≤ 4096 ∧ a + 128 ≤ 2 ^ 50 ∧ s.flips = [] ∧ Memory.wf s.mem = true

/-- A die's unit serves command c next: it is not fenced, its partition's engine is enabled and its stream exists. -/
def Serves (s : State) (die : Nat) (assay : Bool) (c : SeamCmd) : Prop :=
  nextCmd s die assay = some c ∧ engineFenced s (if assay then 3 else 2) die = false ∧ fg s F.SEAM_CTL_EN c.part = 1 ∧ c.sid < streamCount s c.part

/-- Core k of a task that runs issued the command, with a tag and a completion area in its tile's store; it has waited for nothing yet, and no source frame of a move waits to be freed. -/
def IssuedBy (s : State) (c : SeamCmd) (slot : Nat) (t : Task) (k : CoreRef) (tag area : Nat) : Prop :=
  issuer s c = some (slot, t, k) ∧ t.shadow = 0 ∧ k.tile < 1152 ∧ area + 64 ≤ 2 ^ 21 ∧ c.leaves = [] ∧ c.assay = none ∧ c.sent = false ∧ s.seam.late = [] ∧
  ∃ key ep pc, c.origin = .task key slot ep tag pc area

/-- The command is over: it has left the queue, its core no longer counts its tag, and memory is that of before with the completion area written. -/
def Over (s u : State) (c : SeamCmd) (k : CoreRef) (tag area : Nat) (mem : List Host.Cell) (ws : List Word) : Prop :=
  u.seam.queue = s.seam.queue.erase c ∧ (coreAt u k).cmds = (coreAt s k).cmds.erase tag ∧ u.mem = memPut mem (keyTile k.tile area) (bytesOfWords ws)

end Sys2Proof.Claims

/-- OPEN makes the entry of a FREE stream from its block; PARK, RESUME and CLOSE set the state where it is another, RESUME queueing every frame outside Tier 1; RESTORE and RESYNC start their work; QUERY (CONTROL) writes the Ledger entry to the tile. A FETCH beyond LENGTH delivers zeros and one of a written seam its bytes; an APPEND of a new step updates LENGTH, step and groups;
an EXACT Assay QUERY reports its candidates and counts, and one of a FREE stream completes with NOT_OPEN. Each that ends writes its completion area with OK and leaves the queue. -/
def Obligations.SeamAndAssayCommandsAreServed : Prop :=
  ∀ (s : State) (die : Nat) (c : SeamCmd) (slot : Nat) (t : Task) (k : CoreRef) (tag area a : Nat), IssuedBy s c slot t k tag area → Home s c.part c.sid a →
    let p := c.part
    let b := c.block
    let e := entryRaw s p c.sid
    let base := (tile s k.tile).base
    (Serves s die false c → c.kind = 2 →
      (c.op = 1 → eState e = 0 →
        let n := openEntry s c e
        openRest (dw b 1) = false → getBits (dw b 1) 55 54 < 2 → eF n ≤ 65536 → eSketch n ≤ poolUnit s p .sketch → eCmode n = 0 →
        ∃ u, exec (.controlOpen die) s = .next (settled u) ∧ Over s u c k tag area (memPut s.mem a (bytesOfWords n)) (doneWords 0 tag 0 0 0 0) ∧
          eState n = 1 ∧ eGen n = (eGen e + 1) % 65536 ∧ dw n 7 = BitVec.ofNat 64 (mer s) ∧ dw n 8 = BitVec.ofNat 64 (mer s) ∧ dw n 10 = dw b 2 ∧ eLength n = 0 ∧ eGroups n = getBits (dw b 1) 47 40 + 1 ∧
          eget n 2 61 53 = eGroups n) ∧
      (c.op = 2 → eState e = 1 ∨ eState e = 2 → resyncing s p c.sid = false → eCmode e = 0 →
        ∃ u, exec (.controlPark die) s = .next (settled u) ∧
          Over s u c k tag area (if eState e = 1 then memPut s.mem a (bytesOfWords (used s (eset e 0 63 61 2))) else s.mem) (doneWords 0 tag 0 0 0 (eLength e)) ∧
          ∀ x ∈ u.seam.promo, ¬ (x.1 = p ∧ x.2.1 = c.sid)) ∧
      (c.op = 3 → eState e = 1 ∨ eState e = 2 → eCmode e = 0 →
        ∃ u, exec (.controlResume die) s = .next (settled u) ∧
          Over s u c k tag area (if eState e = 2 then memPut s.mem a (bytesOfWords (used s (eset e 0 63 61 1))) else s.mem) (doneWords 0 tag 0 0 0 (eLength e)) ∧
          ∀ x ∈ liveLeaves s p e, frameState s p c.sid (leafNo x.1 x.2.1) (lfState (mapRaw s p x.2.2).1) ∈ [2, 3, 4] → (p, c.sid, leafNo x.1 x.2.1) ∈ u.seam.promo) ∧
      (c.op = 4 → eState e ≠ 0 → eState e ≠ 3 → resyncing s p c.sid = false → (∀ j ∈ s.seam.jobs, ¬ (j.part = p ∧ j.sid = c.sid)) →
        ∃ u, exec (.controlClose die) s = .next (settled u) ∧ Over s u c k tag area (memPut s.mem a (bytesOfWords (used s (eset e 0 63 61 3)))) (doneWords 0 tag 0 0 0 (eLength e))) ∧
      (c.op = 5 → eState e = 0 →
        ∃ u, exec (.controlRestore die) s = .next (settled u) ∧ u.seam.queue = s.seam.queue.erase c ∧ u.seam.jobs = s.seam.jobs ++ [{ part := p, sid := c.sid, cmd := c, restore := true, trail := 0, lapse := 0 }] ∧
          u.mem = memPut s.mem a (bytesOfWords (used s (eset (eset e 0 63 61 4) 0 15 0 (eGen e + 1)))) ∧ u.regs = s.regs) ∧
      (c.op = 6 → eState e = 1 ∨ eState e = 2 → eCmode e ≠ 0 → liveLeaves s p e = [] → resyncing s p c.sid = false →
        ∃ u, exec (.controlResync die) s = .next (settled u) ∧ u.seam.queue = s.seam.queue.erase c ∧ ∃ j ∈ u.seam.jobs, j.part = p ∧ j.sid = c.sid ∧ j.cmd = c ∧ j.restore = false) ∧
      (c.op = 7 →
        ∃ u, exec (.controlQuery die) s = .next (settled u) ∧ Over s u c k tag area (memPut s.mem (keyTile k.tile (base + db b 1 20 0)) (bytesOfWords e)) (doneWords 0 tag 0 128 0 (eLength e)))) ∧
    (Serves s die false c → c.kind = 0 → eState e = 1 ∨ eState e = 2 → fetchInvalid s k e b = false → db b 0 63 62 = 0 →
      let first := db b 1 31 16
      let n := db b 1 12 0
      let dst := base + db b 2 20 0
      (eSeams e ≤ first → dst + n * seamBytes e b ≤ 2 ^ 21 →
        ∃ u, exec (.seamFetch die) s = .next (settled u) ∧
          Over s u c k tag area (memPut (memPut s.mem (keyTile k.tile dst) (List.replicate (n * seamBytes e b) 0)) a (bytesOfWords (used s e))) (doneWords 0 tag n (n * seamBytes e b) n (eLength e))) ∧
      (∀ (w : Word × Word) (runs : List (List Byte × List Byte)) (s1 s2 s3 : State), first < eSeams e → n = 1 → loadEntry s p c.sid (cmdCtx s c) = (some e, s1) →
        walk s1 p c.sid e (db b 0 59 52) first (cmdCtx s1 c) = (some w, s2) → lfState w.1 ≠ 0 → lfState w.1 ≠ 6 →
        readRuns s2 p e (lfFrame w.1) (lfTokens w.1) (cmdCtx s2 c) (fetchRuns e b) = (.data runs, s3) →
        let out := deliverSeam e b runs
        area + 64 ≤ dst ∨ dst + out.length ≤ area → dst + out.length ≤ 2 ^ 21 →
        ∃ u, exec (.seamFetch die) s = .next (settled u) ∧ u.seam.queue = s.seam.queue.erase c ∧ (coreAt u k).cmds = (coreAt s k).cmds.erase tag ∧ bytesAt u (keyTile k.tile dst) out.length = out ∧
          bytesAt u (keyTile k.tile area) 64 = bytesOfWords (doneWords 0 tag 1 out.length 0 (eLength e)))) ∧
    (Serves s die false c → c.kind = 1 → eState e = 1 → eCmode e = 0 → db b 0 59 52 < eGroups e →
      let step := db b 1 63 32
      let n := db b 1 28 20
      let pos := db b 1 19 0
      let len := n * (2 * eG e * eH e * eD e * inBytes (db b 0 61 60))
      outside s k.tile (db b 2 20 0) len = false → appendDecision e b = 0 → eget e 3 63 32 < step →
      ∀ (s1 s2 s3 : State) (src : List Byte) (xs : List SeamPart) (e2 : List Word), loadEntry s p c.sid (cmdCtx s c) = (some e, s1) → loadStore s1 slot k (base + db b 2 20 0) len = (src, [], s1) →
        (appendSeams pos n).foldl (fun (acc : Option AppendStop × State) x => match acc.1 with | some _ => acc | none => appendReads acc.2 c e false x.1) (none, s1) = (none, s2) →
        (appendSeams pos n).foldl (fun (acc : Option (List SeamPart × List Word × State)) x => acc.bind fun q => (reserveSeam q.2.2 p c.sid q.2.1 (db b 0 59 52) x.1 x.2.1 x.2.2).map fun r => (q.1 ++ [r.1], r.2.1, r.2.2))
          (some ([], e, s2)) = some (xs, e2, s3) →
        let e' := appendEntry (used s3 e2) b
        ∃ u, exec (.seamAppend die) s = .next (settled u) ∧ u.seam.queue = s.seam.queue.erase c ∧ (coreAt u k).cmds = (coreAt s k).cmds.erase tag ∧ bytesAt u a 128 = bytesOfWords e' ∧
          eLength e' = pos + n ∧ eget e' 3 63 32 = step ∧ eget e' 2 61 53 = 1 ∧ bytesAt u (keyTile k.tile area) 64 = bytesOfWords (doneWords 0 tag n (n * (eF e / 16)) 0 (pos + n))) ∧
    (Serves s die true c → c.kind = 3 → eState e = 0 → fg s F.ASSAY_CTL_AUDIT_EVERY p = 0 → p < 8 →
      ∃ u, exec (.assayQuery die) s = .next (settled u) ∧ fg u F.ASSAY_QUERIES_COUNT p = min (fg s F.ASSAY_QUERIES_COUNT p + 1) (2 ^ 64 - 1) ∧
        Over s u c k tag area s.mem [BitVec.ofNat 64 (0x02 * 2 ^ 56 + tag % 65536 * 2 ^ 32), 0, 0, 0, BitVec.ofNat 64 (fg s F.ASSAY_CTL_FORCE_EXACT p * 4), 0, 0, BitVec.ofNat 64 (2 ^ 63)]) ∧
    (Serves s die true c → c.kind = 3 → eState e = 1 ∨ eState e = 2 → queryInvalid s k e b = false → fg s F.ASSAY_CTL_FORCE_EXACT p ≠ 1 → db b 0 63 62 = 0 → fg s F.ASSAY_CTL_AUDIT_EVERY p = 0 → p < 8 →
      ∀ (s1 s2 s3 : State) (qs : List (List Machine.Num)) (ls : List (Nat × Nat × Nat)) (lost : Nat), loadEntry s p c.sid (cmdCtx s c) = (some e, s1) → queryVectors s1 slot k e b = (some qs, s2) →
        queryLeaves s2 c e = (some (ls, lost), s3) → ls.length ≤ db b 3 48 32 →
        ∃ u, exec (.assayQuery die) s = .next (settled u) ∧ u.seam.queue = s.seam.queue.erase c ∧ (coreAt u k).cmds = (coreAt s k).cmds.erase tag ∧
          fg u F.ASSAY_QUERIES_COUNT p = min (fg s F.ASSAY_QUERIES_COUNT p + 1) (2 ^ 64 - 1) ∧ fg u F.ASSAY_SCORED_COUNT p = fg s F.ASSAY_SCORED_COUNT p ∧
          bytesAt u (keyTile k.tile area) 64 = bytesOfWords [BitVec.ofNat 64 ((if lost = 0 then 0 else 0x0C) * 2 ^ 56 + tag % 65536 * 2 ^ 32 + (qGeom e b).lists), 0,
            BitVec.ofNat 64 (ls.length * 2 ^ 32 + lost), BitVec.ofNat 64 (eLength e), 0, 0, 0, BitVec.ofNat 64 (2 ^ 63)])

/-- TAIL takes a value below the ring's size; a bad size leaves EN at 0; a fetched entry joins the queue and moves HEAD on. SEAM_CTL refuses EN for bad pools and keeps it while streams live. A lease's header is written to its first frame; a partner check is started by its registers and gives RESULT by the header. A CLOSING stream becomes FREE, and RESTORE and RESYNC end
with their command's OK. A scan starts a move, and a finished or failed move is gone. An acknowledged append settles its step; an error or the timeout lapses the stream with a record. -/
def Obligations.SeamWorkGoesOn : Prop :=
  (∀ (s : State) (f : Func) (p : Nat) (v : Word), mayAct s f p = true → p < 8 →
    (getBits v 15 0 < 2 ^ fg s F.SEAM_HQ_CTL_SIZE_LOG2 p → ∃ u, exec (.seamHqTailWrite f p v) s = .next (settled u) ∧ RegsOnly s u [regKey .seamHqTail p 0 0] ∧ Holds s u F.SEAM_HQ_TAIL_TAIL (getBits v 15 0) p) ∧
    (∃ u, exec (.seamHqCtlWrite f p v) s = .next (settled u) ∧ RegsOnly s u [regKey .seamHqCtl p 0 0] ∧ fg u F.SEAM_HQ_CTL_SIZE_LOG2 p = getBits v 4 0 ∧ fg u F.SEAM_HQ_CTL_VECTOR p = getBits v 26 16 ∧
      fg u F.SEAM_HQ_CTL_IRQ_EN p = getBits v 30 30 ∧ (getBits v 4 0 < 4 ∨ 16 < getBits v 4 0 → fg u F.SEAM_HQ_CTL_EN p = 0) ∧
      (4 ≤ getBits v 4 0 → getBits v 4 0 ≤ 16 → confidential s p = false → fg u F.SEAM_HQ_CTL_EN p = getBits v 31 31)) ∧
    (∃ u, exec (.seamCtlWrite f p v) s = .next (settled u) ∧ RegsOnly s u [regKey .seamCtl p 0 0] ∧
      (getBits v 63 63 = 1 → fg s F.SEAM_CTL_EN p = 0 → poolsBad s p = true → fg u F.SEAM_CTL_EN p = 0 ∧ fg u F.SEAM_CTL_CFG_ERR p = 1) ∧
      (getBits v 63 63 = 1 → fg s F.SEAM_CTL_EN p = 0 → poolsBad s p = false → fg u F.SEAM_CTL_EN p = 1) ∧
      (getBits v 63 63 = 0 → fg s F.SEAM_CTL_EN p = 1 → fg u F.SEAM_CTL_EN p = (if liveStreams s p = [] then 0 else 1))) ∧
    (s.flips = [] → ∃ u, exec (.seamContrailCtlWrite f p v) s = .next (settled u) ∧ p ∈ u.seam.checks ∧ fg u F.SEAM_CONTRAIL_CTL_MODE p = (if getBits v 62 61 = 3 then fg s F.SEAM_CONTRAIL_CTL_MODE p else getBits v 62 61) ∧
      fg u F.SEAM_CONTRAIL_CTL_POOL p = getBits v 57 56 ∧ fg u F.SEAM_CONTRAIL_CTL_TIMEOUT_US p = getBits v 15 0 ∧ fg u F.SEAM_CONTRAIL_CTL_OVERRIDE p = getBits v 63 63) ∧
    (∀ i, i < 4 → fg s F.SEAM_CONTRAIL_CTL_POOL p ≠ i →
      ∃ u, exec (.seamRemoteCfgWrite f p i v) s = .next (settled u) ∧ u = { s with regs := u.regs, seam := u.seam } ∧ RegsBut s u [regKey .seamRemoteCfg p i 0] ∧ fg u F.SEAM_REMOTE_CFG_EN p i = getBits v 63 63 ∧
        fg u F.SEAM_REMOTE_CFG_KIND p i = getBits v 62 62 ∧ fg u F.SEAM_REMOTE_CFG_FRAMES p i = getBits v 31 0 ∧ p * 4 + i ∉ u.seam.ended)) ∧
  (∀ (s : State) (f : Func) (p : Nat) (v : Word), isPriv s f = true → p < 8 →
    (∀ i, i < 4 → ∃ u, exec (.seamLeaseCfgWrite f p i v) s = .next (settled u) ∧ u = { s with regs := u.regs, seam := { s.seam with headers := u.seam.headers } } ∧ RegsBut s u [regKey .seamLeaseCfg p i 0] ∧
      fg u F.SEAM_LEASE_CFG_EN p i = getBits v 63 63 ∧ fg u F.SEAM_LEASE_CFG_KIND p i = getBits v 62 62 ∧ fg u F.SEAM_LEASE_CFG_HOLDER p i = getBits v 57 40 ∧ fg u F.SEAM_LEASE_CFG_FRAMES p i = getBits v 31 0 ∧
      ((p, i) ∈ u.seam.headers ↔ getBits v 63 63 = 1)) ∧
    (∃ u, exec (.assayCtlWrite f p v) s = .next (settled u) ∧ u = { s with regs := u.regs, seam := { s.seam with audits := u.seam.audits, queue := u.seam.queue } } ∧
      u.seam.queue.length = s.seam.queue.length ∧ (∀ c ∈ u.seam.queue, c.part = p → c.kind = 3 → c.assay.isSome = true) ∧ RegsBut s u [regKey .assayCtl p 0 0] ∧
      fg u F.ASSAY_CTL_AUDIT_EVERY p = getBits v 31 16 ∧ fg u F.ASSAY_CTL_FORCE_EXACT p = getBits v 0 0 ∧ SMap.get 0 u.seam.audits p = 0)) ∧
  (∀ (s s1 : State) (p : Nat) (bs : List Byte), p < 8 → fg s F.SEAM_HQ_CTL_EN p = 1 → partFenced s p = false → awake s = true → fg s F.SEAM_HQ_HEAD_HEAD p ≠ fg s F.SEAM_HQ_TAIL_TAIL p →
    engineRead s p (hqEntry s p (fg s F.SEAM_HQ_HEAD_HEAD p)) 64 = (.data bs, s1) → fg s1 F.SEAM_CTL_EN p = 1 → fg s1 F.SEAM_HQ_CTL_SIZE_LOG2 p ≤ 16 → controlHostFormat (wordsOf 8 bs) = true →
    ∃ u, exec (.seamHqEntryFetch p) s = .next (settled u) ∧ u = { s1 with regs := u.regs, seam := { s1.seam with queue := u.seam.queue } } ∧ RegsBut s1 u [regKey .seamHqHead p 0 0] ∧
      fg u F.SEAM_HQ_HEAD_HEAD p = (fg s F.SEAM_HQ_HEAD_HEAD p + 1) % 2 ^ fg s1 F.SEAM_HQ_CTL_SIZE_LOG2 p ∧
      u.seam.queue = s1.seam.queue ++ [{ part := p, kind := 2, block := wordsOf 8 bs, origin := .host (fg s F.SEAM_HQ_HEAD_HEAD p) false, assay := none, leaves := [], sent := false }]) ∧
  (∀ (s : State) (p i a : Nat), (p, i) ∈ s.seam.headers → s.flips = [] → localKey? s p (fg s F.SEAM_LEASE_BASE_BASE p i * 65536) = some a →
    ∃ u, exec (.leaseHeaderWrite p i) s = .next (settled u) ∧ u = { s with mem := u.mem, seam := { s.seam with headers := u.seam.headers } } ∧ (p, i) ∉ u.seam.headers ∧
      u.mem = memPut s.mem a (bytesOfWords [BitVec.ofNat 64 (fg s F.SEAM_LEASE_CFG_KIND p i * 2 ^ 62 + (devId s p).getD 0 * 2 ^ 44 + fg s F.SEAM_LEASE_CFG_HOLDER p i * 2 ^ 26 + partEpoch s p), rd s .seamDomain,
        BitVec.ofNat 64 (fg s F.SEAM_LEASE_CFG_FRAMES p i), 0, 0, 0, 0, 0])) ∧
  (∀ (s : State) (p : Nat) (hdr : LeaseHdr), p < 8 → p ∈ s.seam.checks → fg s F.SEAM_CONTRAIL_CTL_RESULT p ≠ 1 →
    (remoteOn s p (trailPool s p) = false → ∃ u, exec (.partnerCheckComplete p hdr) s = .next (settled u) ∧ p ∉ u.seam.checks ∧ RegsBut s u [regKey .seamContrailCtl p 0 0] ∧ Holds s u F.SEAM_CONTRAIL_CTL_RESULT 6 p) ∧
    (∀ (bs : List Byte) (s1 : State), remoteOn s p (trailPool s p) = true → s.flips = [] →
      frameRead { s with seam := { s.seam with checks := s.seam.checks.filter (· != p) } } p (leaseGa s p) 64 id = (.data bs, s1) →
      let ws := wordsOf 8 bs
      let own := some (db ws 0 43 26) = devId s p
      let small := db ws 2 31 0 < 1 + mirrorM s p + ceilDiv (db ws 2 31 0) 524288 + 16
      let d := rd s .seamDomain
      let shared := ∃ i, i < 4 ∧ db ws 1 (16 * i + 15) (16 * i) ≠ 0 ∧ db ws 1 (16 * i + 15) (16 * i) = getBits d (16 * i + 15) (16 * i)
      let forced := fg s F.SEAM_CONTRAIL_CTL_OVERRIDE p = 1
      ∃ u, exec (.partnerCheckComplete p hdr) s = .next (settled u) ∧ p ∉ u.seam.checks ∧
        (db ws 0 63 62 ≠ 1 → fg u F.SEAM_CONTRAIL_CTL_RESULT p = 3) ∧ (db ws 0 63 62 = 1 → ¬ own → fg u F.SEAM_CONTRAIL_CTL_RESULT p = 4) ∧
        (db ws 0 63 62 = 1 → own → small → fg u F.SEAM_CONTRAIL_CTL_RESULT p = 7) ∧ (db ws 0 63 62 = 1 → own → ¬ small → shared → ¬ forced → fg u F.SEAM_CONTRAIL_CTL_RESULT p = 5) ∧
        (db ws 0 63 62 = 1 → own → ¬ small → ¬ shared ∨ forced → fg u F.SEAM_CONTRAIL_CTL_RESULT p = 1))) ∧
  (∀ (s : State) (p sid a : Nat), Home s p sid a → fg s F.SEAM_CTL_EN p = 1 → sid < streamCount s p → eState (entryRaw s p sid) = 3 → eCmode (entryRaw s p sid) = 0 → (p, sid) ∉ s.seam.orphans →
    (∀ t ∈ s.seam.trails, t.part = p → t.sid = sid → t.step ≠ 0 → t.acked = true) →
    ∃ u e', exec (.streamFreeComplete p sid) s = .next (settled u) ∧ bytesAt u a 128 = bytesOfWords e' ∧ eState e' = 0 ∧ dw e' 1 = 0 ∧ dw e' 5 = 0 ∧ dw e' 6 = 0 ∧ dw e' 9 = 0) ∧
  (∀ (s : State) (p sid a slot tag area : Nat) (t : Task) (k : CoreRef) (j : SeamJob), j ∈ s.seam.jobs → IssuedBy s j.cmd slot t k tag area → Home s p sid a →
    (s.seam.jobs.find? (fun x => x.part == p && x.sid == sid && !x.restore) = some j → j.lapse = 0 → s.seam.trails = [] →
      let e' := eset (eset (eset (entryRaw s p sid) 0 58 56 1) 4 63 32 0) 4 31 0 0
      ∃ u, exec (.resyncComplete p sid true) s = .next (settled u) ∧ (∀ x ∈ u.seam.jobs, ¬ (x.part = p ∧ x.sid = sid ∧ x.restore = false)) ∧ (coreAt u k).cmds = (coreAt s k).cmds.erase tag ∧
        bytesAt u a 128 = bytesOfWords e' ∧ bytesAt u (keyTile k.tile area) 64 = bytesOfWords (doneWords 0 tag 0 0 0 (eLength (entryRaw s p sid)))) ∧
    (∀ (m : Mirror) (e1 : List Word) (s1 s2 : State), s.seam.jobs.find? (fun x => x.part == p && x.sid == sid && x.restore) = some j → leaseFrames s p ≠ 0 → readMirror s p sid (cmdCtx s j.cmd) = (.ok m, s1) →
      eState m.entry = 1 ∨ eState m.entry = 2 → restoreInto s1 p sid (entryRaw s p sid) m (bitOf (dw j.cmd.block 1) 2) (getBits (dw j.cmd.block 1) 1 0 == 1) = some (e1, s2) →
      ∃ u, exec (.restoreComplete p sid true) s = .next (settled u) ∧ j ∉ u.seam.jobs ∧ (coreAt u k).cmds = (coreAt s k).cmds.erase tag ∧
        bytesAt u (keyTile k.tile area) 64 = bytesOfWords (doneWords 0 tag 0 0 0 (mirrorLen m)))) ∧
  (∀ (s : State) (die : Nat), SMap.find s.seam.scanned die ≠ some (rd s .tgeTickNow).toNat →
    ∃ u, exec (.tieringScan die) s = .next (settled u) ∧ SMap.find u.seam.scanned die = some (rd s .tgeTickNow).toNat ∧
      (scanList s die = [] → u = { s with seam := u.seam } ∧ u.seam.moves = s.seam.moves) ∧
      (∀ p sid g k a q dst, scanList s die = [(p, sid, g, k, a)] → (∀ x ∈ s.seam.scanned, x.2 ≠ (rd s .tgeTickNow).toNat) → tierAction s p sid (entryRaw s p sid) g k a = some (q, dst) → freeUnits s p q ≠ [] →
        eF (entryRaw s p sid) ≤ fg s F.SEAM_TIER_CTL2_MOVE_MB_S p * period s →
        ∃ m, u.seam.moves = s.seam.moves ++ [m] ∧ m.part = p ∧ m.sid = sid ∧ m.leaf = leafNo g k ∧ m.dst = dst ∧ m.sent = false)) ∧
  (∀ (s : State) (p sid leaf : Nat) (m : Move), move? s p sid leaf = some m → s.flips = [] →
    (∃ u, exec (.frameMoveComplete p sid leaf false) s = .next (settled u) ∧ u.seam.moves = s.seam.moves.filter (· != m) ∧ (m.dst ≠ 3 → u.regs = s.regs)) ∧
    (∀ (a : Nat) (bs : List Byte) (s1 : State), leafAddr s p (entryRaw s p sid) (leaf / 65536) (leaf % 65536) = some a → m.bad = false → m.sent = false →
      frameRead s p (lfFrame (mapRaw s p a).1) (eF (entryRaw s p sid)) id = (.data bs, s1) → getBits (BitVec.ofNat 64 m.frame) 63 62 = 0 →
      ∃ u, exec (.frameMoveComplete p sid leaf true) s = .next (settled u) ∧ u.seam.moves = s.seam.moves.filter (· != m) ∧ (m.dst = 1 → (p, sid, leaf) ∉ u.seam.promo))) ∧
  (∀ (s : State) (p id : Nat) (t : Trail), trail? s id = some t → t.part = p → t.acked = false → p < 8 →
    (∀ a, Home s p t.sid a → s.seam.trails = [t] → t.step ≠ 0 → trailBusy s t = false → t.later = [] →
      let e := entryRaw s p t.sid
      ∃ u, exec (.contrailAck p id true) s = .next (settled u) ∧ u.seam.trails = [] ∧ u.mem = memPut s.mem a (bytesOfWords (eset (eset (eset e 3 31 0 (if t.step < eget e 3 63 32 ∨ eget e 2 61 53 = eGroups e then max (eget e 3 31 0) t.step else eget e 3 31 0)) 4 63 32 0) 4 31 0 0)) ∧ u.regs = s.regs) ∧
    (eCstate (entryRaw s p t.sid) = 1 ∨ eCstate (entryRaw s p t.sid) = 3 → s.flips = [] →
      (∃ u r, exec (.contrailAck p id false) s = .next (settled u) ∧ fg u F.SEAM_CONTRAIL_STATUS_LAPSED p = min (fg s F.SEAM_CONTRAIL_STATUS_LAPSED p + 1) (2 ^ 20 - 1) ∧ u.recs = s.recs ++ [r] ∧ r.cls = 0x0B ∧ r.cause = 2 ∧
        r.stream = some t.sid ∧ ∀ x ∈ u.seam.trails, ¬ (x.part = p ∧ x.sid = t.sid)) ∧
      (t.step ≠ 0 → trailBusy s t = true ∨ t.later ≠ [] →
        ∃ u r, exec (.contrailTimeout p id) s = .next (settled u) ∧ u.clk.cyc = max s.clk.cyc (cycleAt s (t.born + max 1 (fg s F.SEAM_CONTRAIL_CTL_TIMEOUT_US p) * 1000)) ∧
          fg u F.SEAM_CONTRAIL_STATUS_LAPSED p = min (fg s F.SEAM_CONTRAIL_STATUS_LAPSED p + 1) (2 ^ 20 - 1) ∧ u.recs = s.recs ++ [r] ∧ r.cls = 0x0B ∧ r.cause = 1 ∧ ∀ x ∈ u.seam.trails, ¬ (x.part = p ∧ x.sid = t.sid))))


/-! ### Result integrity and the logs -/

/-- A GO shows BUSY_ERR while a run is in progress; otherwise its block and descriptor are read, a block that breaks its layout ends the run with RESULT 6, and a good one makes a READY task of the run. A difference is recorded and ends the run with both tiles; a comparison gives MATCH or MISMATCH and counts. A tile falls due at its time; a passed test leaves its store zero,
a failed one fences it with a record. EN off leaves nothing due. The oldest record takes the module log's next SEQ, and is dropped while the log is off; a written HEAD and SIZE take effect. -/
def Obligations.IntegrityAndLogsWork : Prop :=
  (∀ (s : State) (f : Func) (p : Nat) (v : Word), isPriv s f = true → p < 8 → getBits v 0 0 = 1 →
    (SMap.find s.shadows p ≠ none → ∃ u, exec (.shadowGo f p v) s = .next (settled u) ∧ RegsOnly s u [regKey .guardShadowStatus p 0 0] ∧ Holds s u F.GUARD_SHADOW_STATUS_BUSY_ERR 1 p) ∧
    (SMap.find s.shadows p = none → partFenced s p = false → SMap.wf s.shadows = true →
      let s0 := fs { s with shadows := SMap.set s.shadows p { gseq := none, block := [], ended := none } } F.GUARD_SHADOW_STATUS_STATE 1 p
      ∀ (bs : List Byte) (s1 : State), engineRead s0 p (rd s .guardShadowAddr p) 256 = (.data bs, s1) →
        let ws := wordsOf 32 bs
        let s2 := { s1 with shadows := SMap.set s1.shadows p { gseq := none, block := ws, ended := none } }
        (blockOk s2 p ws = false → s.flips = [] →
          ∃ u, exec (.shadowGo f p v) s = .next (settled u) ∧ fg u F.GUARD_SHADOW_STATUS_RESULT p = 6 ∧ fg u F.GUARD_SHADOW_STATUS_STATE p = 4 ∧ SMap.find u.shadows p = none) ∧
        (∀ (ds : List Byte) (s3 : State), blockOk s2 p ws = true → engineRead s2 p (dw ws 1) 128 = (.data ds, s3) → confOn s3 p = false → shadowDescOk (wordsOf 16 ds) = true →
          let n := { Node.fresh (wordsOf 16 ds) with twice := true, age := mer s3 }
          unsatisfiable s3 p n = false → tooLong s3 n = false →
          ∃ u g m, exec (.shadowGo f p v) s = .next (settled u) ∧ u.tge.graphs = s3.tge.graphs ++ [g] ∧ g.shadow = true ∧ g.seq = s3.tge.nextSeq ∧ g.nodes = [m] ∧ m.words = wordsOf 16 ds ∧ m.twice = true ∧
            (m.state = .ready ∨ m.state = .eligible) ∧ SMap.find u.shadows p = some { gseq := some s3.tge.nextSeq, block := ws, ended := none }))) ∧
  (∀ (s : State) (p a b slot : Nat) (cycle : BitVec 32) (t : Task) (x : ShadowRun), s.tasks.find? (fun (_, t) => t.part == p && t.shadow != 0 && t.started && isPair t a b) = some (slot, t) → task? s slot = some t →
    SMap.find s.shadows p = some x →
    ∃ u r more, exec (.shadowDiverge p a b cycle) s = .next (settled u) ∧ u.recs = s.recs ++ r :: more ∧ r.cls = 7 ∧ r.aux = BitVec.ofNat 64 b ∧ r.aux2 = cycle.setWidth 64 ∧
      SMap.find u.shadows p = some { x with ended := some (2, a, b, cycle.toNat) } ∧ ∀ m, node? u t.gseq t.node = some m → m.state = .faulted) ∧
  (∀ (s s1 : State) (p q : Nat) (x : ShadowRun) (n : Node) (ds : List RangeDiff), p < 8 → SMap.wf s.shadows = true → SMap.find s.shadows p = some x → x.gseq = some q → node? s q 0 = some n → n.state = .done → s.flips = [] →
    (List.range 4).foldl (fun (acc : List (Option RangeDiff) × State) r => (acc.1 ++ [(compareRange acc.2 p x.block r).1], (compareRange acc.2 p x.block r).2)) ([], s) = (ds.map some, s1) →
    let bad := ∃ d ∈ ds, d.bad ≠ 0
    ∃ u, exec (.shadowCompareComplete p) s = .next (settled u) ∧ fg u F.GUARD_SHADOW_STATUS_STATE p = 4 ∧ SMap.find u.shadows p = none ∧ (bad → fg u F.GUARD_SHADOW_STATUS_RESULT p = 1) ∧ (¬ bad → fg u F.GUARD_SHADOW_STATUS_RESULT p = 0) ∧
      fg u F.GUARD_INTEGRITY_COUNT_SHADOW_RUNS p = min (fg s F.GUARD_INTEGRITY_COUNT_SHADOW_RUNS p + 1) 65535) ∧
  (∀ (s : State) (die : Nat), die < 4 →
    (fg s F.GUARD_PROSPECT_CTL_EN = 1 → (patrol s die).due = none →
      ∃ u, exec (.prospectDue die) s = .next (settled u) ∧ u = { s with clk := u.clk, patrols := u.patrols } ∧ (patrol u die).due = some (dueTime s die).toNat ∧ u.clk.cyc = max s.clk.cyc (cycleAt s (dueTime s die).toNat)) ∧
    (∀ (n b : Nat) (off : BitVec 21), (patrol s die).test = some (n, b) → n < 1152 →
      (∀ mem, ∃ u, exec (.prospectTestEnd die true mem off) s = .next (settled u) ∧ u.clk.cyc = max s.clk.cyc (cycleAt s (b + 40000000)) ∧ (patrol u die).test = none ∧ (patrol u die).back = (patrol s die).back ++ [(n, b + 40200000)] ∧
        (∀ a, a < 0x180000 → memByte u.mem (keyTile n a) = 0) ∧ u.recs = s.recs ∧ fg u F.GUARD_PROSPECT_DIE_TESTING die = 0 ∧ fg u F.GUARD_PROSPECT_DIE_CURRENT die = 0x7FF) ∧
      (∀ mem : Bool, ∃ u r more, exec (.prospectTestEnd die false mem off) s = .next (settled u) ∧ u.recs = s.recs ++ r :: more ∧ r.cls = 6 ∧ r.cause = (if mem then 2 else 1) ∧ r.unit = 1 ∧ r.unitIx = n ∧ (tile u n).fenced = true ∧
        fg u F.GUARD_PROSPECT_DIE_FAILS die = min (fg s F.GUARD_PROSPECT_DIE_FAILS die + 1) 65535))) ∧
  (∀ (s : State) (f : Func) (v : Word), isPriv s f = true →
    (let n := getBits v 10 0
     let x := patrol s (tileDie n)
     (n < 1152 → x.noms.length < 4 → ∃ u, exec (.prospectNominate f v) s = .next (settled u) ∧ u = { s with regs := u.regs, patrols := u.patrols } ∧ patrol u (tileDie n) = { x with noms := x.noms ++ [(n, mer s)] } ∧
        fg u F.GUARD_PROSPECT_DIE_QUEUED (tileDie n) = x.noms.length + 1) ∧
     (1152 ≤ n ∨ 4 ≤ x.noms.length → exec (.prospectNominate f v) s = .next (settled s))) ∧
    (∃ u, exec (.prospectCtlWrite f v) s = .next (settled u) ∧ u = { s with regs := u.regs, patrols := u.patrols } ∧
      (fg s F.GUARD_PROSPECT_CTL_LOCK ≠ 1 → fg u F.GUARD_PROSPECT_CTL_EN = getBits v 16 16 ∧ fg u F.GUARD_PROSPECT_CTL_INTERVAL_S = getBits v 15 0) ∧
      (fg s F.GUARD_PROSPECT_CTL_LOCK ≠ 1 → fg s F.GUARD_PROSPECT_CTL_EN = 1 → getBits v 16 16 = 0 → ∀ d, d < 4 → (patrol u d).due = none ∧ fg u F.GUARD_PROSPECT_DIE_DEFERRED d = 0) ∧
      (fg s F.GUARD_PROSPECT_CTL_LOCK ≠ 1 → fg s F.GUARD_PROSPECT_CTL_EN = 0 → getBits v 16 16 = 1 → ∀ d, d < 4 → (patrol u d).due = some (mer s)))) ∧
  (∀ (s : State) (r : Rec) (rest : List Rec), s.recs = r :: rest → inDeviceReset s = false → r.part = none → r.cls < 0x15 →
    let x := logOf s 0
    ∃ u more, exec .errorRecordWrite s = .next (settled u) ∧ u.recs = rest ++ more ∧ (logOf u 0).seq = (x.seq + 1) % 2 ^ 32 ∧
      (fg s F.GUARD_LOG_CTL_EN = 0 → r.cls ≠ 0x14 → fg u F.GUARD_LOG_STATUS_DROPPED = min (fg s F.GUARD_LOG_STATUS_DROPPED + 1) 65535 ∧ u.mem = s.mem ∧ more = []) ∧
      (fg s F.GUARD_LOG_CTL_EN = 0 → r.cls = 0x14 → x.queue.length < 256 → (logOf u 0).queue = x.queue ++ [(x.seq, r)] ∧ more = []) ∧
      (fg s F.GUARD_LOG_CTL_EN = 1 → x.queue ≠ [] → droppable r = false → x.queue.length < 256 → (logOf u 0).queue = x.queue ++ [(x.seq, r)] ∧ more = []) ∧
      (fg s F.GUARD_LOG_CTL_EN = 1 → x.queue = [] → logFull s 0 = false → s.flips = [] → fg s F.GUARD_LOG_CTL_SIZE_LOG2 ≤ 16 → getBits (rd s .guardLogBase) 63 62 = 2 → (rd s .guardLogBase).toNat % 64 = 0 →
        hostUp s = true → mayMaster s 0 = true → (rd s .guardLogBase).toNat + 64 * 2 ^ 16 < 3 * 2 ^ 62 →
        let ix := fg s F.GUARD_LOG_STATUS_INDEX % 2 ^ fg s F.GUARD_LOG_CTL_SIZE_LOG2
        more = [] ∧ fg u F.GUARD_LOG_STATUS_INDEX = (ix + 1) % 2 ^ fg s F.GUARD_LOG_CTL_SIZE_LOG2 ∧
          u.mem = memPut s.mem (keyHost ((rd s .guardLogBase).toNat + 64 * ix - 2 ^ 63)) (bytesOfWords (recWords r x.seq false)))) ∧
  (∀ (s : State) (f : Func) (log : Nat) (v : Word), mayLog s f log = true → (logOf s log).queue = [] →
    let i := (logIx log).1
    let j := (logIx log).2
    (∃ u, exec (.logHeadWrite f log v) s = .next (settled u) ∧ RegsOnly s u [regKey .guardLogHead i j 0] ∧ fg u F.GUARD_LOG_HEAD_HEAD i j = getBits v 15 0) ∧
    (∃ u, exec (.logCtlWrite f log v) s = .next (settled u) ∧ RegsOnly s u [regKey .guardLogCtl i j 0] ∧ fg u F.GUARD_LOG_CTL_SIZE_LOG2 i j = getBits v 4 0 ∧
      fg u F.GUARD_LOG_CTL_EN i j = (if getBits v 4 0 < 4 ∨ 16 < getBits v 4 0 then 0 else getBits v 31 31)))


/-! ### Containment and rejoin -/

namespace Sys2Proof.Claims

/-- An uncontrolled device reset has started: step 2 of the fast path runs, the module's memory is zero, and the last record written is that of the reset. -/
def Rebooted (u : State) (cause : Nat) : Prop :=
  (∃ b, u.om.boot = some b ∧ b.cold = false ∧ b.controlled = false ∧ b.cause = cause ∧ b.next = 2) ∧ fg u F.GUARD_RESET_STATUS_BUSY = 1 ∧ fg u F.GUARD_RESET_STATUS_LEVEL = 4 ∧
  (∀ a, a < 2 ^ 62 → memByte u.mem a = 0) ∧ ∃ rs r, u.recs = rs ++ [r] ∧ r.cls = 0x14 ∧ r.cause = cause

/-- The other Overman is active, and the record of it is the one record written. -/
def TookOver (s u : State) (cause standby : Nat) : Prop :=
  fg u F.GUARD_OVERMAN_ACTIVE_DIE2 = 1 - fg s F.GUARD_OVERMAN_ACTIVE_DIE2 ∧ fg u F.GUARD_OVERMAN_STANDBY = standby ∧
  fg u F.GUARD_OVERMAN_FAILOVERS = min (fg s F.GUARD_OVERMAN_FAILOVERS + 1) (2 ^ 32 - 1) ∧ u.om.switching = false ∧ u.om.beat = mer u ∧
  ∃ r, u.recs = s.recs ++ [r] ∧ r.cls = 0x18 ∧ r.cause = cause ∧ r.unit = 0xB ∧ r.unitIx = 2 * fg u F.GUARD_OVERMAN_ACTIVE_DIE2

/-- A rejoin has ended with a result other than DONE, with its record. -/
def RejoinOver (s u : State) (p result : Nat) : Prop :=
  fg u F.GUARD_REJOIN_STATUS_STAGE p = 6 ∧ fg u F.GUARD_REJOIN_STATUS_RESULT p = result ∧ SMap.find u.om.rejoins p = none ∧ ∃ r, u.recs = s.recs ++ [r] ∧ r.cls = 0x19 ∧ r.cause = result ∧ r.part = some p

end Sys2Proof.Claims

/-- A watchdog or an accepted request fences the unit with its record; a partition reset pauses admission, fences, drains and completes, held or released; a device reset fences every partition; a power cycle leaves the module zero and in reset. A refused request shows REFUSED. What cannot finish is handed to the next level.
A failing step halts the boot. An Overman that beats takes over when asked, and one without beats is replaced by the standby, or the module resets. MODE holds a partition, GO starts stage 1 or is refused, ABORT ends a rejoin, and each stage goes on to the next or ends with its RESULT and a record. -/
def Obligations.ContainmentAndRejoinWork : Prop :=
  (∀ (s : State) (kind : BitVec 4) (ix : Nat),
    let k := kind.toNat
    let s0 := settle s s.clk.cyc
    (inDeviceReset s = false → k ≠ 1 → enginePresent s k ix = true → engineFenced s k ix = false →
      ∃ u r more, exec (.engineWatchdog kind ix) s = .next (settled u) ∧ u.recs = s0.recs ++ r :: more ∧ r.cls = 0x12 ∧ r.cause = 1 ∧ r.action = 2 ∧ r.unit = k ∧ r.unitIx = ix ∧ engineFenced u k ix = true) ∧
    (inDeviceReset s = false → k = 4 → ∃ u, exec (.engineWatchdog kind ix) s = .next (settled u) ∧ Rebooted u 2) ∧
    (engineFenced s k ix = true → k ≠ 7 ∨ portState s ix ≠ lRetrain →
      ∃ u, exec (.engineResetComplete kind ix) s = .next (settled u) ∧ u = { s with fenced := u.fenced, regs := u.regs } ∧ engineFenced u k ix = false) ∧
    (k = 7 → portState s ix = lRetrain → exec (.engineResetComplete kind ix) s = .next (settled s))) ∧
  (∀ (s : State) (f : Func) (v : Word) (c : Instr), c ∈ [.engineResetReq f v, .partitionResetReq f v, .deviceResetReq f v, .powerCycleReq f v] →
    let s0 := settle s s.clk.cyc
    let level := getBits v 63 61
    let kind := getBits v 60 57
    let ix := getBits v 56 46
    let p := getBits v 2 0
    halted s0 = false → f = .overman ∨ (f = .pf ∧ s0.d3hot.contains 0 = false) →
    (resetRefused s0 level kind ix p = true → ∃ u, exec c s = .next (settled u) ∧ RegsOnly s0 u [regKey .guardResetStatus 0 0 0] ∧ fg u F.GUARD_RESET_STATUS_REFUSED = 1) ∧
    (resetRefused s0 level kind ix p = false →
      (level = 2 → ∃ u r more, exec c s = .next (settled u) ∧ u.recs = s0.recs ++ r :: more ∧ r.cls = 0x12 ∧ r.cause = 3 ∧ r.unit = kind ∧ r.unitIx = ix ∧ engineFenced u kind ix = true) ∧
      (level = 3 → ∃ u, exec c s = .next (settled u) ∧ part u p = { part s0 p with phase := 1, hold := decide (getBits v 4 4 = 1), cause := 1, since := mer s0 } ∧
        fg u F.GUARD_RESET_STATUS_BUSY = 1 ∧ fg u F.GUARD_RESET_STATUS_LEVEL = 3) ∧
      (level = 4 → ∃ u b, exec c s = .next (settled u) ∧ u.om.boot = some b ∧ b.cold = false ∧ b.controlled = true ∧ b.cause = 1 ∧ b.next = 1 ∧ b.start = mer s0 ∧ fg u F.GUARD_RESET_STATUS_LEVEL = 4 ∧
        (∀ q, q < 8 → partFenced u q = true) ∧ (∀ t ∈ u.tasks, 8 ≤ t.2.part) ∧ ∀ g ∈ u.tge.graphs, 8 ≤ g.part) ∧
      (level = 5 → ∃ u q r, exec c s = .next (settled u) ∧ u.om.power = some q ∧ q.reset = true ∧ fg u F.GUARD_RESET_STATUS_LEVEL = 5 ∧ (∀ a, a < 2 ^ 62 → memByte u.mem a = 0) ∧
        u.recs = [r] ∧ r.cls = 0x14 ∧ r.cause = 1 ∧ r.action = 5))) ∧
  (∀ (s : State),
    (∀ (slot : Nat) (t : Task), task? s slot = some t → (node? s t.gseq t.node).map (fun n => n.state) = some .resetting →
      ∃ u, exec (.escalationTimeout (.context slot)) s = .next (settled u) ∧ ∀ n ∈ t.tiles, (tile u n).fenced = true) ∧
    (∀ k ix, engineFenced s k ix = true →
      (k = 1 → ix < 1152 → ∃ u, exec (.escalationTimeout (.engine k ix)) s = .next (settled u) ∧ (tile u ix).passFail = true ∧ engineFenced u k ix = false) ∧
      (k = 7 → ix < 32 → Empty s ix → ∃ u, LinkEnds (.escalationTimeout (.engine k ix)) s u ∧ HeldNow s u ix 3 ∧ engineFenced u k ix = false) ∧
      (k ≠ 1 → k ≠ 7 → ∃ u, exec (.escalationTimeout (.engine k ix)) s = .next (settled u) ∧ Rebooted u 2)) ∧
    (∀ p, (part s p).phase ≠ 0 → ∃ u, exec (.escalationTimeout (.partition p)) s = .next (settled u) ∧ Rebooted u 2) ∧
    (∀ b, s.om.boot = some b → b.cold = false →
      (b.autoPc = false → exec (.escalationTimeout .device) s = .next (settled { s with om := { s.om with boot := some { b with next := 0 } } })) ∧
      (b.autoPc = true → ∃ u q r, exec (.escalationTimeout .device) s = .next (settled u) ∧ u.om.power = some q ∧ q.reset = true ∧ fg u F.GUARD_RESET_STATUS_LEVEL = 5 ∧ u.recs = [r] ∧ r.cls = 0x14 ∧ r.cause = 2))) ∧
  (∀ (s : State) (p : Nat), p < 8 →
    ((part s p).phase = 1 → ∃ u, exec (.partitionFence p) s = .next (settled u) ∧ (part u p).phase = 2 ∧ (part u p).fenced = true ∧ (part u p).since = mer u ∧ (part u p).hold = (part s p).hold ∧
      (∀ t ∈ u.tasks, t.2.part ≠ p) ∧ (∀ g ∈ u.tge.graphs, g.part ≠ p) ∧ (∀ c ∈ u.xp.colls, c.part ≠ p) ∧ fg u F.SEAM_HQ_CTL_EN p = 0 ∧ fg u F.PORT_COLL_TABLE_EN p = 0) ∧
    ((part s p).phase = 2 → ∃ u, exec (.partitionDrainEnd p) s = .next (settled u) ∧ u = { s with clk := u.clk, parts := u.parts, xp := { s.xp with ops := s.xp.ops.filter fun o => o.part != p } } ∧
      part u p = { part s p with phase := 3, since := mer u } ∧ u.clk.cyc = max s.clk.cyc (cycleAt s ((part s p).since + drainNs s))) ∧
    ((part s p).phase = 3 → SMap.wf s.regs = true →
      let x := part s p
      ∃ u r more, exec (.partitionResetComplete p) s = .next (settled u) ∧ u.recs = s.recs ++ r :: more ∧ r.cls = 0x13 ∧ r.cause = x.cause ∧ r.action = 3 ∧ r.part = some p ∧
        r.aux = BitVec.ofNat 64 ((partEpoch s p + 1) % 256) ∧ part u p = (if x.hold then { Part.fresh with fenced := true } else Part.fresh) ∧ bitOf (rd u .guardResetStatus) p = x.hold ∧
        partEpoch u p = (if x.hold then partEpoch s p else (partEpoch s p + 1) % 256) ∧ (∀ g, g < 1024 → gate u p g = 0) ∧
        (fg s F.GUARD_REJOIN_CTL_MODE p = 1 → fg u F.GUARD_REJOIN_STATUS_HELD p = 1))) ∧
  (∀ (s : State) (f : Func) (v : Word), isPriv s f = true →
    ∃ u, exec (.resetRelease f v) s = .next (settled u) ∧ ∀ p, p < 8 →
      if bitOf v p = true ∧ bitOf (rd s .guardResetStatus) p = true ∧ (part s p).phase = 0 then
        part u p = Part.fresh ∧ bitOf (rd u .guardResetStatus) p = false ∧ partEpoch u p = (partEpoch s p + 1) % 256
      else part u p = part s p ∧ bitOf (rd u .guardResetStatus) p = bitOf (rd s .guardResetStatus) p ∧ partEpoch u p = partEpoch s p) ∧
  (∀ (s : State) (b : Boot), s.om.boot = some b → b.cold = false → phaseDone s b = true →
    (∀ code, b.next ≠ 1 → ∃ u, exec (.fastPathStepEnd (.failed code)) s = .next (settled u) ∧ u = { s with regs := u.regs, om := { s.om with boot := none }, outs := u.outs } ∧
      fg u F.PSTORE_BOOT_RESULT = 3 ∧ fg u F.PSTORE_BOOT_HALT_CODE = code.toNat) ∧
    (b.next = 4 → s.mcasts = [] → ∃ u, exec (.fastPathStepEnd .ok) s = .next (settled u) ∧ u = { s with regs := u.regs, om := { s.om with boot := some { b with next := 5 } } } ∧ fg u F.PSTORE_BOOT_PHASE = 4) ∧
    (∀ v, b.next = 1 → ∃ u r more, exec (.fastPathStepEnd v) s = .next (settled u) ∧ (∀ a, a < 2 ^ 62 → memByte u.mem a = 0) ∧ u.recs = r :: more ∧ r.cls = 0x14 ∧ r.cause = b.cause ∧ r.aux = BitVec.ofNat 64 b.start)) ∧
  (∀ s : State, overmanRuns s = true →
    (s.om.switching = false → ∃ u, exec .overmanHeartbeat s = .next (settled u) ∧ u = { s with clk := u.clk, om := { s.om with beat := mer u } } ∧ u.clk.cyc = max s.clk.cyc (cycleAt s (s.om.beat + 1000000))) ∧
    (s.om.switching = true → s.ke.staged.contains 2 = false → ∃ u, exec .overmanHeartbeat s = .next (settled u) ∧ TookOver s u 2 1) ∧
    (cycling s = false → s.om.boot = none → fg s F.GUARD_OVERMAN_STANDBY = 1 →
      ∃ u, exec .overmanFailover s = .next (settled u) ∧ TookOver s u 1 0 ∧ u.clk.cyc = max s.clk.cyc (cycleAt s (s.om.beat + 10000000)) ∧
        ∀ d n b, (patrol s d).test = some (n, b) → (patrol u d).test = some (n, mer u)) ∧
    (cycling s = false → s.om.boot = none → fg s F.GUARD_OVERMAN_STANDBY ≠ 1 → ∃ u, exec .overmanFailover s = .next (settled u) ∧ Rebooted u 2) ∧
    (∀ b, cycling s = false → s.om.boot = some b → b.cold = true → fg s F.GUARD_OVERMAN_STANDBY ≠ 1 →
      ∃ u, exec .overmanFailover s = .next (settled u) ∧ u.om.boot = none ∧ fg u F.PSTORE_BOOT_RESULT = 3 ∧ fg u F.PSTORE_BOOT_HALT_CODE = 7)) ∧
  (∀ (s : State) (f : Func) (v : Word), isPriv s f = true → getBits v 61 61 = 1 →
    (fg s F.GUARD_OVERMAN_STANDBY = 1 → exec (.overmanSwitch f v) s = .next (settled { s with om := { s.om with switching := true } })) ∧
    (fg s F.GUARD_OVERMAN_STANDBY ≠ 1 → exec (.overmanSwitch f v) s = .next (settled s))) ∧
  (∀ (s : State) (f : Func) (p : Nat) (v : Word) (c : Instr), c ∈ [.rejoinGo f p v, .rejoinAbort f p v, .rejoinModeWrite f p v] → isPriv s f = true → p < 8 → SMap.wf s.om.rejoins = true →
    let x := SMap.find s.om.rejoins p
    let st := fg s F.GUARD_REJOIN_STATUS_STAGE p
    (getBits v 62 62 = 0 → getBits v 61 61 = 0 → x = none → ∃ u, exec c s = .next (settled u) ∧ fg u F.GUARD_REJOIN_CTL_MODE p = getBits v 63 63 ∧
      (getBits v 63 63 = 0 → fg u F.GUARD_REJOIN_STATUS_HELD p = 0) ∧ (getBits v 63 63 = 1 → st = 0 → fg u F.GUARD_REJOIN_STATUS_HELD p = 1) ∧ (getBits v 63 63 ≠ fg s F.GUARD_REJOIN_CTL_MODE p → 7 ∈ u.om.pend)) ∧
    (getBits v 63 63 = 1 → getBits v 62 62 = 1 → getBits v 61 61 = 0 →
      (devId s p = none ∨ (part s p).phase ≠ 0 ∨ ¬ (st = 0 ∨ st = 5 ∨ st = 6) → ∃ u, exec c s = .next (settled u) ∧ fg u F.GUARD_REJOIN_CTL_REFUSED p = 1 ∧ SMap.find u.om.rejoins p = x ∧ fg u F.GUARD_REJOIN_STATUS_STAGE p = st) ∧
      (devId s p ≠ none → (part s p).phase = 0 → st = 0 ∨ st = 5 ∨ st = 6 → testsValid s p = false →
        ∃ u, exec c s = .next (settled u) ∧
          ((fg u F.GUARD_REJOIN_STATUS_STAGE p = 1 ∧ fg u F.GUARD_REJOIN_STATUS_RESULT p = 0 ∧ ∃ r, SMap.find u.om.rejoins p = some r ∧ r.test = true ∧ r.entries = none ∧ ∀ w, r.plan = some w → planOk w = true) ∨
           (fg u F.GUARD_REJOIN_STATUS_STAGE p = 6 ∧ fg u F.GUARD_REJOIN_STATUS_RESULT p = 8 ∧ SMap.find u.om.rejoins p = none)))) ∧
    (∀ r, getBits v 63 63 = 1 → getBits v 62 62 = 0 → getBits v 61 61 = 1 → x = some r → r.streams = none → r.trim = [] → ∃ u, exec c s = .next (settled u) ∧ RejoinOver s u p 7)) ∧
  (∀ (s : State) (p : Nat) (r : Rejoin) (w : List Word), p < 8 → SMap.wf s.om.rejoins = true → SMap.find s.om.rejoins p = some r → r.plan = some w → r.streams = none → r.trim = [] →
    let st := fg s F.GUARD_REJOIN_STATUS_STAGE p
    (st = 1 → (∀ d, d < 4 → usableWidth s p d < db w 0 44 40) →
      ∃ u, exec (.rejoinSelfTestEnd p []) s = .next (settled u) ∧ RejoinOver s u p 2 ∧ (∀ k ∈ sectionsOf s p, SMap.find u.om.tested k = some (bootEpoch s, [])) ∧ 4 ∈ u.om.pend) ∧
    (∀ d, st = 1 → d < 4 → db w 0 44 40 ≤ usableWidth s p d → db w 0 31 0 = 0 → r.entries = none →
      ∃ u, exec (.rejoinSelfTestEnd p []) s = .next (settled u) ∧ fg u F.GUARD_REJOIN_STATUS_STAGE p = 2 ∧ fg u F.GUARD_REJOIN_STATUS_DONE p = 0 ∧ SMap.find u.om.rejoins p = some { r with entries := some [], todo := [] } ∧
        (∀ k ∈ sectionsOf s p, SMap.find u.om.tested k = some (bootEpoch s, []) ∧ ∀ a, a < stackBytes s → memByte u.mem (keyT1 k 0 + a) = 0)) ∧
    (∀ es, st = 2 → r.entries = some es → r.todo = [] → r.bad = false → (∀ o ∈ s.xp.ops, o.isWeight p = false) →
      (∃ u, exec (.rejoinWeightsEnd p true) s = .next (settled u) ∧ RegsOnly s u [regKey .guardRejoinStatus p 0 0] ∧ fg u F.GUARD_REJOIN_STATUS_STAGE p = 3 ∧ fg u F.GUARD_REJOIN_STATUS_DONE p = 0) ∧
      (∃ u, exec (.rejoinWeightsEnd p false) s = .next (settled u) ∧ RejoinOver s u p 3)) ∧
    (st = 3 → db w 2 31 0 = 0 →
      (db w 4 31 0 < fg s F.GUARD_REJOIN_COUNT_FAILED p ∨ fg s F.SEAM_CONTRAIL_CTL_RESULT p ≠ 1 → ∃ u, exec (.rejoinStreamsEnd p) s = .next (settled u) ∧ RejoinOver s u p 4) ∧
      (fg s F.GUARD_REJOIN_COUNT_FAILED p ≤ db w 4 31 0 → fg s F.SEAM_CONTRAIL_CTL_RESULT p = 1 →
        ∃ u, exec (.rejoinStreamsEnd p) s = .next (settled u) ∧ fg u F.GUARD_REJOIN_STATUS_STAGE p = 4 ∧ fg u F.GUARD_REJOIN_STATUS_DONE p = 0 ∧
          fg u F.GUARD_REJOIN_STATUS_RESULT p = (if admitAhead s p then fg s F.GUARD_REJOIN_STATUS_RESULT p else 5))))


/-! ### Security -/

namespace Sys2Proof.Claims

/-- A buffer of at most 32 MiB in host memory that a function can reach, with memory sound. -/
def HostBuf (s : State) (fn : Nat) (ga : Word) : Prop :=
  mayMaster s fn = true ∧ getBits ga 63 62 = 2 ∧ ga.toNat % 64 = 0 ∧ ga.toNat + 2 ^ 25 < 3 * 2 ^ 62 ∧ hostUp s = true ∧ s.flips = [] ∧ Memory.wf s.mem = true

/-- The key of the first byte of a host buffer. -/
def hostAt (ga : Word) : Nat := keyHost (ga.toNat - 2 ^ 63)

/-- A session that is ACTIVE with the peer of a slot. -/
def SamePeer (s : State) (p k j : Nat) : Prop :=
  fg s F.SEC_SLOT_STATE p j = 2 ∧ fg s F.SEC_SLOT_TENANT p j = fg s F.SEC_SLOT_TENANT p k ∧ fg s F.SEC_SLOT_PEER_ID p j = fg s F.SEC_SLOT_PEER_ID p k

end Sys2Proof.Claims

/-- COMMIT raises the chosen floors to the running SVNs and asks for the record; a staged image that passes replaces the copy not in use, one that fails shows why. An attestation puts the report with the nonce, its signature and the chains into the buffer.
CONF changes only for a held partition and ends with its memory zero. OPEN writes a signed hello and opens the slot; COMPLETE checks the peer's hello, derives the keys and retires older sessions; CLOSE, the overlap's end and an exhausted counter free a slot. An export writes header, ciphertext and tag; an import is refused for its address, a used counter or a wrong tag, else its plaintext is written. A GO while busy shows BUSY_ERR. -/
def Obligations.SecurityCommandsWork : Prop :=
  (∀ (s : State) (f : Func) (v : Word), isPriv s f = true →
    (getBits v 3 0 ≠ 0 →
      ∃ u, exec (.fwCommit f v) s = .next (settled u) ∧ u = { s with regs := u.regs, om := u.om } ∧ RegsBut s u [regKey .secFwCtl 0 0 0, regKey .secFwFloor 0 0 0] ∧ 2 ∈ u.om.pend ∧
        fg u F.SEC_FW_CTL_COMMIT = Nat.lor (fg s F.SEC_FW_CTL_COMMIT) (getBits v 3 0) ∧
        ∀ t, 1 ≤ t → t ≤ 4 → fg u (floorFld t) = (if bitOf v (t - 1) then max (fg s (floorFld t)) (fg s (svnFld t)) else fg s (floorFld t))) ∧
    (getBits v 63 63 = 1 →
      let t := getBits v 34 32
      let n := getBits v 31 0
      let ok := t ≠ 0 ∧ t ≤ 5 ∧ 256 ≤ n ∧ n ≤ copyBytes t
      (s.ke.staging ≠ none → ∃ u, exec (.stageGo f v) s = .next (settled u) ∧ u = { s with regs := u.regs } ∧ fg u F.SEC_STAGE_STATUS_BUSY_ERR = 1) ∧
      (s.ke.staging = none → ok → ∃ u, exec (.stageGo f v) s = .next (settled u) ∧ u = { s with regs := u.regs, ke := { s.ke with staging := some (t, n, rd s .secStageAddr) } } ∧ fg u F.SEC_STAGE_STATUS_RESULT = 1) ∧
      (s.ke.staging = none → ¬ ok → ∃ u, exec (.stageGo f v) s = .next (settled u) ∧ u = { s with regs := u.regs } ∧ fg u F.SEC_STAGE_STATUS_RESULT = 8)) ∧
    (getBits v 63 63 = 1 →
      (s.ke.attest ≠ none → ∃ u, exec (.attestGo f v) s = .next (settled u) ∧ RegsOnly s u [regKey .secAttestStatus 0 0 0] ∧ fg u F.SEC_ATTEST_STATUS_BUSY_ERR = 1) ∧
      (s.ke.attest = none → ∃ u, exec (.attestGo f v) s = .next (settled u) ∧ u = { s with regs := u.regs, ke := { s.ke with attest := some (getBits v 2 0, rd s .secAttestAddr) } } ∧
        fg u F.SEC_ATTEST_STATUS_RESULT = 1))) ∧
  (∀ (s s1 : State) (t n : Nat) (ga : Word), s.ke.staging = some (t, n, ga) →
    (∀ st a, pfRead s ga n = (.refused st a, s1) → ∃ u, exec .stageComplete s = .next (settled u) ∧ u.ke = { s1.ke with staging := none } ∧ fg u F.SEC_STAGE_STATUS_RESULT = 7) ∧
    (∀ bs, pfRead s ga n = (.data bs, s1) →
      let bad := getBits (wordAt bs 0) 63 32 ≠ 0x4E525846 ∨ getBits (wordAt bs 0) 31 28 ≠ t ∨ getBits (wordAt bs 1) 31 0 + 256 ≠ n
      let r := imageCheck s1 t bs
      ∃ u, exec .stageComplete s = .next (settled u) ∧ u.ke.staging = none ∧
        (bad → fg u F.SEC_STAGE_STATUS_RESULT = 8 ∧ u.ke.images = s1.ke.images) ∧ (¬ bad → r ≠ 0 → fg u F.SEC_STAGE_STATUS_RESULT = r ∧ u.ke.images = s1.ke.images) ∧
        (¬ bad → r = 0 → t ≠ 5 → fg u F.SEC_STAGE_STATUS_RESULT = 2 ∧ t ∈ u.ke.staged ∧
          SMap.find u.ke.images (2 * t + (1 - copyInUse s1 t)) = some { svn := getBits (wordAt bs 1) 63 48, digest := slice bs 16 64, ok := true, size := (bs.drop 256).length, body := bs.drop 256 }) ∧
        (¬ bad → r = 0 → t = 5 → allZero (bs.drop 289) = true → (nth bs 288 0).toNat ≤ 1 → fg u F.SEC_STAGE_STATUS_RESULT = 3 ∧ 2 ∈ u.om.pend ∧
          u.ke.owner = (if allZero (slice (bs.drop 256) 0 32) then [] else slice (bs.drop 256) 0 32)))) ∧
  (∀ (s : State) (p : Nat) (ga : Word), s.ke.attest = some (p, ga) →
    (partExists s p = false → ∃ u, exec .attestComplete s = .next (settled u) ∧ u = { s with regs := u.regs, ke := { s.ke with attest := none } } ∧ fg u F.SEC_ATTEST_STATUS_RESULT = 4) ∧
    (partExists s p = true → fg s F.PSTORE_REC_DEFAULTED 0 = 0 → HostBuf s 0 ga →
      let rep := reportBytes s p (memBytes s.mem (hostAt ga + 32) 64)
      let out := rep ++ fit 64 (Config.edSign (pak s p).1 rep) ++ chainBytes s p
      ∃ u, exec .attestComplete s = .next (settled u) ∧ u = { s with mem := u.mem, regs := u.regs, ke := { s.ke with attest := none } } ∧ fg u F.SEC_ATTEST_STATUS_RESULT = 2 ∧
        bytesAt u (hostAt ga) out.length = out ∧ ∀ a, a < hostAt ga ∨ hostAt ga + out.length ≤ a → memByte u.mem a = memByte s.mem a)) ∧
  (∀ (s : State) (f : Func) (p : Nat) (v : Word), isPriv s f = true → p < 8 →
    let was := fg s F.SEC_PART_CTL_CONF p
    let now := getBits v 63 63
    let bad := partHeld s p = false ∨ fg s F.SEAM_CTL_EN p = 1 ∨ confChanging s p = true ∨ (now = 1 ∧ allZero (tenantKey s p) = true)
    (now = was → ∃ u, exec (.confWrite f p v) s = .next (settled u) ∧ RegsOnly s u [regKey .secPartCtl p 0 0] ∧ fg u F.SEC_PART_CTL_CONF p = was ∧ fg u F.SEC_PART_CTL_STATE p = fg s F.SEC_PART_CTL_STATE p) ∧
    (now ≠ was → bad → ∃ u, exec (.confWrite f p v) s = .next (settled u) ∧ RegsOnly s u [regKey .secPartCtl p 0 0] ∧ fg u F.SEC_PART_CTL_CONF p = was ∧ fg u F.SEC_PART_CTL_CFG_ERR p = 1) ∧
    (now ≠ was → ¬ bad → SMap.find s.ke.shakes p = none → ∃ u, exec (.confWrite f p v) s = .next (settled u) ∧ fg u F.SEC_PART_CTL_CONF p = now ∧ fg u F.SEC_PART_CTL_STATE p = (if now = 1 then 1 else 3) ∧
      (now = 1 → ∃ k, SMap.find u.ke.memKeys p = some k ∧ k.length = 64))) ∧
  (∀ (s : State) (p : Nat), p < 8 → confChanging s p = true → SMap.wf s.regs = true → SMap.wf s.ke.memKeys = true →
    ∃ u, exec (.confChangeComplete p) s = .next (settled u) ∧ (∀ k ∈ sectionsOf s p, ∀ a, (a < stackBytes s → memByte u.mem (keyT1 k 0 + a) = 0) ∧
        (a < positionBytes → memByte u.mem (keyT2 (2 * k) 0 + a) = 0 ∧ memByte u.mem (keyT2 (2 * k + 1) 0 + a) = 0)) ∧
      (fg s F.SEC_PART_CTL_STATE p = 1 → fg u F.SEC_PART_CTL_STATE p = 2) ∧
      (fg s F.SEC_PART_CTL_STATE p = 3 → fg u F.SEC_PART_CTL_STATE p = 0 ∧ SMap.find u.ke.memKeys p = none ∧ ∀ k, k < 64 → fg u F.SEC_SLOT_STATE p k = 0)) ∧
  (∀ (s : State) (f : Func) (p : Nat) (v : Word) (c : Instr), c ∈ [.sessOpen f p v, .sessComplete f p v, .sessClose f p v] → isPriv s f = true → p < 8 → SMap.find s.ke.shakes p = none →
    SMap.wf s.ke.shakes = true → SMap.wf s.regs = true → SMap.wf s.ke.sess = true → getBits v 63 63 = 1 →
    let op := getBits v 62 61
    let k := getBits v 59 54
    let ga := rd s .secSessAddr p
    (op = 0 → exec c s = .next (settled s)) ∧
    (op ≠ 0 → confOn s p = false ∨ (op = 1 ∧ fg s F.SEC_SLOT_STATE p k ≠ 0) ∨ (op = 2 ∧ fg s F.SEC_SLOT_STATE p k ≠ 1) ∨ (op = 3 ∧ fg s F.SEC_SLOT_STATE p k = 0) →
      ∃ u, exec c s = .next (settled u) ∧ RegsOnly s u [regKey .secSessStatus p 0 0] ∧ fg u F.SEC_SESS_STATUS_RESULT p = 9) ∧
    (op = 1 → confOn s p = true → fg s F.SEC_SLOT_STATE p k = 0 → HostBuf s 0 ga →
      ∃ u eph nonce id,
        let h := helloBytes s p (getBits v 53 36) id (fit 32 (Config.x25519 eph [])) nonce
        exec c s = .next (settled u) ∧ bytesAt u (hostAt ga) h.length = h ∧ session u p k = { Session.fresh with eph := eph, hello := h } ∧ fg u F.SEC_SLOT_STATE p k = 1 ∧ fg u F.SEC_SLOT_TENANT p k = getBits v 60 60 ∧
          fg u F.SEC_SLOT_PEER_ID p k = getBits v 53 36 ∧ fg u F.SEC_SLOT_SESSION_ID p k = id ∧ fg u F.SEC_SESS_STATUS_RESULT p = 2) ∧
    (op = 2 → confOn s p = true → fg s F.SEC_SLOT_STATE p k = 1 → HostBuf s 0 ga →
      let buf := memBytes s.mem (hostAt ga + 2048) 2048
      let x := session s p k
      let z := fit 32 (Config.x25519 x.eph (slice buf 32 32))
      let r := helloCheck s p k buf z
      ∃ u, exec c s = .next (settled u) ∧ u.mem = s.mem ∧ SMap.find u.ke.shakes p = none ∧
        (r ≠ 0 → fg u F.SEC_SESS_STATUS_RESULT p = r ∧ fg u F.SEC_SLOT_STATE p k = 1) ∧
        (r = 0 → fg u F.SEC_SESS_STATUS_RESULT p = 2 ∧ fg u F.SEC_SLOT_STATE p k = 2 ∧ fg u F.SEC_SLOT_PEER_EPOCH p k = getBits (wordAt buf 0) 39 32 ∧
          session u p k = { sessionKeys x z (slice buf 0 224) with peer := getBits (wordAt buf 0) 31 16, since := mer s } ∧ ∀ j, j < 64 → j ≠ k → SamePeer s p k j → fg u F.SEC_SLOT_STATE p j = 3)) ∧
    (op = 3 → confOn s p = true → fg s F.SEC_SLOT_STATE p k ≠ 0 →
      ∃ u, exec c s = .next (settled u) ∧ RegsBut s u [regKey .secSessStatus p 0 0, regKey .secSlot p k 0] ∧ fg u F.SEC_SESS_STATUS_RESULT p = 2 ∧ fg u F.SEC_SLOT_STATE p k = 0 ∧ SMap.find u.ke.sess (p * 64 + k) = none)) ∧
  (∀ (s : State) (p k : Nat), p < 8 → k < 64 → SMap.wf s.regs = true → SMap.wf s.ke.sess = true →
    (fg s F.SEC_SLOT_STATE p k = 3 →
      ∃ u, exec (.sessOverlapExpire p k) s = .next (settled u) ∧ RegsBut s u [regKey .secSlot p k 0] ∧ fg u F.SEC_SLOT_STATE p k = 0 ∧ SMap.find u.ke.sess (p * 64 + k) = none ∧
        (∀ j, j < 64 → SamePeer s p k j → (∀ i, i < j → ¬ SamePeer s p k i) → u.clk.cyc = max s.clk.cyc (cycleAt s ((session s p j).since + 10000000)))) ∧
    (let x := session s p k
     let worn := 2 ^ 48 ≤ x.tx ∨ 2 ^ 48 < x.rx ∨ 2 ^ 48 < x.imported
     (worn → ∃ u, exec (.sessCounterLimit p k) s = .next (settled u) ∧ u = { s with regs := u.regs, ke := u.ke } ∧ RegsBut s u [regKey .secSlot p k 0] ∧ fg u F.SEC_SLOT_STATE p k = 0 ∧ SMap.find u.ke.sess (p * 64 + k) = none) ∧
     (¬ worn → exec (.sessCounterLimit p k) s = .next (settled s)))) ∧
  (∀ (s : State) (f : Func) (p : Nat) (v : Word) (c : Instr), c ∈ [.sealImportGo f p v, .sealExportGo f p v] → isPriv s f = true → p < 8 → getBits v 63 63 = 1 →
    (SMap.find s.ke.seals p ≠ none → ∃ u, exec c s = .next (settled u) ∧ u = { s with regs := u.regs } ∧ fg u F.SEC_SEAL_STATUS_BUSY_ERR p = 1) ∧
    (SMap.find s.ke.seals p = none → ∃ u, exec c s = .next (settled u) ∧ u = { s with regs := u.regs, ke := { s.ke with seals := SMap.set s.ke.seals p (v, rd s .secSealHost p, rd s .secSealLocal p) } } ∧
      fg u F.SEC_SEAL_STATUS_RESULT p = 1)) ∧
  (∀ (s : State) (p : Nat) (v host la : Word), p < 8 → SMap.find s.ke.seals p = some (v, host, la) →
    let k := getBits v 61 56
    let units := getBits v 18 0
    let n := 64 * units
    let x := session s p k
    let s0 := { s with ke := { s.ke with seals := SMap.erase s.ke.seals p } }
    let open_ := confOn s p = true ∧ fg s F.SEC_SLOT_TENANT p k = 1 ∧ fg s F.SEC_SLOT_STATE p k = 2
    let fits := units ≠ 0 ∧ units ≤ 262144 ∧ inTier1 s p la n = true
    (¬ open_ → ∃ u, exec (.sealComplete p) s = .next (settled u) ∧ RegsOnly s0 u [regKey .secSealStatus p 0 0] ∧ fg u F.SEC_SEAL_STATUS_RESULT p = 7) ∧
    (open_ → getBits host 63 62 ≠ 2 ∨ ¬ fits → ∃ u, exec (.sealComplete p) s = .next (settled u) ∧ RegsOnly s0 u [regKey .secSealStatus p 0 0] ∧ fg u F.SEC_SEAL_STATUS_RESULT p = 6) ∧
    (open_ → fits → HostBuf s (ownerFn s p) host → getBits v 62 62 = 1 → ∀ (bs : List Byte) (s1 : State), sealRead s0 p la n = (some bs, s1) →
      let hdr := sealHeader 1 units la x.tx
      let ct := fit n (Config.gcmSeal x.keyTx (sealIv x.saltTx x.tx) hdr bs)
      let out := hdr ++ ct ++ fit 64 (fit 16 (Config.gcmTag x.keyTx (sealIv x.saltTx x.tx) hdr ct))
      ∃ u, exec (.sealComplete p) s = .next (settled u) ∧ fg u F.SEC_SEAL_STATUS_RESULT p = 2 ∧ session u p k = { x with tx := x.tx + 1 } ∧ bytesAt u (hostAt host) out.length = out ∧
        (getBits v 55 55 = 1 → gate u p (getBits v 54 45) = (gate s p (getBits v 54 45) + 1) % 2 ^ 32)) ∧
    (open_ → fits → HostBuf s (ownerFn s p) host → getBits v 62 62 = 0 →
      let bs := memBytes s.mem (hostAt host) (n + 128)
      let hdr := slice bs 0 64
      let ct := slice bs 64 n
      let ctr := (wordAt hdr 2).toNat
      let here := wordAt hdr 1 = la ∧ getBits (wordAt hdr 0) 18 0 = units
      let genuine := fit 16 (Config.gcmTag x.keyRx (sealIv x.saltRx ctr) hdr ct) = slice bs (64 + n) 16
      (¬ here ∨ ctr < x.imported ∨ ¬ genuine →
        ∃ u, exec (.sealComplete p) s = .next (settled u) ∧ RegsOnly s0 u [regKey .secSealStatus p 0 0] ∧ fg u F.SEC_SEAL_STATUS_RESULT p = (if ¬ here then 5 else if ctr < x.imported then 4 else 3)) ∧
      (∀ a s2, here → x.imported ≤ ctr → genuine → writeGlobal s0 (.engine p) p la (fit n (Config.gcmOpen x.keyRx (sealIv x.saltRx ctr) hdr ct)) = ((0, a), s2) →
        ∃ u, exec (.sealComplete p) s = .next (settled u) ∧ fg u F.SEC_SEAL_STATUS_RESULT p = 2 ∧ session u p k = { x with imported := ctr + 1 } ∧ u.mem = s2.mem)))


/-! ### Bring-up, clocks, power and management -/

namespace Sys2Proof.Claims

/-- The state once the module controller has answered: PLDM type, command, completion code and data. -/
def said (s : State) (typ cmd code : Nat) (data : List Byte) : State :=
  { s with outs := s.outs ++ [.mgmt ([BitVec.ofNat 8 typ, BitVec.ofNat 8 cmd, BitVec.ofNat 8 code] ++ data)] }

/-- The rails are down: nothing runs, the link is down, and the module's memory is zero. -/
def RailsDown (u : State) : Prop :=
  u.om.powered = false ∧ u.om.boot = none ∧ u.om.dynAddr = none ∧ u.om.pend = [] ∧ fg u F.HOST_LINK_STATUS_DL_UP = 0 ∧ ∀ a, a < 2 ^ 62 → memByte u.mem a = 0

end Sys2Proof.Claims

/-- Input in range starts a cold boot whose phases end in order; a failure halts it with its code, and a second sequence miss with 8. A slot write takes the next SEQ; a transfer puts the slot into its buffer. A second bad window loses a reference and 1 ms of good ones returns it. A rail outside its fault window resets or powers down the module; the budget follows the formula; heat derates, halts and asks for power off.
Dormant is entered with the ports in STANDBY and left when cool, with the stores zero above the firmware reserve. Every management command is answered by its rule, and a power request is a pulse, repeated up to three times. -/
def Obligations.BringUpPowerAndManagementWork : Prop :=
  (∀ s : State, s.om.powered = false →
    ∃ u b, exec .inputInRange s = .next (settled u) ∧ u.om.powered = true ∧ u.om.boot = some b ∧ b.cold = true ∧ b.next = 1 ∧ fg u F.PSTORE_BOOT_PHASE = 0 ∧ fg u F.PSTORE_BOOT_RESULT = 0 ∧
      (∀ a, a < 2 ^ 62 → memByte u.mem a = 0) ∧ u.recs = s.recs.filter fun r => r.cls == 0x16 && r.action == 4) ∧
  (∀ (s : State) (b : Boot), s.om.boot = some b → b.cold = true →
    (∀ rail, b.next = 1 → 1 ≤ rail → rail ≤ 12 →
      (s.om.railMiss = 0 → exec (.railSequenceMiss rail) s = .next (settled { s with om := { s.om with railMiss := 1 } })) ∧
      (s.om.railMiss ≠ 0 → ∃ u, exec (.railSequenceMiss rail) s = .next (settled u) ∧ u.om.powered = false ∧ u.om.boot = none ∧ fg u F.PSTORE_BOOT_RESULT = 3 ∧ fg u F.PSTORE_BOOT_HALT_CODE = 8)) ∧
    (phaseDone s b = true →
      (∀ code, ∃ u, exec (.coldBootPhaseEnd (.failed code)) s = .next (settled u) ∧ u = { s with regs := u.regs, om := { s.om with boot := none }, outs := u.outs } ∧ fg u F.PSTORE_BOOT_RESULT = 3 ∧
        fg u F.PSTORE_BOOT_HALT_CODE = code.toNat) ∧
      (b.next = 1 ∨ b.next = 6 → s.mcasts = [] → ∃ u, exec (.coldBootPhaseEnd .ok) s = .next (settled u) ∧ u = { s with regs := u.regs, om := { s.om with boot := some { b with next := b.next + 1 } } } ∧ fg u F.PSTORE_BOOT_PHASE = b.next) ∧
      (b.next = 11 → s.mcasts = [] → b.degraded = false → fg s F.CLK_REF_STATUS_FABRIC_LOST ≠ 1 → ∃ u, exec (.coldBootPhaseEnd .ok) s = .next (settled u) ∧ u.om.boot = none ∧ fg u F.PSTORE_BOOT_PHASE = 11 ∧
        fg u F.PSTORE_BOOT_RESULT = 1 ∧ fg u F.PSTORE_BOOT_LAST_RESET = 0)) ∧
    (∀ die entries, b.next = 7 → die < 4 → SMap.find s.om.dies die = none →
      exec (.selfTestComplete die entries) s = .next (settled { s with om := { s.om with dies := SMap.set s.om.dies die entries } }))) ∧
  (∀ (s : State) (ty : Nat) (ok : Bool), s.om.powered = true → halted s = false ∨ ty = 1 → ty ∈ s.om.pend → 1 ≤ ty → ty ≤ 8 →
    ∃ u b x, exec (.pstoreSlotWrite ty ok) s = .next (settled u) ∧ b < 2 ∧ x ∈ bankSlots u ty b ∧ x.ok = ok ∧ x.body = storeBody s ty ∧
      x.seq = (match newestSlot s ty with | some y => (y.2.seq + 1) % 2 ^ 32 | none => 0) ∧
      (ok = true → fg u F.PSTORE_FLASH_WRITES = min (fg s F.PSTORE_FLASH_WRITES + 1) 65535 ∧ ty ∉ u.om.pend) ∧
      (ok = false → fg u F.PSTORE_FLASH_WRITE_FAIL = min (fg s F.PSTORE_FLASH_WRITE_FAIL + 1) 65535 ∧ u.om.pend = s.om.pend)) ∧
  (∀ (s : State) (f : Func) (v : Word), isPriv s f = true → getBits v 63 63 = 1 →
    let t := getBits v 35 32
    (s.om.xfer ≠ none → ∃ u, exec (.pstoreXferGo f v) s = .next (settled u) ∧ RegsOnly s u [regKey .pstoreXferStatus 0 0 0] ∧ fg u F.PSTORE_XFER_STATUS_BUSY_ERR = 1) ∧
    (s.om.xfer = none → t = 0 ∨ 8 < t → ∃ u, exec (.pstoreXferGo f v) s = .next (settled u) ∧ RegsOnly s u [regKey .pstoreXferStatus 0 0 0] ∧ fg u F.PSTORE_XFER_STATUS_RESULT = 5) ∧
    (s.om.xfer = none → 1 ≤ t → t ≤ 8 → ∃ u, exec (.pstoreXferGo f v) s = .next (settled u) ∧ fg u F.PSTORE_XFER_STATUS_RESULT = 1 ∧
      u = { s with regs := u.regs, om := { s.om with xfer := some (((validSlots s t)[getBits v 31 0]?).map (slotImage t)) } })) ∧
  (∀ s : State,
    (s.om.xfer = some none → ∃ u, exec .pstoreXferComplete s = .next (settled u) ∧ u.om.xfer = none ∧ fg u F.PSTORE_XFER_STATUS_RESULT = 3) ∧
    (∀ bs, s.om.xfer = some (some bs) → HostBuf s 0 (rd s .pstoreXferAddr) → bs.length < 2 ^ 25 →
      ∃ u, exec .pstoreXferComplete s = .next (settled u) ∧ u.om.xfer = none ∧ fg u F.PSTORE_XFER_STATUS_RESULT = 2 ∧ fg u F.PSTORE_XFER_STATUS_LENGTH = bs.length ∧
        bytesAt u (hostAt (rd s .pstoreXferAddr)) bs.length = bs)) ∧
  (∀ (s : State) (h g : Nat), s.om.powered = true →
    let r := s.om.refs
    let hok := 45 ≤ h ∧ h ≤ 55
    let gok := 71 ≤ g ∧ g ≤ 85
    let hl := fg s F.CLK_REF_STATUS_HOST_LOST
    let gl := fg s F.CLK_REF_STATUS_FABRIC_LOST
    ∃ u, exec (.refMonitorWindow h g) s = .next (settled u) ∧ u.om.refs.hostBad = (if hok then 0 else r.hostBad + 1) ∧ u.om.refs.fabBad = (if gok then 0 else r.fabBad + 1) ∧
      fg u F.CLK_REF_STATUS_HOST_LOST = (if hl ≠ 1 ∧ ¬ hok ∧ 1 ≤ r.hostBad then 1 else if hl = 1 ∧ hok ∧ 2000 ≤ r.hostGood + 1 then 0 else hl) ∧
      fg u F.CLK_REF_STATUS_FABRIC_LOST = (if gl ≠ 1 ∧ ¬ gok ∧ 1 ≤ r.fabBad then 1 else if gl = 1 ∧ gok ∧ 2000 ≤ r.fabGood + 1 then 0 else gl) ∧
      (hl ≠ 1 → ¬ hok → 1 ≤ r.hostBad → fg u F.HOST_LINK_STATUS_DL_UP = 0 ∧ fg u F.CLK_REF_STATUS_HOST_EVT = 1 ∧ fg u F.CLK_REF_STATUS_ON_FALLBACK = 1 ∧
        ∃ e more, u.recs = s.recs ++ e :: more ∧ e.cls = 0x15 ∧ e.cause = 1) ∧
      (gl ≠ 1 → ¬ gok → 1 ≤ r.fabBad → fg u F.CLK_TIME_STATUS_STATE = 3 ∧ fg u F.CLK_REF_STATUS_FABRIC_EVT = 1 ∧ ∃ e ∈ u.recs, e.cls = 0x15 ∧ e.cause = 2) ∧
      (gl = 1 → gok → 2000 ≤ r.fabGood + 1 → u.om.refs.resume = some (mer s + 1000000) ∧ fg u F.CLK_TIME_STATUS_STATE = (if s.sync.good = 0 then 0 else 2))) ∧
  (∀ (s : State) (ppm : BitVec 16), s.om.powered = true → fg s F.CLK_REF_STATUS_FABRIC_LOST ≠ 1 →
    ∃ u, exec (.fallbackTrim ppm) s = .next (settled u) ∧ RegsOnly s u [regKey .clkRefStatus 0 0 0] ∧ Holds s u F.CLK_REF_STATUS_FALLBACK_PPM ppm.toNat) ∧
  (∀ (s : State) (rail mv : Nat), s.om.powered = true → rail ≤ 12 →
    let s1 := { s with om := { s.om with sensors := SMap.set s.om.sensors (14 + rail) mv } }
    ((railOk rail mv).1 = true → exec (.railExcursion rail mv) s = .next (settled s1)) ∧
    ((railOk rail mv).1 = false → (railOk rail mv).2 = true → ∃ u r, exec (.railExcursion rail mv) s = .next (settled u) ∧ (fg u F.CLK_RAIL_STATUS_WARN).testBit rail = true ∧ u.recs = s.recs ++ [r] ∧
      r.cls = 0x16 ∧ r.cause = rail ∧ r.action = 0 ∧ r.aux = BitVec.ofNat 64 mv) ∧
    ((railOk rail mv).1 = false → (railOk rail mv).2 = false →
      (rail = 0 → ∃ u r, exec (.railExcursion rail mv) s = .next (settled u) ∧ RailsDown u ∧ u.recs = [r] ∧ r.cls = 0x16 ∧ r.cause = 0 ∧ r.action = 4) ∧
      (rail ≠ 0 → ∃ u r, exec (.railExcursion rail mv) s = .next (settled u) ∧ Rebooted u 3 ∧ r ∈ u.recs ∧ r.cls = 0x16 ∧ r.cause = rail ∧ r.action = 4))) ∧
  (∀ (s : State) (i o t : Nat), overmanRuns s = true → s.om.boot = none → cycling s = false → i < 2 ^ 32 → o < 2 ^ 32 →
    ∃ u, exec (.powerPolicyUpdate i o t) s = .next (settled u) ∧ fg u F.CLK_PWR_STATUS_INPUT_MW = i ∧ fg u F.CLK_PWR_MEAS_OUTPUT_MW = o ∧
      (fg s F.CLK_PWR_CTL_POLICY_EN ≠ 1 → fg u F.TGE_ENERGY_BUDGET_BUDGET_MW = 2 ^ 32 - 1) ∧
      (fg s F.CLK_PWR_CTL_POLICY_EN = 1 → fg u F.CLK_PWR_STATUS_TARGET_MW = targetMw s ∧
        (i ≠ 0 → o ≠ 0 → fg u F.TGE_ENERGY_BUDGET_BUDGET_MW = min (2 ^ 32 - 1) (budgetMw (targetFrac s) (min 20 (fg s F.CLK_PWR_CTL_MARGIN_PCT)) i o t)) ∧
        (i = 0 ∨ o = 0 → fg u F.TGE_ENERGY_BUDGET_BUDGET_MW = getBits (Config.freeWord s.free) 31 0 ∧ u.free = s.free + 1))) ∧
  (∀ (s : State) (js ks : List Nat), halted s = false → js.length ≤ 64 →
    let t := (hottest js).1
    let x := (hottest (ks.take 8)).1
    let st := fg s F.CLK_DORMANT_STATUS_STATE
    ∃ u, exec (.thermalSample js ks) s = .next (settled u) ∧ fg u F.CLK_THERM_STATUS_HOTTEST_C = min 255 t ∧ fg u F.CLK_THERM_STATUS_SENSOR = (hottest js).2 ∧
      fg u F.CLK_THERM_STATUS_DERATE = (if fg s F.CLK_THERM_CTL_THROTTLE_C < t then 1 else 0) ∧
      (inDeviceReset s = false → 105 ≤ t ∨ 100 ≤ x → fg s F.CLK_THERM_STATUS_HALT ≠ 1 →
        fg u F.CLK_THERM_STATUS_HALT = 1 ∧ u.tge.halted = true ∧ fg u F.CLK_DORMANT_STATUS_CAUSE = 1 ∧ fg u F.CLK_DORMANT_STATUS_STATE = (if st = 1 ∨ st = 2 then st else 1) ∧ ∃ r ∈ u.recs, r.cls = 0x17) ∧
      (inDeviceReset s = false → fg s F.CLK_THERM_STATUS_HALT = 1 → st = 2 → fg s F.CLK_DORMANT_STATUS_CAUSE = 1 →
        (115 ≤ t → s.om.power = none → u.om.power = some { off := true, reset := false, at_ := mer s, pulses := 0 } ∧ 8 ∈ u.om.pend ∧ ∃ r ∈ u.recs, r.cls = 0x17 ∧ r.action = 5) ∧
        (t < 115 → t ≤ fg s F.CLK_THERM_CTL_RESUME_C → fg u F.CLK_DORMANT_STATUS_STATE = 3))) ∧
  (∀ (s : State) (f : Func) (v : Word), isPriv s f = true →
    let st := fg s F.CLK_DORMANT_STATUS_STATE
    (getBits v 0 0 = 1 → st = 0 → ∃ u, exec (.dormantEnter f v) s = .next (settled u) ∧ fg u F.CLK_DORMANT_STATUS_STATE = 1 ∧ fg u F.CLK_DORMANT_STATUS_CAUSE = 0 ∧ u.tge = { s.tge with admitOn := false }) ∧
    (getBits v 0 0 = 1 → st ≠ 0 → exec (.dormantEnter f v) s = .next (settled s)) ∧
    (getBits v 1 1 = 1 → st ≠ 2 → exec (.dormantExit f v) s = .next (settled s)) ∧
    (getBits v 1 1 = 1 → st = 2 → ∃ u, exec (.dormantExit f v) s = .next (settled u) ∧ RegsOnly s u [regKey .clkDormantStatus 0 0 0] ∧
      (if cool s then fg u F.CLK_DORMANT_STATUS_STATE = 3 else fg u F.CLK_DORMANT_STATUS_STATE = 2 ∧ fg u F.CLK_DORMANT_STATUS_EXIT_ERR = 1))) ∧
  (∀ (s : State) (us : BitVec 16),
    (fg s F.CLK_DORMANT_STATUS_STATE = 1 → workDone s = true → ∃ u, exec .dormantEntryComplete s = .next (settled u) ∧ fg u F.CLK_DORMANT_STATUS_STATE = 2 ∧
      fg u F.CLK_DORMANT_STATUS_ENTRIES = min (fg s F.CLK_DORMANT_STATUS_ENTRIES + 1) (2 ^ 32 - 1) ∧ ∀ n, n < 32 → portState s n = portActive ∨ portState s n = lPause → portState u n = lStandby) ∧
    (fg s F.CLK_DORMANT_STATUS_STATE = 3 → ∃ u, exec (.wakeComplete us) s = .next (settled u) ∧ fg u F.CLK_DORMANT_STATUS_STATE = 0 ∧ fg u F.CLK_DORMANT_STATUS_LAST_WAKE_US = us.toNat ∧
      fg u F.CLK_THERM_STATUS_HALT = 0 ∧ u.tge.halted = false ∧
      (s.tasks = [] → (∀ x ∈ s.tiles, x.2.stops = []) → ∀ n a, n < 1152 → fg s F.TS_CTL_RESERVE n * 2 ^ 15 ≤ a → a < 2 ^ 21 → memByte u.mem (keyTile n a) = 0) ∧ ∀ n, n < 32 → portState s n = lStandby → portState u n = lRetrain)) ∧
  (∀ (s : State) (c : Instr), s.om.powered = true → c ∈ [.pwPrsntRemoved, .mgmtResetAssert] → ∃ u, exec c s = .next (settled u) ∧ RailsDown u ∧ u.recs = [] ∧ fg u F.PSTORE_BOOT_RESULT = 0) ∧
  (∀ s : State, mgmtUp s = true →
    (∀ a, s.om.dynAddr = none → exec (.entdaa a) s = .next (settled { s with om := { s.om with dynAddr := some a.toNat } })) ∧
    (∀ a d, exec (.setdasa a d) s = .next (settled (if s.om.dynAddr = none ∧ a = 0x30 + Config.slotId.setWidth 7 then { s with om := { s.om with dynAddr := some d.toNat } } else s))) ∧
    exec .getStatus s = .next (settled (said s 0x3F 1 0 (bytesOfWords (statusWords s)))) ∧
    exec .getDik s = .next (settled (said s 0x3F 5 0 dikPub)) ∧
    (∀ n, n = 0 ∨ 28 < n → exec (.sensorRead n) s = .next (settled (said s 2 0x11 0x80 []))) ∧
    (∀ n x, 1 ≤ n → n ≤ 28 → SMap.find s.om.sensors n = some x → exec (.sensorRead n) s = .next (settled (said s 2 0x11 0 (bytesOf 4 x)))) ∧
    (∀ n, 1 ≤ n → n ≤ 28 → SMap.find s.om.sensors n = none → exec (.sensorRead n) s = .next (settled (said { s with free := s.free + 1 } 2 0x11 0 (bytesOf 4 (Config.freeWord s.free).toNat)))) ∧
    (∀ level : BitVec 8, mgmtReady s = false → haltedOther s = false → level ≠ 5 → exec (.mgmtReset level) s = .next (settled (said s 0x3F 2 4 []))) ∧
    (∀ level : BitVec 8, mgmtReady s = true → level ≠ 4 → level ≠ 5 → exec (.mgmtReset level) s = .next (settled (said s 0x3F 2 0x80 []))) ∧
    (mgmtReady s = true → ∃ u b, exec (.mgmtReset 4) s = .next (settled u) ∧ u.om.boot = some b ∧ b.controlled = true ∧ b.cause = 1 ∧ b.next = 1 ∧ fg u F.GUARD_RESET_STATUS_LEVEL = 4 ∧ ∃ o, u.outs = o ++ [.mgmt [0x3F, 2, 0]]) ∧
    (cycling s = false → ∃ u q, exec (.mgmtReset 5) s = .next (settled u) ∧ u.om.power = some q ∧ q.reset = true ∧ fg u F.GUARD_RESET_STATUS_LEVEL = 5 ∧ ∃ o, u.outs = o ++ [.mgmt [0x3F, 2, 0]]) ∧
    (mgmtReady s = false → exec .dormantCmdEnter s = .next (settled (said s 0x3F 3 4 [])) ∧ exec .dormantCmdExit s = .next (settled (said s 0x3F 3 4 []))) ∧
    (mgmtReady s = true → ∃ u, exec .dormantCmdEnter s = .next (settled u) ∧ u.outs = s.outs ++ [.mgmt [0x3F, 3, 0]] ∧
      (fg s F.CLK_DORMANT_STATUS_STATE = 0 → fg u F.CLK_DORMANT_STATUS_STATE = 1 ∧ fg u F.CLK_DORMANT_STATUS_CAUSE = 0)) ∧
    (mgmtReady s = true → let st := fg s F.CLK_DORMANT_STATUS_STATE
      ∃ u, exec .dormantCmdExit s = .next (settled u) ∧ u.outs = s.outs ++ [.mgmt [0x3F, 3, if st = 2 ∧ cool s = false then 0x80 else 0]] ∧ (st = 2 → cool s = true → fg u F.CLK_DORMANT_STATUS_STATE = 3)) ∧
    (∀ cert, let good := fg s F.PSTORE_REC_DEFAULTED 0 = 1 ∧ cert.length ≤ 1024 ∧ fit 32 (Config.certKey cert) = dikPub ∧ Config.certRooted cert = true
      (mgmtReady s = false → haltedOther s = false → exec (.provisionIdentity cert) s = .next (settled (said s 0x3F 4 4 []))) ∧
      (mgmtReady s = true ∨ haltedOther s = true → good → ∃ u, exec (.provisionIdentity cert) s = .next (settled u) ∧ u.ke = { s.ke with cert := cert } ∧ 1 ∈ u.om.pend ∧ u.outs = s.outs ++ [.mgmt [0x3F, 4, 0]]) ∧
      (mgmtReady s = true ∨ haltedOther s = true → ¬ good → exec (.provisionIdentity cert) s = .next (settled (said s 0x3F 4 2 []))))) ∧
  (∀ (s : State) (r : PowerReq), s.om.power = some r →
    let pin := if r.off then 8 else 7
    (r.pulses = 0 → ∃ u, exec .powerReqDrive s = .next (settled u) ∧ u.om.power = some { r with at_ := mer u, pulses := 1 } ∧ u.outs = s.outs ++ [.pin pin 0, .pin pin 1] ∧
      u.clk.cyc = (if 8 ∈ s.om.pend then max s.clk.cyc (cycleAt s (r.at_ + 100000000)) else s.clk.cyc)) ∧
    (r.pulses = 1 ∨ r.pulses = 2 → ∃ u, exec .powerReqRepulse s = .next (settled u) ∧ u.om.power = some { r with at_ := mer u, pulses := r.pulses + 1 } ∧ u.outs = s.outs ++ [.pin pin 0, .pin pin 1] ∧
      u.clk.cyc = max s.clk.cyc (cycleAt s (r.at_ + 5000000000))) ∧
    (3 ≤ r.pulses → exec .powerReqRepulse s = .next (settled s)))


/-- A write to CLK_TIME_SET by a function that may write it: where STATE is FREE and EN of TGE_ADMIT_CTL is 0, Meridian reads the value written, the Tick in progress begins at the last boundary of the schedule that is not after it, and nothing but the clock changes;
otherwise nothing changes but CFG_ERR, which is 1. -/
def Obligations.TimeSetMovesTheSchedule : Prop :=
  ∀ (s : State) (f : Func) (v : Word), isPriv s f = true →
    let free := fg s F.CLK_TIME_STATUS_STATE = 0 ∧ fg s F.TGE_ADMIT_CTL_EN = 0
    (free → ∃ u, exec (.clkTimeSetWrite f v) s = .next (settled u) ∧ u = { s with clk := u.clk } ∧ mer u = v.toNat ∧ (∀ b, isBoundary u b = isBoundary s b) ∧
      ∀ b, b ≤ v.toNat → isBoundary u b = true → b ≤ u.clk.tickMer ∧ u.clk.tickMer ≤ v.toNat ∧ isBoundary u u.clk.tickMer = true) ∧
    (¬ free → ∃ u, exec (.clkTimeSetWrite f v) s = .next (settled u) ∧ RegsOnly s u [regKey .clkTimeStatus 0 0 0] ∧ Holds s u F.CLK_TIME_STATUS_CFG_ERR 1)


/-! ### Encodings -/

namespace Sys2Proof.Claims

/-- A core's instruction as its word spells it: the function code of its row, and nothing that the word does not hold (noise of a drift link, an upset of a queue entry); an
ILLEGAL_INSTR stands for a word that spells nothing else. -/
def Spelt : Instr → Prop
  | .vsmxStep _ i => i.fn = 0
  | .vsmxReset _ i => i.fn = 1
  | .vsmxReadM _ i => i.fn = 2
  | .vsmxReadS _ i => i.fn = 3
  | .vzero _ i => i.fn = 0
  | .vcopy _ i => i.fn = 1
  | .vbcast _ i => i.fn = 2
  | .vext _ i => i.fn = 3
  | .vins _ i => i.fn = 4
  | .dout _ x => x.noise = []
  | .msgRecv _ _ _ _ x => x.upset = []
  | .illegalInstr c w => decodeEdley c w = .illegalInstr c w
  | _ => True

end Sys2Proof.Claims

/-- For every core and every 32-bit word, the word of the command that the decoder reads from it is that word, a reserved one included. For every command of a core that a word spells as it stands, the decoder reads that command from its word. -/
def Obligations.EdleyWordsRoundTrip : Prop :=
  (∀ (c : CoreRef) (w : BitVec 32), encodeEdley (decodeEdley c w) = some w) ∧
  (∀ (i : Instr) (w : BitVec 32), Spelt i → encodeEdley i = some w → ∃ c : CoreRef, decodeEdley c w = i)

/-- For every word and V, and every difference in stored bits and in V, what is read decodes as the difference alone does; the data are the first 64 stored bits; one and two wrong stored bits are corrected. A side-band gives back the flit that it describes. With no passage failed, a packet
from a row's stop to a tile takes its row's rings to the destination's column and then that column's rings, by way of the bridge where the tile is on another die, each time on the ring with fewer hops, and its latency is 4 cycles, its hops, 2 for a turn and 20 for a bridge. -/
def Obligations.CodesOfWordsAndFlits : Prop :=
  (∀ (d : BitVec 64) (v dv : BitVec 48) (e : BitVec 80), (eccEncode d v).setWidth 64 = d ∧ eccRead (eccEncode d v ^^^ e) (v ^^^ dv) = eccDecode e dv) ∧
  (∀ j k, j ≤ k → k < 80 →
    (j = k → eccDecode (BitVec.twoPow 80 k) = .corrected .single [k]) ∧
    (j < k → ∃ l, eccDecode (BitVec.twoPow 80 j ^^^ BitVec.twoPow 80 k) = .corrected .double l ∧ ∀ x, x ∈ l ↔ x = j ∨ x = k)) ∧
  (∀ fl : Flit, flitOf (sideband fl) = some fl) ∧
  (∀ (s : State) (d d' x y x' y' : Nat), (∀ t ∈ s.tiles, t.2.passFail = false) → d < 4 → d' < 4 → x ≤ 18 → 1 ≤ y → y ≤ 16 → 1 ≤ x' → x' ≤ 18 → 1 ≤ y' → y' ≤ 16 →
    let leg := fun (e : Nat) (column : Bool) (ix p q : Nat) => if p = q then [] else [(⟨ringNo e column ix (pickRing (ringStops column) p q), p, q⟩ : Leg)]
    let hops := fun n p q => hopsOn n (pickRing n p q) p q
    let src : Stop := ⟨BitVec.ofNat 2 d, BitVec.ofNat 5 x, BitVec.ofNat 5 y⟩
    let dst : Stop := ⟨BitVec.ofNat 2 d', BitVec.ofNat 5 x', BitVec.ofNat 5 y'⟩
    let turn := fun n => if n = 0 ∨ y = y' then 0 else 2
    (d = d' → ∃ ls, route s src dst = .ok ls ∧ ls = leg d false (y - 1) x x' ++ leg d true (x' - 1) y y' ∧
      routeLatency s ls = 4 + hops 20 x x' + hops 18 y y' + turn (hops 20 x x')) ∧
    (d ≠ d' → ∃ ls, route s src dst = .ok ls ∧ ls = leg d false (y - 1) x 19 ++ leg d' false (y - 1) 19 x' ++ leg d' true (x' - 1) y y' ∧
      routeLatency s ls = 4 + hops 20 x 19 + 20 + hops 20 19 x' + hops 18 y y' + turn 1)) ∧
  (∀ n p q, n = 18 ∨ n = 20 → p < n → q < n → hopsOn n (pickRing n p q) p q ≤ hopsOn n 0 p q ∧ hopsOn n (pickRing n p q) p q ≤ hopsOn n 1 p q ∧
    (hopsOn n 0 p q = hopsOn n 1 p q → pickRing n p q = 0))
end

