-- ==== Sys2Proof/Laws/SMap.lean ====
section
/-! SUPPORT. Sparse maps: a read after an update, and the canonical form that every update keeps. -/

namespace Sys2Proof.Machine

variable {α : Type}

/-- A key reads what was set for it last. -/
@[simp] theorem SMap.find_set_self (m : SMap α) (k : Nat) (v : α) : SMap.find (SMap.set m k v) k = some v := by
  induction m with
  | nil => simp [SMap.set, SMap.find]
  | cons a m ih =>
    obtain ⟨k', v'⟩ := a
    simp only [SMap.set]
    split
    · simp [SMap.find]
    · split
      · simp [SMap.find]
      · rename_i h
        simp [SMap.find, h, ih]

/-- Setting a key leaves every other key as it was. -/
@[simp] theorem SMap.find_set_ne (m : SMap α) {k j : Nat} (v : α) (h : j ≠ k) : SMap.find (SMap.set m k v) j = SMap.find m j := by
  induction m with
  | nil => simp [SMap.set, SMap.find, h]
  | cons a m ih =>
    obtain ⟨k', v'⟩ := a
    simp only [SMap.set]
    split
    · simp [SMap.find, h]
    · split
      · rename_i e
        subst e
        simp [SMap.find, h]
      · simp [SMap.find, ih]

/-- Removing a key leaves every other key as it was. -/
@[simp] theorem SMap.find_erase_ne (m : SMap α) {k j : Nat} (h : j ≠ k) : SMap.find (SMap.erase m k) j = SMap.find m j := by
  induction m with
  | nil => simp [SMap.erase]
  | cons a m ih =>
    obtain ⟨k', v'⟩ := a
    simp only [SMap.erase]
    split
    · rename_i e
      subst e
      simp [SMap.find, h]
    · simp [SMap.find, ih]

/-- The value read after a set, by default value. -/
@[simp] theorem SMap.get_set_self (d : α) (m : SMap α) (k : Nat) (v : α) : SMap.get d (SMap.set m k v) k = v := by simp [SMap.get]

/-- Setting a key leaves the value of every other key. -/
@[simp] theorem SMap.get_set_ne (d : α) (m : SMap α) {k j : Nat} (v : α) (h : j ≠ k) : SMap.get d (SMap.set m k v) j = SMap.get d m j := by
  simp [SMap.get, h]

/-- The first key of a set map is the lesser of the new key and the old first key. -/
theorem SMap.head_set (m : SMap α) (k : Nat) (v : α) :
    ∀ p ∈ (SMap.set m k v).head?, p.1 = k ∨ ∃ q ∈ m.head?, p.1 = q.1 := by
  cases m with
  | nil => simp [SMap.set]
  | cons a m =>
    obtain ⟨k', v'⟩ := a
    simp only [SMap.set]
    split
    · simp
    · split
      · simp
      · simp

/-- A map of rising keys, one more key in front of its first. -/
theorem SMap.wf_cons (k : Nat) (v : α) (m : SMap α) : SMap.wf ((k, v) :: m) = true ↔ (∀ q ∈ m.head?, k < q.1) ∧ SMap.wf m = true := by
  cases m with
  | nil => simp [SMap.wf]
  | cons a m => obtain ⟨k', v'⟩ := a; simp [SMap.wf]

/-- Setting a key keeps the keys rising. -/
theorem SMap.wf_set (m : SMap α) (k : Nat) (v : α) (h : SMap.wf m = true) : SMap.wf (SMap.set m k v) = true := by
  induction m with
  | nil => rfl
  | cons a m ih =>
    obtain ⟨k', v'⟩ := a
    rw [SMap.wf_cons] at h
    simp only [SMap.set]
    split
    · rw [SMap.wf_cons, SMap.wf_cons]
      refine ⟨?_, h⟩
      intro q hq
      simp only [List.head?_cons, Option.mem_some_iff] at hq
      subst hq
      assumption
    · split
      · rename_i e
        subst e
        rw [SMap.wf_cons]
        exact h
      · rw [SMap.wf_cons]
        refine ⟨?_, ih h.2⟩
        intro q hq
        rcases SMap.head_set m k v q hq with e | ⟨r, hr, e⟩
        · rw [e]; omega
        · rw [e]; exact h.1 r hr

/-- A map of rising keys holds no key below its first. -/
theorem SMap.find_lt (m : SMap α) {k j : Nat} {v : α} (h : SMap.wf ((k, v) :: m) = true) (hj : j ≤ k) : SMap.find m j = none := by
  induction m generalizing k v with
  | nil => rfl
  | cons a m ih =>
    obtain ⟨k', v'⟩ := a
    rw [SMap.wf_cons] at h
    have hk : k < k' := h.1 (k', v') rfl
    rw [SMap.find, if_neg (by omega)]
    exact ih h.2 (by omega)

/-- A removed key of a map of rising keys holds nothing. -/
theorem SMap.find_erase_self (m : SMap α) (k : Nat) (h : SMap.wf m = true) : SMap.find (SMap.erase m k) k = none := by
  induction m with
  | nil => rfl
  | cons a m ih =>
    obtain ⟨k', v'⟩ := a
    simp only [SMap.erase]
    split
    · rename_i e
      exact SMap.find_lt m (v := v') h (by omega)
    · rename_i e
      rw [SMap.find, if_neg e]
      exact ih ((SMap.wf_cons k' v' m).1 h).2

/-- Removing a key keeps the keys rising. -/
theorem SMap.wf_erase (m : SMap α) (k : Nat) (h : SMap.wf m = true) : SMap.wf (SMap.erase m k) = true := by
  induction m with
  | nil => rfl
  | cons a m ih =>
    obtain ⟨k', v'⟩ := a
    have ht := (SMap.wf_cons k' v' m).1 h
    simp only [SMap.erase]
    split
    · exact ht.2
    · rw [SMap.wf_cons]
      refine ⟨?_, ih ht.2⟩
      intro q hq
      cases m with
      | nil => simp [SMap.erase] at hq
      | cons b m =>
        obtain ⟨k2, v2⟩ := b
        have h2 : k' < k2 := ht.1 (k2, v2) rfl
        simp only [SMap.erase] at hq
        split at hq
        · cases m with
          | nil => simp at hq
          | cons d m =>
            obtain ⟨k3, v3⟩ := d
            have h3 := ((SMap.wf_cons k2 v2 _).1 ht.2).1 (k3, v3) rfl
            simp only [List.head?_cons, Option.mem_some_iff] at hq
            subst hq
            simp only at h3 ⊢
            omega
        · simp only [List.head?_cons, Option.mem_some_iff] at hq
          subst hq
          exact h2

end Sys2Proof.Machine
end

