-- ==== Sys2Proof/Laws/State.lean ====
section
/-! SUPPORT. What each update of the state leaves as it was: one lemma for each update and field, true by unfolding the update. -/

namespace Sys2Proof.Machine

variable (s : State)

@[simp] theorem wr_pending (r : RegName) (v : Word) (i j fn : Nat) : (wr s r v i j fn).pending = s.pending := rfl
@[simp] theorem wr_mem (r : RegName) (v : Word) (i j fn : Nat) : (wr s r v i j fn).mem = s.mem := rfl
@[simp] theorem wr_flips (r : RegName) (v : Word) (i j fn : Nat) : (wr s r v i j fn).flips = s.flips := rfl
@[simp] theorem wr_clk (r : RegName) (v : Word) (i j fn : Nat) : (wr s r v i j fn).clk = s.clk := rfl
@[simp] theorem wr_tge (r : RegName) (v : Word) (i j fn : Nat) : (wr s r v i j fn).tge = s.tge := rfl
@[simp] theorem wr_tasks (r : RegName) (v : Word) (i j fn : Nat) : (wr s r v i j fn).tasks = s.tasks := rfl
@[simp] theorem wr_cores (r : RegName) (v : Word) (i j fn : Nat) : (wr s r v i j fn).cores = s.cores := rfl
@[simp] theorem wr_ariths (r : RegName) (v : Word) (i j fn : Nat) : (wr s r v i j fn).ariths = s.ariths := rfl
@[simp] theorem wr_tiles (r : RegName) (v : Word) (i j fn : Nat) : (wr s r v i j fn).tiles = s.tiles := rfl
@[simp] theorem wr_dies (r : RegName) (v : Word) (i j fn : Nat) : (wr s r v i j fn).dies = s.dies := rfl
@[simp] theorem wr_apply (r : RegName) (v : Word) (i j fn : Nat) : (wr s r v i j fn).apply = s.apply := rfl
@[simp] theorem wr_parts (r : RegName) (v : Word) (i j fn : Nat) : (wr s r v i j fn).parts = s.parts := rfl
@[simp] theorem wr_recs (r : RegName) (v : Word) (i j fn : Nat) : (wr s r v i j fn).recs = s.recs := rfl
@[simp] theorem wr_logs (r : RegName) (v : Word) (i j fn : Nat) : (wr s r v i j fn).logs = s.logs := rfl
@[simp] theorem wr_outs (r : RegName) (v : Word) (i j fn : Nat) : (wr s r v i j fn).outs = s.outs := rfl
@[simp] theorem wr_vecs (r : RegName) (v : Word) (i j fn : Nat) : (wr s r v i j fn).vecs = s.vecs := rfl
@[simp] theorem wr_numVfs (r : RegName) (v : Word) (i j fn : Nat) : (wr s r v i j fn).numVfs = s.numVfs := rfl
@[simp] theorem wr_free (r : RegName) (v : Word) (i j fn : Nat) : (wr s r v i j fn).free = s.free := rfl
@[simp] theorem wr_seam (r : RegName) (v : Word) (i j fn : Nat) : (wr s r v i j fn).seam = s.seam := rfl
@[simp] theorem wr_haulCtl (r : RegName) (v : Word) (i j fn : Nat) : (wr s r v i j fn).haulCtl = s.haulCtl := rfl
@[simp] theorem wr_flights (r : RegName) (v : Word) (i j fn : Nat) : (wr s r v i j fn).flights = s.flights := rfl
@[simp] theorem wr_outFlits (r : RegName) (v : Word) (i j fn : Nat) : (wr s r v i j fn).outFlits = s.outFlits := rfl
@[simp] theorem wr_mcasts (r : RegName) (v : Word) (i j fn : Nat) : (wr s r v i j fn).mcasts = s.mcasts := rfl
@[simp] theorem wr_nextMc (r : RegName) (v : Word) (i j fn : Nat) : (wr s r v i j fn).nextMc = s.nextMc := rfl
@[simp] theorem wr_rings (r : RegName) (v : Word) (i j fn : Nat) : (wr s r v i j fn).rings = s.rings := rfl
@[simp] theorem wr_memc (r : RegName) (v : Word) (i j fn : Nat) : (wr s r v i j fn).memc = s.memc := rfl
@[simp] theorem wr_links (r : RegName) (v : Word) (i j fn : Nat) : (wr s r v i j fn).links = s.links := rfl
@[simp] theorem wr_xp (r : RegName) (v : Word) (i j fn : Nat) : (wr s r v i j fn).xp = s.xp := rfl
@[simp] theorem wr_sync (r : RegName) (v : Word) (i j fn : Nat) : (wr s r v i j fn).sync = s.sync := rfl
@[simp] theorem wr_dmas (r : RegName) (v : Word) (i j fn : Nat) : (wr s r v i j fn).dmas = s.dmas := rfl
@[simp] theorem wr_bar2 (r : RegName) (v : Word) (i j fn : Nat) : (wr s r v i j fn).bar2 = s.bar2 := rfl
@[simp] theorem wr_d3hot (r : RegName) (v : Word) (i j fn : Nat) : (wr s r v i j fn).d3hot = s.d3hot := rfl
@[simp] theorem wr_cfgs (r : RegName) (v : Word) (i j fn : Nat) : (wr s r v i j fn).cfgs = s.cfgs := rfl
@[simp] theorem wr_shadows (r : RegName) (v : Word) (i j fn : Nat) : (wr s r v i j fn).shadows = s.shadows := rfl
@[simp] theorem wr_patrols (r : RegName) (v : Word) (i j fn : Nat) : (wr s r v i j fn).patrols = s.patrols := rfl
@[simp] theorem wr_fenced (r : RegName) (v : Word) (i j fn : Nat) : (wr s r v i j fn).fenced = s.fenced := rfl
@[simp] theorem wr_mapPend (r : RegName) (v : Word) (i j fn : Nat) : (wr s r v i j fn).mapPend = s.mapPend := rfl
@[simp] theorem wr_om (r : RegName) (v : Word) (i j fn : Nat) : (wr s r v i j fn).om = s.om := rfl
@[simp] theorem wr_ke (r : RegName) (v : Word) (i j fn : Nat) : (wr s r v i j fn).ke = s.ke := rfl

@[simp] theorem fs_pending (f : Fld) (x i j fn : Nat) : (fs s f x i j fn).pending = s.pending := rfl
@[simp] theorem fs_mem (f : Fld) (x i j fn : Nat) : (fs s f x i j fn).mem = s.mem := rfl
@[simp] theorem fs_flips (f : Fld) (x i j fn : Nat) : (fs s f x i j fn).flips = s.flips := rfl
@[simp] theorem fs_clk (f : Fld) (x i j fn : Nat) : (fs s f x i j fn).clk = s.clk := rfl
@[simp] theorem fs_tge (f : Fld) (x i j fn : Nat) : (fs s f x i j fn).tge = s.tge := rfl
@[simp] theorem fs_tasks (f : Fld) (x i j fn : Nat) : (fs s f x i j fn).tasks = s.tasks := rfl
@[simp] theorem fs_cores (f : Fld) (x i j fn : Nat) : (fs s f x i j fn).cores = s.cores := rfl
@[simp] theorem fs_ariths (f : Fld) (x i j fn : Nat) : (fs s f x i j fn).ariths = s.ariths := rfl
@[simp] theorem fs_tiles (f : Fld) (x i j fn : Nat) : (fs s f x i j fn).tiles = s.tiles := rfl
@[simp] theorem fs_dies (f : Fld) (x i j fn : Nat) : (fs s f x i j fn).dies = s.dies := rfl
@[simp] theorem fs_apply (f : Fld) (x i j fn : Nat) : (fs s f x i j fn).apply = s.apply := rfl
@[simp] theorem fs_parts (f : Fld) (x i j fn : Nat) : (fs s f x i j fn).parts = s.parts := rfl
@[simp] theorem fs_recs (f : Fld) (x i j fn : Nat) : (fs s f x i j fn).recs = s.recs := rfl
@[simp] theorem fs_logs (f : Fld) (x i j fn : Nat) : (fs s f x i j fn).logs = s.logs := rfl
@[simp] theorem fs_outs (f : Fld) (x i j fn : Nat) : (fs s f x i j fn).outs = s.outs := rfl
@[simp] theorem fs_vecs (f : Fld) (x i j fn : Nat) : (fs s f x i j fn).vecs = s.vecs := rfl
@[simp] theorem fs_numVfs (f : Fld) (x i j fn : Nat) : (fs s f x i j fn).numVfs = s.numVfs := rfl
@[simp] theorem fs_free (f : Fld) (x i j fn : Nat) : (fs s f x i j fn).free = s.free := rfl
@[simp] theorem fs_seam (f : Fld) (x i j fn : Nat) : (fs s f x i j fn).seam = s.seam := rfl
@[simp] theorem fs_haulCtl (f : Fld) (x i j fn : Nat) : (fs s f x i j fn).haulCtl = s.haulCtl := rfl
@[simp] theorem fs_flights (f : Fld) (x i j fn : Nat) : (fs s f x i j fn).flights = s.flights := rfl
@[simp] theorem fs_outFlits (f : Fld) (x i j fn : Nat) : (fs s f x i j fn).outFlits = s.outFlits := rfl
@[simp] theorem fs_mcasts (f : Fld) (x i j fn : Nat) : (fs s f x i j fn).mcasts = s.mcasts := rfl
@[simp] theorem fs_nextMc (f : Fld) (x i j fn : Nat) : (fs s f x i j fn).nextMc = s.nextMc := rfl
@[simp] theorem fs_rings (f : Fld) (x i j fn : Nat) : (fs s f x i j fn).rings = s.rings := rfl
@[simp] theorem fs_memc (f : Fld) (x i j fn : Nat) : (fs s f x i j fn).memc = s.memc := rfl
@[simp] theorem fs_links (f : Fld) (x i j fn : Nat) : (fs s f x i j fn).links = s.links := rfl
@[simp] theorem fs_xp (f : Fld) (x i j fn : Nat) : (fs s f x i j fn).xp = s.xp := rfl
@[simp] theorem fs_sync (f : Fld) (x i j fn : Nat) : (fs s f x i j fn).sync = s.sync := rfl
@[simp] theorem fs_dmas (f : Fld) (x i j fn : Nat) : (fs s f x i j fn).dmas = s.dmas := rfl
@[simp] theorem fs_bar2 (f : Fld) (x i j fn : Nat) : (fs s f x i j fn).bar2 = s.bar2 := rfl
@[simp] theorem fs_d3hot (f : Fld) (x i j fn : Nat) : (fs s f x i j fn).d3hot = s.d3hot := rfl
@[simp] theorem fs_cfgs (f : Fld) (x i j fn : Nat) : (fs s f x i j fn).cfgs = s.cfgs := rfl
@[simp] theorem fs_shadows (f : Fld) (x i j fn : Nat) : (fs s f x i j fn).shadows = s.shadows := rfl
@[simp] theorem fs_patrols (f : Fld) (x i j fn : Nat) : (fs s f x i j fn).patrols = s.patrols := rfl
@[simp] theorem fs_fenced (f : Fld) (x i j fn : Nat) : (fs s f x i j fn).fenced = s.fenced := rfl
@[simp] theorem fs_mapPend (f : Fld) (x i j fn : Nat) : (fs s f x i j fn).mapPend = s.mapPend := rfl
@[simp] theorem fs_om (f : Fld) (x i j fn : Nat) : (fs s f x i j fn).om = s.om := rfl
@[simp] theorem fs_ke (f : Fld) (x i j fn : Nat) : (fs s f x i j fn).ke = s.ke := rfl

@[simp] theorem finc_pending (f : Fld) (n i j fn : Nat) : (finc s f n i j fn).pending = s.pending := rfl
@[simp] theorem finc_mem (f : Fld) (n i j fn : Nat) : (finc s f n i j fn).mem = s.mem := rfl
@[simp] theorem finc_flips (f : Fld) (n i j fn : Nat) : (finc s f n i j fn).flips = s.flips := rfl
@[simp] theorem finc_clk (f : Fld) (n i j fn : Nat) : (finc s f n i j fn).clk = s.clk := rfl
@[simp] theorem finc_tge (f : Fld) (n i j fn : Nat) : (finc s f n i j fn).tge = s.tge := rfl
@[simp] theorem finc_tasks (f : Fld) (n i j fn : Nat) : (finc s f n i j fn).tasks = s.tasks := rfl
@[simp] theorem finc_cores (f : Fld) (n i j fn : Nat) : (finc s f n i j fn).cores = s.cores := rfl
@[simp] theorem finc_ariths (f : Fld) (n i j fn : Nat) : (finc s f n i j fn).ariths = s.ariths := rfl
@[simp] theorem finc_tiles (f : Fld) (n i j fn : Nat) : (finc s f n i j fn).tiles = s.tiles := rfl
@[simp] theorem finc_dies (f : Fld) (n i j fn : Nat) : (finc s f n i j fn).dies = s.dies := rfl
@[simp] theorem finc_apply (f : Fld) (n i j fn : Nat) : (finc s f n i j fn).apply = s.apply := rfl
@[simp] theorem finc_parts (f : Fld) (n i j fn : Nat) : (finc s f n i j fn).parts = s.parts := rfl
@[simp] theorem finc_recs (f : Fld) (n i j fn : Nat) : (finc s f n i j fn).recs = s.recs := rfl
@[simp] theorem finc_logs (f : Fld) (n i j fn : Nat) : (finc s f n i j fn).logs = s.logs := rfl
@[simp] theorem finc_outs (f : Fld) (n i j fn : Nat) : (finc s f n i j fn).outs = s.outs := rfl
@[simp] theorem finc_vecs (f : Fld) (n i j fn : Nat) : (finc s f n i j fn).vecs = s.vecs := rfl
@[simp] theorem finc_numVfs (f : Fld) (n i j fn : Nat) : (finc s f n i j fn).numVfs = s.numVfs := rfl
@[simp] theorem finc_free (f : Fld) (n i j fn : Nat) : (finc s f n i j fn).free = s.free := rfl
@[simp] theorem finc_seam (f : Fld) (n i j fn : Nat) : (finc s f n i j fn).seam = s.seam := rfl
@[simp] theorem finc_haulCtl (f : Fld) (n i j fn : Nat) : (finc s f n i j fn).haulCtl = s.haulCtl := rfl
@[simp] theorem finc_flights (f : Fld) (n i j fn : Nat) : (finc s f n i j fn).flights = s.flights := rfl
@[simp] theorem finc_outFlits (f : Fld) (n i j fn : Nat) : (finc s f n i j fn).outFlits = s.outFlits := rfl
@[simp] theorem finc_mcasts (f : Fld) (n i j fn : Nat) : (finc s f n i j fn).mcasts = s.mcasts := rfl
@[simp] theorem finc_nextMc (f : Fld) (n i j fn : Nat) : (finc s f n i j fn).nextMc = s.nextMc := rfl
@[simp] theorem finc_rings (f : Fld) (n i j fn : Nat) : (finc s f n i j fn).rings = s.rings := rfl
@[simp] theorem finc_memc (f : Fld) (n i j fn : Nat) : (finc s f n i j fn).memc = s.memc := rfl
@[simp] theorem finc_links (f : Fld) (n i j fn : Nat) : (finc s f n i j fn).links = s.links := rfl
@[simp] theorem finc_xp (f : Fld) (n i j fn : Nat) : (finc s f n i j fn).xp = s.xp := rfl
@[simp] theorem finc_sync (f : Fld) (n i j fn : Nat) : (finc s f n i j fn).sync = s.sync := rfl
@[simp] theorem finc_dmas (f : Fld) (n i j fn : Nat) : (finc s f n i j fn).dmas = s.dmas := rfl
@[simp] theorem finc_bar2 (f : Fld) (n i j fn : Nat) : (finc s f n i j fn).bar2 = s.bar2 := rfl
@[simp] theorem finc_d3hot (f : Fld) (n i j fn : Nat) : (finc s f n i j fn).d3hot = s.d3hot := rfl
@[simp] theorem finc_cfgs (f : Fld) (n i j fn : Nat) : (finc s f n i j fn).cfgs = s.cfgs := rfl
@[simp] theorem finc_shadows (f : Fld) (n i j fn : Nat) : (finc s f n i j fn).shadows = s.shadows := rfl
@[simp] theorem finc_patrols (f : Fld) (n i j fn : Nat) : (finc s f n i j fn).patrols = s.patrols := rfl
@[simp] theorem finc_fenced (f : Fld) (n i j fn : Nat) : (finc s f n i j fn).fenced = s.fenced := rfl
@[simp] theorem finc_mapPend (f : Fld) (n i j fn : Nat) : (finc s f n i j fn).mapPend = s.mapPend := rfl
@[simp] theorem finc_om (f : Fld) (n i j fn : Nat) : (finc s f n i j fn).om = s.om := rfl
@[simp] theorem finc_ke (f : Fld) (n i j fn : Nat) : (finc s f n i j fn).ke = s.ke := rfl

@[simp] theorem setTile_pending (n : Nat) (t : Tile) : (setTile s n t).pending = s.pending := rfl
@[simp] theorem setTile_regs (n : Nat) (t : Tile) : (setTile s n t).regs = s.regs := rfl
@[simp] theorem setTile_mem (n : Nat) (t : Tile) : (setTile s n t).mem = s.mem := rfl
@[simp] theorem setTile_flips (n : Nat) (t : Tile) : (setTile s n t).flips = s.flips := rfl
@[simp] theorem setTile_clk (n : Nat) (t : Tile) : (setTile s n t).clk = s.clk := rfl
@[simp] theorem setTile_tge (n : Nat) (t : Tile) : (setTile s n t).tge = s.tge := rfl
@[simp] theorem setTile_tasks (n : Nat) (t : Tile) : (setTile s n t).tasks = s.tasks := rfl
@[simp] theorem setTile_cores (n : Nat) (t : Tile) : (setTile s n t).cores = s.cores := rfl
@[simp] theorem setTile_ariths (n : Nat) (t : Tile) : (setTile s n t).ariths = s.ariths := rfl
@[simp] theorem setTile_dies (n : Nat) (t : Tile) : (setTile s n t).dies = s.dies := rfl
@[simp] theorem setTile_apply (n : Nat) (t : Tile) : (setTile s n t).apply = s.apply := rfl
@[simp] theorem setTile_parts (n : Nat) (t : Tile) : (setTile s n t).parts = s.parts := rfl
@[simp] theorem setTile_recs (n : Nat) (t : Tile) : (setTile s n t).recs = s.recs := rfl
@[simp] theorem setTile_logs (n : Nat) (t : Tile) : (setTile s n t).logs = s.logs := rfl
@[simp] theorem setTile_outs (n : Nat) (t : Tile) : (setTile s n t).outs = s.outs := rfl
@[simp] theorem setTile_vecs (n : Nat) (t : Tile) : (setTile s n t).vecs = s.vecs := rfl
@[simp] theorem setTile_numVfs (n : Nat) (t : Tile) : (setTile s n t).numVfs = s.numVfs := rfl
@[simp] theorem setTile_free (n : Nat) (t : Tile) : (setTile s n t).free = s.free := rfl
@[simp] theorem setTile_seam (n : Nat) (t : Tile) : (setTile s n t).seam = s.seam := rfl
@[simp] theorem setTile_haulCtl (n : Nat) (t : Tile) : (setTile s n t).haulCtl = s.haulCtl := rfl
@[simp] theorem setTile_flights (n : Nat) (t : Tile) : (setTile s n t).flights = s.flights := rfl
@[simp] theorem setTile_outFlits (n : Nat) (t : Tile) : (setTile s n t).outFlits = s.outFlits := rfl
@[simp] theorem setTile_mcasts (n : Nat) (t : Tile) : (setTile s n t).mcasts = s.mcasts := rfl
@[simp] theorem setTile_nextMc (n : Nat) (t : Tile) : (setTile s n t).nextMc = s.nextMc := rfl
@[simp] theorem setTile_rings (n : Nat) (t : Tile) : (setTile s n t).rings = s.rings := rfl
@[simp] theorem setTile_memc (n : Nat) (t : Tile) : (setTile s n t).memc = s.memc := rfl
@[simp] theorem setTile_links (n : Nat) (t : Tile) : (setTile s n t).links = s.links := rfl
@[simp] theorem setTile_xp (n : Nat) (t : Tile) : (setTile s n t).xp = s.xp := rfl
@[simp] theorem setTile_sync (n : Nat) (t : Tile) : (setTile s n t).sync = s.sync := rfl
@[simp] theorem setTile_dmas (n : Nat) (t : Tile) : (setTile s n t).dmas = s.dmas := rfl
@[simp] theorem setTile_bar2 (n : Nat) (t : Tile) : (setTile s n t).bar2 = s.bar2 := rfl
@[simp] theorem setTile_d3hot (n : Nat) (t : Tile) : (setTile s n t).d3hot = s.d3hot := rfl
@[simp] theorem setTile_cfgs (n : Nat) (t : Tile) : (setTile s n t).cfgs = s.cfgs := rfl
@[simp] theorem setTile_shadows (n : Nat) (t : Tile) : (setTile s n t).shadows = s.shadows := rfl
@[simp] theorem setTile_patrols (n : Nat) (t : Tile) : (setTile s n t).patrols = s.patrols := rfl
@[simp] theorem setTile_fenced (n : Nat) (t : Tile) : (setTile s n t).fenced = s.fenced := rfl
@[simp] theorem setTile_mapPend (n : Nat) (t : Tile) : (setTile s n t).mapPend = s.mapPend := rfl
@[simp] theorem setTile_om (n : Nat) (t : Tile) : (setTile s n t).om = s.om := rfl
@[simp] theorem setTile_ke (n : Nat) (t : Tile) : (setTile s n t).ke = s.ke := rfl

@[simp] theorem updTile_pending (n : Nat) (f : Tile → Tile) : (updTile s n f).pending = s.pending := rfl
@[simp] theorem updTile_regs (n : Nat) (f : Tile → Tile) : (updTile s n f).regs = s.regs := rfl
@[simp] theorem updTile_mem (n : Nat) (f : Tile → Tile) : (updTile s n f).mem = s.mem := rfl
@[simp] theorem updTile_flips (n : Nat) (f : Tile → Tile) : (updTile s n f).flips = s.flips := rfl
@[simp] theorem updTile_clk (n : Nat) (f : Tile → Tile) : (updTile s n f).clk = s.clk := rfl
@[simp] theorem updTile_tge (n : Nat) (f : Tile → Tile) : (updTile s n f).tge = s.tge := rfl
@[simp] theorem updTile_tasks (n : Nat) (f : Tile → Tile) : (updTile s n f).tasks = s.tasks := rfl
@[simp] theorem updTile_cores (n : Nat) (f : Tile → Tile) : (updTile s n f).cores = s.cores := rfl
@[simp] theorem updTile_ariths (n : Nat) (f : Tile → Tile) : (updTile s n f).ariths = s.ariths := rfl
@[simp] theorem updTile_dies (n : Nat) (f : Tile → Tile) : (updTile s n f).dies = s.dies := rfl
@[simp] theorem updTile_apply (n : Nat) (f : Tile → Tile) : (updTile s n f).apply = s.apply := rfl
@[simp] theorem updTile_parts (n : Nat) (f : Tile → Tile) : (updTile s n f).parts = s.parts := rfl
@[simp] theorem updTile_recs (n : Nat) (f : Tile → Tile) : (updTile s n f).recs = s.recs := rfl
@[simp] theorem updTile_logs (n : Nat) (f : Tile → Tile) : (updTile s n f).logs = s.logs := rfl
@[simp] theorem updTile_outs (n : Nat) (f : Tile → Tile) : (updTile s n f).outs = s.outs := rfl
@[simp] theorem updTile_vecs (n : Nat) (f : Tile → Tile) : (updTile s n f).vecs = s.vecs := rfl
@[simp] theorem updTile_numVfs (n : Nat) (f : Tile → Tile) : (updTile s n f).numVfs = s.numVfs := rfl
@[simp] theorem updTile_free (n : Nat) (f : Tile → Tile) : (updTile s n f).free = s.free := rfl
@[simp] theorem updTile_seam (n : Nat) (f : Tile → Tile) : (updTile s n f).seam = s.seam := rfl
@[simp] theorem updTile_haulCtl (n : Nat) (f : Tile → Tile) : (updTile s n f).haulCtl = s.haulCtl := rfl
@[simp] theorem updTile_flights (n : Nat) (f : Tile → Tile) : (updTile s n f).flights = s.flights := rfl
@[simp] theorem updTile_outFlits (n : Nat) (f : Tile → Tile) : (updTile s n f).outFlits = s.outFlits := rfl
@[simp] theorem updTile_mcasts (n : Nat) (f : Tile → Tile) : (updTile s n f).mcasts = s.mcasts := rfl
@[simp] theorem updTile_nextMc (n : Nat) (f : Tile → Tile) : (updTile s n f).nextMc = s.nextMc := rfl
@[simp] theorem updTile_rings (n : Nat) (f : Tile → Tile) : (updTile s n f).rings = s.rings := rfl
@[simp] theorem updTile_memc (n : Nat) (f : Tile → Tile) : (updTile s n f).memc = s.memc := rfl
@[simp] theorem updTile_links (n : Nat) (f : Tile → Tile) : (updTile s n f).links = s.links := rfl
@[simp] theorem updTile_xp (n : Nat) (f : Tile → Tile) : (updTile s n f).xp = s.xp := rfl
@[simp] theorem updTile_sync (n : Nat) (f : Tile → Tile) : (updTile s n f).sync = s.sync := rfl
@[simp] theorem updTile_dmas (n : Nat) (f : Tile → Tile) : (updTile s n f).dmas = s.dmas := rfl
@[simp] theorem updTile_bar2 (n : Nat) (f : Tile → Tile) : (updTile s n f).bar2 = s.bar2 := rfl
@[simp] theorem updTile_d3hot (n : Nat) (f : Tile → Tile) : (updTile s n f).d3hot = s.d3hot := rfl
@[simp] theorem updTile_cfgs (n : Nat) (f : Tile → Tile) : (updTile s n f).cfgs = s.cfgs := rfl
@[simp] theorem updTile_shadows (n : Nat) (f : Tile → Tile) : (updTile s n f).shadows = s.shadows := rfl
@[simp] theorem updTile_patrols (n : Nat) (f : Tile → Tile) : (updTile s n f).patrols = s.patrols := rfl
@[simp] theorem updTile_fenced (n : Nat) (f : Tile → Tile) : (updTile s n f).fenced = s.fenced := rfl
@[simp] theorem updTile_mapPend (n : Nat) (f : Tile → Tile) : (updTile s n f).mapPend = s.mapPend := rfl
@[simp] theorem updTile_om (n : Nat) (f : Tile → Tile) : (updTile s n f).om = s.om := rfl
@[simp] theorem updTile_ke (n : Nat) (f : Tile → Tile) : (updTile s n f).ke = s.ke := rfl

@[simp] theorem setCore_pending (c : CoreRef) (x : Core) : (setCore s c x).pending = s.pending := rfl
@[simp] theorem setCore_regs (c : CoreRef) (x : Core) : (setCore s c x).regs = s.regs := rfl
@[simp] theorem setCore_mem (c : CoreRef) (x : Core) : (setCore s c x).mem = s.mem := rfl
@[simp] theorem setCore_flips (c : CoreRef) (x : Core) : (setCore s c x).flips = s.flips := rfl
@[simp] theorem setCore_clk (c : CoreRef) (x : Core) : (setCore s c x).clk = s.clk := rfl
@[simp] theorem setCore_tge (c : CoreRef) (x : Core) : (setCore s c x).tge = s.tge := rfl
@[simp] theorem setCore_tasks (c : CoreRef) (x : Core) : (setCore s c x).tasks = s.tasks := rfl
@[simp] theorem setCore_ariths (c : CoreRef) (x : Core) : (setCore s c x).ariths = s.ariths := rfl
@[simp] theorem setCore_tiles (c : CoreRef) (x : Core) : (setCore s c x).tiles = s.tiles := rfl
@[simp] theorem setCore_dies (c : CoreRef) (x : Core) : (setCore s c x).dies = s.dies := rfl
@[simp] theorem setCore_apply (c : CoreRef) (x : Core) : (setCore s c x).apply = s.apply := rfl
@[simp] theorem setCore_parts (c : CoreRef) (x : Core) : (setCore s c x).parts = s.parts := rfl
@[simp] theorem setCore_recs (c : CoreRef) (x : Core) : (setCore s c x).recs = s.recs := rfl
@[simp] theorem setCore_logs (c : CoreRef) (x : Core) : (setCore s c x).logs = s.logs := rfl
@[simp] theorem setCore_outs (c : CoreRef) (x : Core) : (setCore s c x).outs = s.outs := rfl
@[simp] theorem setCore_vecs (c : CoreRef) (x : Core) : (setCore s c x).vecs = s.vecs := rfl
@[simp] theorem setCore_numVfs (c : CoreRef) (x : Core) : (setCore s c x).numVfs = s.numVfs := rfl
@[simp] theorem setCore_free (c : CoreRef) (x : Core) : (setCore s c x).free = s.free := rfl
@[simp] theorem setCore_seam (c : CoreRef) (x : Core) : (setCore s c x).seam = s.seam := rfl
@[simp] theorem setCore_haulCtl (c : CoreRef) (x : Core) : (setCore s c x).haulCtl = s.haulCtl := rfl
@[simp] theorem setCore_flights (c : CoreRef) (x : Core) : (setCore s c x).flights = s.flights := rfl
@[simp] theorem setCore_outFlits (c : CoreRef) (x : Core) : (setCore s c x).outFlits = s.outFlits := rfl
@[simp] theorem setCore_mcasts (c : CoreRef) (x : Core) : (setCore s c x).mcasts = s.mcasts := rfl
@[simp] theorem setCore_nextMc (c : CoreRef) (x : Core) : (setCore s c x).nextMc = s.nextMc := rfl
@[simp] theorem setCore_rings (c : CoreRef) (x : Core) : (setCore s c x).rings = s.rings := rfl
@[simp] theorem setCore_memc (c : CoreRef) (x : Core) : (setCore s c x).memc = s.memc := rfl
@[simp] theorem setCore_links (c : CoreRef) (x : Core) : (setCore s c x).links = s.links := rfl
@[simp] theorem setCore_xp (c : CoreRef) (x : Core) : (setCore s c x).xp = s.xp := rfl
@[simp] theorem setCore_sync (c : CoreRef) (x : Core) : (setCore s c x).sync = s.sync := rfl
@[simp] theorem setCore_dmas (c : CoreRef) (x : Core) : (setCore s c x).dmas = s.dmas := rfl
@[simp] theorem setCore_bar2 (c : CoreRef) (x : Core) : (setCore s c x).bar2 = s.bar2 := rfl
@[simp] theorem setCore_d3hot (c : CoreRef) (x : Core) : (setCore s c x).d3hot = s.d3hot := rfl
@[simp] theorem setCore_cfgs (c : CoreRef) (x : Core) : (setCore s c x).cfgs = s.cfgs := rfl
@[simp] theorem setCore_shadows (c : CoreRef) (x : Core) : (setCore s c x).shadows = s.shadows := rfl
@[simp] theorem setCore_patrols (c : CoreRef) (x : Core) : (setCore s c x).patrols = s.patrols := rfl
@[simp] theorem setCore_fenced (c : CoreRef) (x : Core) : (setCore s c x).fenced = s.fenced := rfl
@[simp] theorem setCore_mapPend (c : CoreRef) (x : Core) : (setCore s c x).mapPend = s.mapPend := rfl
@[simp] theorem setCore_om (c : CoreRef) (x : Core) : (setCore s c x).om = s.om := rfl
@[simp] theorem setCore_ke (c : CoreRef) (x : Core) : (setCore s c x).ke = s.ke := rfl

@[simp] theorem updCore_pending (c : CoreRef) (f : Core → Core) : (updCore s c f).pending = s.pending := rfl
@[simp] theorem updCore_regs (c : CoreRef) (f : Core → Core) : (updCore s c f).regs = s.regs := rfl
@[simp] theorem updCore_mem (c : CoreRef) (f : Core → Core) : (updCore s c f).mem = s.mem := rfl
@[simp] theorem updCore_flips (c : CoreRef) (f : Core → Core) : (updCore s c f).flips = s.flips := rfl
@[simp] theorem updCore_clk (c : CoreRef) (f : Core → Core) : (updCore s c f).clk = s.clk := rfl
@[simp] theorem updCore_tge (c : CoreRef) (f : Core → Core) : (updCore s c f).tge = s.tge := rfl
@[simp] theorem updCore_tasks (c : CoreRef) (f : Core → Core) : (updCore s c f).tasks = s.tasks := rfl
@[simp] theorem updCore_ariths (c : CoreRef) (f : Core → Core) : (updCore s c f).ariths = s.ariths := rfl
@[simp] theorem updCore_tiles (c : CoreRef) (f : Core → Core) : (updCore s c f).tiles = s.tiles := rfl
@[simp] theorem updCore_dies (c : CoreRef) (f : Core → Core) : (updCore s c f).dies = s.dies := rfl
@[simp] theorem updCore_apply (c : CoreRef) (f : Core → Core) : (updCore s c f).apply = s.apply := rfl
@[simp] theorem updCore_parts (c : CoreRef) (f : Core → Core) : (updCore s c f).parts = s.parts := rfl
@[simp] theorem updCore_recs (c : CoreRef) (f : Core → Core) : (updCore s c f).recs = s.recs := rfl
@[simp] theorem updCore_logs (c : CoreRef) (f : Core → Core) : (updCore s c f).logs = s.logs := rfl
@[simp] theorem updCore_outs (c : CoreRef) (f : Core → Core) : (updCore s c f).outs = s.outs := rfl
@[simp] theorem updCore_vecs (c : CoreRef) (f : Core → Core) : (updCore s c f).vecs = s.vecs := rfl
@[simp] theorem updCore_numVfs (c : CoreRef) (f : Core → Core) : (updCore s c f).numVfs = s.numVfs := rfl
@[simp] theorem updCore_free (c : CoreRef) (f : Core → Core) : (updCore s c f).free = s.free := rfl
@[simp] theorem updCore_seam (c : CoreRef) (f : Core → Core) : (updCore s c f).seam = s.seam := rfl
@[simp] theorem updCore_haulCtl (c : CoreRef) (f : Core → Core) : (updCore s c f).haulCtl = s.haulCtl := rfl
@[simp] theorem updCore_flights (c : CoreRef) (f : Core → Core) : (updCore s c f).flights = s.flights := rfl
@[simp] theorem updCore_outFlits (c : CoreRef) (f : Core → Core) : (updCore s c f).outFlits = s.outFlits := rfl
@[simp] theorem updCore_mcasts (c : CoreRef) (f : Core → Core) : (updCore s c f).mcasts = s.mcasts := rfl
@[simp] theorem updCore_nextMc (c : CoreRef) (f : Core → Core) : (updCore s c f).nextMc = s.nextMc := rfl
@[simp] theorem updCore_rings (c : CoreRef) (f : Core → Core) : (updCore s c f).rings = s.rings := rfl
@[simp] theorem updCore_memc (c : CoreRef) (f : Core → Core) : (updCore s c f).memc = s.memc := rfl
@[simp] theorem updCore_links (c : CoreRef) (f : Core → Core) : (updCore s c f).links = s.links := rfl
@[simp] theorem updCore_xp (c : CoreRef) (f : Core → Core) : (updCore s c f).xp = s.xp := rfl
@[simp] theorem updCore_sync (c : CoreRef) (f : Core → Core) : (updCore s c f).sync = s.sync := rfl
@[simp] theorem updCore_dmas (c : CoreRef) (f : Core → Core) : (updCore s c f).dmas = s.dmas := rfl
@[simp] theorem updCore_bar2 (c : CoreRef) (f : Core → Core) : (updCore s c f).bar2 = s.bar2 := rfl
@[simp] theorem updCore_d3hot (c : CoreRef) (f : Core → Core) : (updCore s c f).d3hot = s.d3hot := rfl
@[simp] theorem updCore_cfgs (c : CoreRef) (f : Core → Core) : (updCore s c f).cfgs = s.cfgs := rfl
@[simp] theorem updCore_shadows (c : CoreRef) (f : Core → Core) : (updCore s c f).shadows = s.shadows := rfl
@[simp] theorem updCore_patrols (c : CoreRef) (f : Core → Core) : (updCore s c f).patrols = s.patrols := rfl
@[simp] theorem updCore_fenced (c : CoreRef) (f : Core → Core) : (updCore s c f).fenced = s.fenced := rfl
@[simp] theorem updCore_mapPend (c : CoreRef) (f : Core → Core) : (updCore s c f).mapPend = s.mapPend := rfl
@[simp] theorem updCore_om (c : CoreRef) (f : Core → Core) : (updCore s c f).om = s.om := rfl
@[simp] theorem updCore_ke (c : CoreRef) (f : Core → Core) : (updCore s c f).ke = s.ke := rfl

@[simp] theorem setArith_pending (n : Nat) (a : Arith) : (setArith s n a).pending = s.pending := rfl
@[simp] theorem setArith_regs (n : Nat) (a : Arith) : (setArith s n a).regs = s.regs := rfl
@[simp] theorem setArith_mem (n : Nat) (a : Arith) : (setArith s n a).mem = s.mem := rfl
@[simp] theorem setArith_flips (n : Nat) (a : Arith) : (setArith s n a).flips = s.flips := rfl
@[simp] theorem setArith_clk (n : Nat) (a : Arith) : (setArith s n a).clk = s.clk := rfl
@[simp] theorem setArith_tge (n : Nat) (a : Arith) : (setArith s n a).tge = s.tge := rfl
@[simp] theorem setArith_tasks (n : Nat) (a : Arith) : (setArith s n a).tasks = s.tasks := rfl
@[simp] theorem setArith_cores (n : Nat) (a : Arith) : (setArith s n a).cores = s.cores := rfl
@[simp] theorem setArith_tiles (n : Nat) (a : Arith) : (setArith s n a).tiles = s.tiles := rfl
@[simp] theorem setArith_dies (n : Nat) (a : Arith) : (setArith s n a).dies = s.dies := rfl
@[simp] theorem setArith_apply (n : Nat) (a : Arith) : (setArith s n a).apply = s.apply := rfl
@[simp] theorem setArith_parts (n : Nat) (a : Arith) : (setArith s n a).parts = s.parts := rfl
@[simp] theorem setArith_recs (n : Nat) (a : Arith) : (setArith s n a).recs = s.recs := rfl
@[simp] theorem setArith_logs (n : Nat) (a : Arith) : (setArith s n a).logs = s.logs := rfl
@[simp] theorem setArith_outs (n : Nat) (a : Arith) : (setArith s n a).outs = s.outs := rfl
@[simp] theorem setArith_vecs (n : Nat) (a : Arith) : (setArith s n a).vecs = s.vecs := rfl
@[simp] theorem setArith_numVfs (n : Nat) (a : Arith) : (setArith s n a).numVfs = s.numVfs := rfl
@[simp] theorem setArith_free (n : Nat) (a : Arith) : (setArith s n a).free = s.free := rfl
@[simp] theorem setArith_seam (n : Nat) (a : Arith) : (setArith s n a).seam = s.seam := rfl
@[simp] theorem setArith_haulCtl (n : Nat) (a : Arith) : (setArith s n a).haulCtl = s.haulCtl := rfl
@[simp] theorem setArith_flights (n : Nat) (a : Arith) : (setArith s n a).flights = s.flights := rfl
@[simp] theorem setArith_outFlits (n : Nat) (a : Arith) : (setArith s n a).outFlits = s.outFlits := rfl
@[simp] theorem setArith_mcasts (n : Nat) (a : Arith) : (setArith s n a).mcasts = s.mcasts := rfl
@[simp] theorem setArith_nextMc (n : Nat) (a : Arith) : (setArith s n a).nextMc = s.nextMc := rfl
@[simp] theorem setArith_rings (n : Nat) (a : Arith) : (setArith s n a).rings = s.rings := rfl
@[simp] theorem setArith_memc (n : Nat) (a : Arith) : (setArith s n a).memc = s.memc := rfl
@[simp] theorem setArith_links (n : Nat) (a : Arith) : (setArith s n a).links = s.links := rfl
@[simp] theorem setArith_xp (n : Nat) (a : Arith) : (setArith s n a).xp = s.xp := rfl
@[simp] theorem setArith_sync (n : Nat) (a : Arith) : (setArith s n a).sync = s.sync := rfl
@[simp] theorem setArith_dmas (n : Nat) (a : Arith) : (setArith s n a).dmas = s.dmas := rfl
@[simp] theorem setArith_bar2 (n : Nat) (a : Arith) : (setArith s n a).bar2 = s.bar2 := rfl
@[simp] theorem setArith_d3hot (n : Nat) (a : Arith) : (setArith s n a).d3hot = s.d3hot := rfl
@[simp] theorem setArith_cfgs (n : Nat) (a : Arith) : (setArith s n a).cfgs = s.cfgs := rfl
@[simp] theorem setArith_shadows (n : Nat) (a : Arith) : (setArith s n a).shadows = s.shadows := rfl
@[simp] theorem setArith_patrols (n : Nat) (a : Arith) : (setArith s n a).patrols = s.patrols := rfl
@[simp] theorem setArith_fenced (n : Nat) (a : Arith) : (setArith s n a).fenced = s.fenced := rfl
@[simp] theorem setArith_mapPend (n : Nat) (a : Arith) : (setArith s n a).mapPend = s.mapPend := rfl
@[simp] theorem setArith_om (n : Nat) (a : Arith) : (setArith s n a).om = s.om := rfl
@[simp] theorem setArith_ke (n : Nat) (a : Arith) : (setArith s n a).ke = s.ke := rfl

@[simp] theorem setPart_pending (p : Nat) (x : Part) : (setPart s p x).pending = s.pending := rfl
@[simp] theorem setPart_regs (p : Nat) (x : Part) : (setPart s p x).regs = s.regs := rfl
@[simp] theorem setPart_mem (p : Nat) (x : Part) : (setPart s p x).mem = s.mem := rfl
@[simp] theorem setPart_flips (p : Nat) (x : Part) : (setPart s p x).flips = s.flips := rfl
@[simp] theorem setPart_clk (p : Nat) (x : Part) : (setPart s p x).clk = s.clk := rfl
@[simp] theorem setPart_tge (p : Nat) (x : Part) : (setPart s p x).tge = s.tge := rfl
@[simp] theorem setPart_tasks (p : Nat) (x : Part) : (setPart s p x).tasks = s.tasks := rfl
@[simp] theorem setPart_cores (p : Nat) (x : Part) : (setPart s p x).cores = s.cores := rfl
@[simp] theorem setPart_ariths (p : Nat) (x : Part) : (setPart s p x).ariths = s.ariths := rfl
@[simp] theorem setPart_tiles (p : Nat) (x : Part) : (setPart s p x).tiles = s.tiles := rfl
@[simp] theorem setPart_dies (p : Nat) (x : Part) : (setPart s p x).dies = s.dies := rfl
@[simp] theorem setPart_apply (p : Nat) (x : Part) : (setPart s p x).apply = s.apply := rfl
@[simp] theorem setPart_recs (p : Nat) (x : Part) : (setPart s p x).recs = s.recs := rfl
@[simp] theorem setPart_logs (p : Nat) (x : Part) : (setPart s p x).logs = s.logs := rfl
@[simp] theorem setPart_outs (p : Nat) (x : Part) : (setPart s p x).outs = s.outs := rfl
@[simp] theorem setPart_vecs (p : Nat) (x : Part) : (setPart s p x).vecs = s.vecs := rfl
@[simp] theorem setPart_numVfs (p : Nat) (x : Part) : (setPart s p x).numVfs = s.numVfs := rfl
@[simp] theorem setPart_free (p : Nat) (x : Part) : (setPart s p x).free = s.free := rfl
@[simp] theorem setPart_seam (p : Nat) (x : Part) : (setPart s p x).seam = s.seam := rfl
@[simp] theorem setPart_haulCtl (p : Nat) (x : Part) : (setPart s p x).haulCtl = s.haulCtl := rfl
@[simp] theorem setPart_flights (p : Nat) (x : Part) : (setPart s p x).flights = s.flights := rfl
@[simp] theorem setPart_outFlits (p : Nat) (x : Part) : (setPart s p x).outFlits = s.outFlits := rfl
@[simp] theorem setPart_mcasts (p : Nat) (x : Part) : (setPart s p x).mcasts = s.mcasts := rfl
@[simp] theorem setPart_nextMc (p : Nat) (x : Part) : (setPart s p x).nextMc = s.nextMc := rfl
@[simp] theorem setPart_rings (p : Nat) (x : Part) : (setPart s p x).rings = s.rings := rfl
@[simp] theorem setPart_memc (p : Nat) (x : Part) : (setPart s p x).memc = s.memc := rfl
@[simp] theorem setPart_links (p : Nat) (x : Part) : (setPart s p x).links = s.links := rfl
@[simp] theorem setPart_xp (p : Nat) (x : Part) : (setPart s p x).xp = s.xp := rfl
@[simp] theorem setPart_sync (p : Nat) (x : Part) : (setPart s p x).sync = s.sync := rfl
@[simp] theorem setPart_dmas (p : Nat) (x : Part) : (setPart s p x).dmas = s.dmas := rfl
@[simp] theorem setPart_bar2 (p : Nat) (x : Part) : (setPart s p x).bar2 = s.bar2 := rfl
@[simp] theorem setPart_d3hot (p : Nat) (x : Part) : (setPart s p x).d3hot = s.d3hot := rfl
@[simp] theorem setPart_cfgs (p : Nat) (x : Part) : (setPart s p x).cfgs = s.cfgs := rfl
@[simp] theorem setPart_shadows (p : Nat) (x : Part) : (setPart s p x).shadows = s.shadows := rfl
@[simp] theorem setPart_patrols (p : Nat) (x : Part) : (setPart s p x).patrols = s.patrols := rfl
@[simp] theorem setPart_fenced (p : Nat) (x : Part) : (setPart s p x).fenced = s.fenced := rfl
@[simp] theorem setPart_mapPend (p : Nat) (x : Part) : (setPart s p x).mapPend = s.mapPend := rfl
@[simp] theorem setPart_om (p : Nat) (x : Part) : (setPart s p x).om = s.om := rfl
@[simp] theorem setPart_ke (p : Nat) (x : Part) : (setPart s p x).ke = s.ke := rfl

@[simp] theorem updTge_pending (f : Tge → Tge) : (updTge s f).pending = s.pending := rfl
@[simp] theorem updTge_regs (f : Tge → Tge) : (updTge s f).regs = s.regs := rfl
@[simp] theorem updTge_mem (f : Tge → Tge) : (updTge s f).mem = s.mem := rfl
@[simp] theorem updTge_flips (f : Tge → Tge) : (updTge s f).flips = s.flips := rfl
@[simp] theorem updTge_clk (f : Tge → Tge) : (updTge s f).clk = s.clk := rfl
@[simp] theorem updTge_tasks (f : Tge → Tge) : (updTge s f).tasks = s.tasks := rfl
@[simp] theorem updTge_cores (f : Tge → Tge) : (updTge s f).cores = s.cores := rfl
@[simp] theorem updTge_ariths (f : Tge → Tge) : (updTge s f).ariths = s.ariths := rfl
@[simp] theorem updTge_tiles (f : Tge → Tge) : (updTge s f).tiles = s.tiles := rfl
@[simp] theorem updTge_dies (f : Tge → Tge) : (updTge s f).dies = s.dies := rfl
@[simp] theorem updTge_apply (f : Tge → Tge) : (updTge s f).apply = s.apply := rfl
@[simp] theorem updTge_parts (f : Tge → Tge) : (updTge s f).parts = s.parts := rfl
@[simp] theorem updTge_recs (f : Tge → Tge) : (updTge s f).recs = s.recs := rfl
@[simp] theorem updTge_logs (f : Tge → Tge) : (updTge s f).logs = s.logs := rfl
@[simp] theorem updTge_outs (f : Tge → Tge) : (updTge s f).outs = s.outs := rfl
@[simp] theorem updTge_vecs (f : Tge → Tge) : (updTge s f).vecs = s.vecs := rfl
@[simp] theorem updTge_numVfs (f : Tge → Tge) : (updTge s f).numVfs = s.numVfs := rfl
@[simp] theorem updTge_free (f : Tge → Tge) : (updTge s f).free = s.free := rfl
@[simp] theorem updTge_seam (f : Tge → Tge) : (updTge s f).seam = s.seam := rfl
@[simp] theorem updTge_haulCtl (f : Tge → Tge) : (updTge s f).haulCtl = s.haulCtl := rfl
@[simp] theorem updTge_flights (f : Tge → Tge) : (updTge s f).flights = s.flights := rfl
@[simp] theorem updTge_outFlits (f : Tge → Tge) : (updTge s f).outFlits = s.outFlits := rfl
@[simp] theorem updTge_mcasts (f : Tge → Tge) : (updTge s f).mcasts = s.mcasts := rfl
@[simp] theorem updTge_nextMc (f : Tge → Tge) : (updTge s f).nextMc = s.nextMc := rfl
@[simp] theorem updTge_rings (f : Tge → Tge) : (updTge s f).rings = s.rings := rfl
@[simp] theorem updTge_memc (f : Tge → Tge) : (updTge s f).memc = s.memc := rfl
@[simp] theorem updTge_links (f : Tge → Tge) : (updTge s f).links = s.links := rfl
@[simp] theorem updTge_xp (f : Tge → Tge) : (updTge s f).xp = s.xp := rfl
@[simp] theorem updTge_sync (f : Tge → Tge) : (updTge s f).sync = s.sync := rfl
@[simp] theorem updTge_dmas (f : Tge → Tge) : (updTge s f).dmas = s.dmas := rfl
@[simp] theorem updTge_bar2 (f : Tge → Tge) : (updTge s f).bar2 = s.bar2 := rfl
@[simp] theorem updTge_d3hot (f : Tge → Tge) : (updTge s f).d3hot = s.d3hot := rfl
@[simp] theorem updTge_cfgs (f : Tge → Tge) : (updTge s f).cfgs = s.cfgs := rfl
@[simp] theorem updTge_shadows (f : Tge → Tge) : (updTge s f).shadows = s.shadows := rfl
@[simp] theorem updTge_patrols (f : Tge → Tge) : (updTge s f).patrols = s.patrols := rfl
@[simp] theorem updTge_fenced (f : Tge → Tge) : (updTge s f).fenced = s.fenced := rfl
@[simp] theorem updTge_mapPend (f : Tge → Tge) : (updTge s f).mapPend = s.mapPend := rfl
@[simp] theorem updTge_om (f : Tge → Tge) : (updTge s f).om = s.om := rfl
@[simp] theorem updTge_ke (f : Tge → Tge) : (updTge s f).ke = s.ke := rfl

@[simp] theorem updGraph_pending (g : Nat) (f : Graph → Graph) : (updGraph s g f).pending = s.pending := rfl
@[simp] theorem updGraph_regs (g : Nat) (f : Graph → Graph) : (updGraph s g f).regs = s.regs := rfl
@[simp] theorem updGraph_mem (g : Nat) (f : Graph → Graph) : (updGraph s g f).mem = s.mem := rfl
@[simp] theorem updGraph_flips (g : Nat) (f : Graph → Graph) : (updGraph s g f).flips = s.flips := rfl
@[simp] theorem updGraph_clk (g : Nat) (f : Graph → Graph) : (updGraph s g f).clk = s.clk := rfl
@[simp] theorem updGraph_tasks (g : Nat) (f : Graph → Graph) : (updGraph s g f).tasks = s.tasks := rfl
@[simp] theorem updGraph_cores (g : Nat) (f : Graph → Graph) : (updGraph s g f).cores = s.cores := rfl
@[simp] theorem updGraph_ariths (g : Nat) (f : Graph → Graph) : (updGraph s g f).ariths = s.ariths := rfl
@[simp] theorem updGraph_tiles (g : Nat) (f : Graph → Graph) : (updGraph s g f).tiles = s.tiles := rfl
@[simp] theorem updGraph_dies (g : Nat) (f : Graph → Graph) : (updGraph s g f).dies = s.dies := rfl
@[simp] theorem updGraph_apply (g : Nat) (f : Graph → Graph) : (updGraph s g f).apply = s.apply := rfl
@[simp] theorem updGraph_parts (g : Nat) (f : Graph → Graph) : (updGraph s g f).parts = s.parts := rfl
@[simp] theorem updGraph_recs (g : Nat) (f : Graph → Graph) : (updGraph s g f).recs = s.recs := rfl
@[simp] theorem updGraph_logs (g : Nat) (f : Graph → Graph) : (updGraph s g f).logs = s.logs := rfl
@[simp] theorem updGraph_outs (g : Nat) (f : Graph → Graph) : (updGraph s g f).outs = s.outs := rfl
@[simp] theorem updGraph_vecs (g : Nat) (f : Graph → Graph) : (updGraph s g f).vecs = s.vecs := rfl
@[simp] theorem updGraph_numVfs (g : Nat) (f : Graph → Graph) : (updGraph s g f).numVfs = s.numVfs := rfl
@[simp] theorem updGraph_free (g : Nat) (f : Graph → Graph) : (updGraph s g f).free = s.free := rfl
@[simp] theorem updGraph_seam (g : Nat) (f : Graph → Graph) : (updGraph s g f).seam = s.seam := rfl
@[simp] theorem updGraph_haulCtl (g : Nat) (f : Graph → Graph) : (updGraph s g f).haulCtl = s.haulCtl := rfl
@[simp] theorem updGraph_flights (g : Nat) (f : Graph → Graph) : (updGraph s g f).flights = s.flights := rfl
@[simp] theorem updGraph_outFlits (g : Nat) (f : Graph → Graph) : (updGraph s g f).outFlits = s.outFlits := rfl
@[simp] theorem updGraph_mcasts (g : Nat) (f : Graph → Graph) : (updGraph s g f).mcasts = s.mcasts := rfl
@[simp] theorem updGraph_nextMc (g : Nat) (f : Graph → Graph) : (updGraph s g f).nextMc = s.nextMc := rfl
@[simp] theorem updGraph_rings (g : Nat) (f : Graph → Graph) : (updGraph s g f).rings = s.rings := rfl
@[simp] theorem updGraph_memc (g : Nat) (f : Graph → Graph) : (updGraph s g f).memc = s.memc := rfl
@[simp] theorem updGraph_links (g : Nat) (f : Graph → Graph) : (updGraph s g f).links = s.links := rfl
@[simp] theorem updGraph_xp (g : Nat) (f : Graph → Graph) : (updGraph s g f).xp = s.xp := rfl
@[simp] theorem updGraph_sync (g : Nat) (f : Graph → Graph) : (updGraph s g f).sync = s.sync := rfl
@[simp] theorem updGraph_dmas (g : Nat) (f : Graph → Graph) : (updGraph s g f).dmas = s.dmas := rfl
@[simp] theorem updGraph_bar2 (g : Nat) (f : Graph → Graph) : (updGraph s g f).bar2 = s.bar2 := rfl
@[simp] theorem updGraph_d3hot (g : Nat) (f : Graph → Graph) : (updGraph s g f).d3hot = s.d3hot := rfl
@[simp] theorem updGraph_cfgs (g : Nat) (f : Graph → Graph) : (updGraph s g f).cfgs = s.cfgs := rfl
@[simp] theorem updGraph_shadows (g : Nat) (f : Graph → Graph) : (updGraph s g f).shadows = s.shadows := rfl
@[simp] theorem updGraph_patrols (g : Nat) (f : Graph → Graph) : (updGraph s g f).patrols = s.patrols := rfl
@[simp] theorem updGraph_fenced (g : Nat) (f : Graph → Graph) : (updGraph s g f).fenced = s.fenced := rfl
@[simp] theorem updGraph_mapPend (g : Nat) (f : Graph → Graph) : (updGraph s g f).mapPend = s.mapPend := rfl
@[simp] theorem updGraph_om (g : Nat) (f : Graph → Graph) : (updGraph s g f).om = s.om := rfl
@[simp] theorem updGraph_ke (g : Nat) (f : Graph → Graph) : (updGraph s g f).ke = s.ke := rfl

@[simp] theorem advanceTo_pending (c : Nat) : (advanceTo s c).pending = s.pending := rfl
@[simp] theorem advanceTo_regs (c : Nat) : (advanceTo s c).regs = s.regs := rfl
@[simp] theorem advanceTo_mem (c : Nat) : (advanceTo s c).mem = s.mem := rfl
@[simp] theorem advanceTo_flips (c : Nat) : (advanceTo s c).flips = s.flips := rfl
@[simp] theorem advanceTo_tge (c : Nat) : (advanceTo s c).tge = s.tge := rfl
@[simp] theorem advanceTo_tasks (c : Nat) : (advanceTo s c).tasks = s.tasks := rfl
@[simp] theorem advanceTo_cores (c : Nat) : (advanceTo s c).cores = s.cores := rfl
@[simp] theorem advanceTo_ariths (c : Nat) : (advanceTo s c).ariths = s.ariths := rfl
@[simp] theorem advanceTo_tiles (c : Nat) : (advanceTo s c).tiles = s.tiles := rfl
@[simp] theorem advanceTo_dies (c : Nat) : (advanceTo s c).dies = s.dies := rfl
@[simp] theorem advanceTo_apply (c : Nat) : (advanceTo s c).apply = s.apply := rfl
@[simp] theorem advanceTo_parts (c : Nat) : (advanceTo s c).parts = s.parts := rfl
@[simp] theorem advanceTo_recs (c : Nat) : (advanceTo s c).recs = s.recs := rfl
@[simp] theorem advanceTo_logs (c : Nat) : (advanceTo s c).logs = s.logs := rfl
@[simp] theorem advanceTo_outs (c : Nat) : (advanceTo s c).outs = s.outs := rfl
@[simp] theorem advanceTo_vecs (c : Nat) : (advanceTo s c).vecs = s.vecs := rfl
@[simp] theorem advanceTo_numVfs (c : Nat) : (advanceTo s c).numVfs = s.numVfs := rfl
@[simp] theorem advanceTo_free (c : Nat) : (advanceTo s c).free = s.free := rfl
@[simp] theorem advanceTo_seam (c : Nat) : (advanceTo s c).seam = s.seam := rfl
@[simp] theorem advanceTo_haulCtl (c : Nat) : (advanceTo s c).haulCtl = s.haulCtl := rfl
@[simp] theorem advanceTo_flights (c : Nat) : (advanceTo s c).flights = s.flights := rfl
@[simp] theorem advanceTo_outFlits (c : Nat) : (advanceTo s c).outFlits = s.outFlits := rfl
@[simp] theorem advanceTo_mcasts (c : Nat) : (advanceTo s c).mcasts = s.mcasts := rfl
@[simp] theorem advanceTo_nextMc (c : Nat) : (advanceTo s c).nextMc = s.nextMc := rfl
@[simp] theorem advanceTo_rings (c : Nat) : (advanceTo s c).rings = s.rings := rfl
@[simp] theorem advanceTo_memc (c : Nat) : (advanceTo s c).memc = s.memc := rfl
@[simp] theorem advanceTo_links (c : Nat) : (advanceTo s c).links = s.links := rfl
@[simp] theorem advanceTo_xp (c : Nat) : (advanceTo s c).xp = s.xp := rfl
@[simp] theorem advanceTo_sync (c : Nat) : (advanceTo s c).sync = s.sync := rfl
@[simp] theorem advanceTo_dmas (c : Nat) : (advanceTo s c).dmas = s.dmas := rfl
@[simp] theorem advanceTo_bar2 (c : Nat) : (advanceTo s c).bar2 = s.bar2 := rfl
@[simp] theorem advanceTo_d3hot (c : Nat) : (advanceTo s c).d3hot = s.d3hot := rfl
@[simp] theorem advanceTo_cfgs (c : Nat) : (advanceTo s c).cfgs = s.cfgs := rfl
@[simp] theorem advanceTo_shadows (c : Nat) : (advanceTo s c).shadows = s.shadows := rfl
@[simp] theorem advanceTo_patrols (c : Nat) : (advanceTo s c).patrols = s.patrols := rfl
@[simp] theorem advanceTo_fenced (c : Nat) : (advanceTo s c).fenced = s.fenced := rfl
@[simp] theorem advanceTo_mapPend (c : Nat) : (advanceTo s c).mapPend = s.mapPend := rfl
@[simp] theorem advanceTo_om (c : Nat) : (advanceTo s c).om = s.om := rfl
@[simp] theorem advanceTo_ke (c : Nat) : (advanceTo s c).ke = s.ke := rfl

@[simp] theorem putBytes_pending (a : Nat) (bs : List Byte) : (putBytes s a bs).pending = s.pending := rfl
@[simp] theorem putBytes_regs (a : Nat) (bs : List Byte) : (putBytes s a bs).regs = s.regs := rfl
@[simp] theorem putBytes_clk (a : Nat) (bs : List Byte) : (putBytes s a bs).clk = s.clk := rfl
@[simp] theorem putBytes_tge (a : Nat) (bs : List Byte) : (putBytes s a bs).tge = s.tge := rfl
@[simp] theorem putBytes_tasks (a : Nat) (bs : List Byte) : (putBytes s a bs).tasks = s.tasks := rfl
@[simp] theorem putBytes_cores (a : Nat) (bs : List Byte) : (putBytes s a bs).cores = s.cores := rfl
@[simp] theorem putBytes_ariths (a : Nat) (bs : List Byte) : (putBytes s a bs).ariths = s.ariths := rfl
@[simp] theorem putBytes_tiles (a : Nat) (bs : List Byte) : (putBytes s a bs).tiles = s.tiles := rfl
@[simp] theorem putBytes_dies (a : Nat) (bs : List Byte) : (putBytes s a bs).dies = s.dies := rfl
@[simp] theorem putBytes_apply (a : Nat) (bs : List Byte) : (putBytes s a bs).apply = s.apply := rfl
@[simp] theorem putBytes_parts (a : Nat) (bs : List Byte) : (putBytes s a bs).parts = s.parts := rfl
@[simp] theorem putBytes_recs (a : Nat) (bs : List Byte) : (putBytes s a bs).recs = s.recs := rfl
@[simp] theorem putBytes_logs (a : Nat) (bs : List Byte) : (putBytes s a bs).logs = s.logs := rfl
@[simp] theorem putBytes_outs (a : Nat) (bs : List Byte) : (putBytes s a bs).outs = s.outs := rfl
@[simp] theorem putBytes_vecs (a : Nat) (bs : List Byte) : (putBytes s a bs).vecs = s.vecs := rfl
@[simp] theorem putBytes_numVfs (a : Nat) (bs : List Byte) : (putBytes s a bs).numVfs = s.numVfs := rfl
@[simp] theorem putBytes_free (a : Nat) (bs : List Byte) : (putBytes s a bs).free = s.free := rfl
@[simp] theorem putBytes_seam (a : Nat) (bs : List Byte) : (putBytes s a bs).seam = s.seam := rfl
@[simp] theorem putBytes_haulCtl (a : Nat) (bs : List Byte) : (putBytes s a bs).haulCtl = s.haulCtl := rfl
@[simp] theorem putBytes_flights (a : Nat) (bs : List Byte) : (putBytes s a bs).flights = s.flights := rfl
@[simp] theorem putBytes_outFlits (a : Nat) (bs : List Byte) : (putBytes s a bs).outFlits = s.outFlits := rfl
@[simp] theorem putBytes_mcasts (a : Nat) (bs : List Byte) : (putBytes s a bs).mcasts = s.mcasts := rfl
@[simp] theorem putBytes_nextMc (a : Nat) (bs : List Byte) : (putBytes s a bs).nextMc = s.nextMc := rfl
@[simp] theorem putBytes_rings (a : Nat) (bs : List Byte) : (putBytes s a bs).rings = s.rings := rfl
@[simp] theorem putBytes_links (a : Nat) (bs : List Byte) : (putBytes s a bs).links = s.links := rfl
@[simp] theorem putBytes_xp (a : Nat) (bs : List Byte) : (putBytes s a bs).xp = s.xp := rfl
@[simp] theorem putBytes_sync (a : Nat) (bs : List Byte) : (putBytes s a bs).sync = s.sync := rfl
@[simp] theorem putBytes_dmas (a : Nat) (bs : List Byte) : (putBytes s a bs).dmas = s.dmas := rfl
@[simp] theorem putBytes_bar2 (a : Nat) (bs : List Byte) : (putBytes s a bs).bar2 = s.bar2 := rfl
@[simp] theorem putBytes_d3hot (a : Nat) (bs : List Byte) : (putBytes s a bs).d3hot = s.d3hot := rfl
@[simp] theorem putBytes_cfgs (a : Nat) (bs : List Byte) : (putBytes s a bs).cfgs = s.cfgs := rfl
@[simp] theorem putBytes_shadows (a : Nat) (bs : List Byte) : (putBytes s a bs).shadows = s.shadows := rfl
@[simp] theorem putBytes_patrols (a : Nat) (bs : List Byte) : (putBytes s a bs).patrols = s.patrols := rfl
@[simp] theorem putBytes_fenced (a : Nat) (bs : List Byte) : (putBytes s a bs).fenced = s.fenced := rfl
@[simp] theorem putBytes_mapPend (a : Nat) (bs : List Byte) : (putBytes s a bs).mapPend = s.mapPend := rfl
@[simp] theorem putBytes_om (a : Nat) (bs : List Byte) : (putBytes s a bs).om = s.om := rfl
@[simp] theorem putBytes_ke (a : Nat) (bs : List Byte) : (putBytes s a bs).ke = s.ke := rfl

@[simp] theorem zeroBytes_pending (a n : Nat) : (zeroBytes s a n).pending = s.pending := rfl
@[simp] theorem zeroBytes_regs (a n : Nat) : (zeroBytes s a n).regs = s.regs := rfl
@[simp] theorem zeroBytes_clk (a n : Nat) : (zeroBytes s a n).clk = s.clk := rfl
@[simp] theorem zeroBytes_tge (a n : Nat) : (zeroBytes s a n).tge = s.tge := rfl
@[simp] theorem zeroBytes_tasks (a n : Nat) : (zeroBytes s a n).tasks = s.tasks := rfl
@[simp] theorem zeroBytes_cores (a n : Nat) : (zeroBytes s a n).cores = s.cores := rfl
@[simp] theorem zeroBytes_ariths (a n : Nat) : (zeroBytes s a n).ariths = s.ariths := rfl
@[simp] theorem zeroBytes_tiles (a n : Nat) : (zeroBytes s a n).tiles = s.tiles := rfl
@[simp] theorem zeroBytes_dies (a n : Nat) : (zeroBytes s a n).dies = s.dies := rfl
@[simp] theorem zeroBytes_apply (a n : Nat) : (zeroBytes s a n).apply = s.apply := rfl
@[simp] theorem zeroBytes_parts (a n : Nat) : (zeroBytes s a n).parts = s.parts := rfl
@[simp] theorem zeroBytes_recs (a n : Nat) : (zeroBytes s a n).recs = s.recs := rfl
@[simp] theorem zeroBytes_logs (a n : Nat) : (zeroBytes s a n).logs = s.logs := rfl
@[simp] theorem zeroBytes_outs (a n : Nat) : (zeroBytes s a n).outs = s.outs := rfl
@[simp] theorem zeroBytes_vecs (a n : Nat) : (zeroBytes s a n).vecs = s.vecs := rfl
@[simp] theorem zeroBytes_numVfs (a n : Nat) : (zeroBytes s a n).numVfs = s.numVfs := rfl
@[simp] theorem zeroBytes_free (a n : Nat) : (zeroBytes s a n).free = s.free := rfl
@[simp] theorem zeroBytes_seam (a n : Nat) : (zeroBytes s a n).seam = s.seam := rfl
@[simp] theorem zeroBytes_haulCtl (a n : Nat) : (zeroBytes s a n).haulCtl = s.haulCtl := rfl
@[simp] theorem zeroBytes_flights (a n : Nat) : (zeroBytes s a n).flights = s.flights := rfl
@[simp] theorem zeroBytes_outFlits (a n : Nat) : (zeroBytes s a n).outFlits = s.outFlits := rfl
@[simp] theorem zeroBytes_mcasts (a n : Nat) : (zeroBytes s a n).mcasts = s.mcasts := rfl
@[simp] theorem zeroBytes_nextMc (a n : Nat) : (zeroBytes s a n).nextMc = s.nextMc := rfl
@[simp] theorem zeroBytes_rings (a n : Nat) : (zeroBytes s a n).rings = s.rings := rfl
@[simp] theorem zeroBytes_links (a n : Nat) : (zeroBytes s a n).links = s.links := rfl
@[simp] theorem zeroBytes_xp (a n : Nat) : (zeroBytes s a n).xp = s.xp := rfl
@[simp] theorem zeroBytes_sync (a n : Nat) : (zeroBytes s a n).sync = s.sync := rfl
@[simp] theorem zeroBytes_dmas (a n : Nat) : (zeroBytes s a n).dmas = s.dmas := rfl
@[simp] theorem zeroBytes_bar2 (a n : Nat) : (zeroBytes s a n).bar2 = s.bar2 := rfl
@[simp] theorem zeroBytes_d3hot (a n : Nat) : (zeroBytes s a n).d3hot = s.d3hot := rfl
@[simp] theorem zeroBytes_cfgs (a n : Nat) : (zeroBytes s a n).cfgs = s.cfgs := rfl
@[simp] theorem zeroBytes_shadows (a n : Nat) : (zeroBytes s a n).shadows = s.shadows := rfl
@[simp] theorem zeroBytes_patrols (a n : Nat) : (zeroBytes s a n).patrols = s.patrols := rfl
@[simp] theorem zeroBytes_fenced (a n : Nat) : (zeroBytes s a n).fenced = s.fenced := rfl
@[simp] theorem zeroBytes_mapPend (a n : Nat) : (zeroBytes s a n).mapPend = s.mapPend := rfl
@[simp] theorem zeroBytes_om (a n : Nat) : (zeroBytes s a n).om = s.om := rfl
@[simp] theorem zeroBytes_ke (a n : Nat) : (zeroBytes s a n).ke = s.ke := rfl

@[simp] theorem updXp_pending (f : Xport → Xport) : (updXp s f).pending = s.pending := rfl
@[simp] theorem updXp_regs (f : Xport → Xport) : (updXp s f).regs = s.regs := rfl
@[simp] theorem updXp_mem (f : Xport → Xport) : (updXp s f).mem = s.mem := rfl
@[simp] theorem updXp_flips (f : Xport → Xport) : (updXp s f).flips = s.flips := rfl
@[simp] theorem updXp_clk (f : Xport → Xport) : (updXp s f).clk = s.clk := rfl
@[simp] theorem updXp_tge (f : Xport → Xport) : (updXp s f).tge = s.tge := rfl
@[simp] theorem updXp_tasks (f : Xport → Xport) : (updXp s f).tasks = s.tasks := rfl
@[simp] theorem updXp_cores (f : Xport → Xport) : (updXp s f).cores = s.cores := rfl
@[simp] theorem updXp_ariths (f : Xport → Xport) : (updXp s f).ariths = s.ariths := rfl
@[simp] theorem updXp_tiles (f : Xport → Xport) : (updXp s f).tiles = s.tiles := rfl
@[simp] theorem updXp_dies (f : Xport → Xport) : (updXp s f).dies = s.dies := rfl
@[simp] theorem updXp_apply (f : Xport → Xport) : (updXp s f).apply = s.apply := rfl
@[simp] theorem updXp_parts (f : Xport → Xport) : (updXp s f).parts = s.parts := rfl
@[simp] theorem updXp_recs (f : Xport → Xport) : (updXp s f).recs = s.recs := rfl
@[simp] theorem updXp_logs (f : Xport → Xport) : (updXp s f).logs = s.logs := rfl
@[simp] theorem updXp_outs (f : Xport → Xport) : (updXp s f).outs = s.outs := rfl
@[simp] theorem updXp_vecs (f : Xport → Xport) : (updXp s f).vecs = s.vecs := rfl
@[simp] theorem updXp_numVfs (f : Xport → Xport) : (updXp s f).numVfs = s.numVfs := rfl
@[simp] theorem updXp_free (f : Xport → Xport) : (updXp s f).free = s.free := rfl
@[simp] theorem updXp_seam (f : Xport → Xport) : (updXp s f).seam = s.seam := rfl
@[simp] theorem updXp_haulCtl (f : Xport → Xport) : (updXp s f).haulCtl = s.haulCtl := rfl
@[simp] theorem updXp_flights (f : Xport → Xport) : (updXp s f).flights = s.flights := rfl
@[simp] theorem updXp_outFlits (f : Xport → Xport) : (updXp s f).outFlits = s.outFlits := rfl
@[simp] theorem updXp_mcasts (f : Xport → Xport) : (updXp s f).mcasts = s.mcasts := rfl
@[simp] theorem updXp_nextMc (f : Xport → Xport) : (updXp s f).nextMc = s.nextMc := rfl
@[simp] theorem updXp_rings (f : Xport → Xport) : (updXp s f).rings = s.rings := rfl
@[simp] theorem updXp_memc (f : Xport → Xport) : (updXp s f).memc = s.memc := rfl
@[simp] theorem updXp_links (f : Xport → Xport) : (updXp s f).links = s.links := rfl
@[simp] theorem updXp_sync (f : Xport → Xport) : (updXp s f).sync = s.sync := rfl
@[simp] theorem updXp_dmas (f : Xport → Xport) : (updXp s f).dmas = s.dmas := rfl
@[simp] theorem updXp_bar2 (f : Xport → Xport) : (updXp s f).bar2 = s.bar2 := rfl
@[simp] theorem updXp_d3hot (f : Xport → Xport) : (updXp s f).d3hot = s.d3hot := rfl
@[simp] theorem updXp_cfgs (f : Xport → Xport) : (updXp s f).cfgs = s.cfgs := rfl
@[simp] theorem updXp_shadows (f : Xport → Xport) : (updXp s f).shadows = s.shadows := rfl
@[simp] theorem updXp_patrols (f : Xport → Xport) : (updXp s f).patrols = s.patrols := rfl
@[simp] theorem updXp_fenced (f : Xport → Xport) : (updXp s f).fenced = s.fenced := rfl
@[simp] theorem updXp_mapPend (f : Xport → Xport) : (updXp s f).mapPend = s.mapPend := rfl
@[simp] theorem updXp_om (f : Xport → Xport) : (updXp s f).om = s.om := rfl
@[simp] theorem updXp_ke (f : Xport → Xport) : (updXp s f).ke = s.ke := rfl

@[simp] theorem updSeam_pending (f : Seam → Seam) : (updSeam s f).pending = s.pending := rfl
@[simp] theorem updSeam_regs (f : Seam → Seam) : (updSeam s f).regs = s.regs := rfl
@[simp] theorem updSeam_mem (f : Seam → Seam) : (updSeam s f).mem = s.mem := rfl
@[simp] theorem updSeam_flips (f : Seam → Seam) : (updSeam s f).flips = s.flips := rfl
@[simp] theorem updSeam_clk (f : Seam → Seam) : (updSeam s f).clk = s.clk := rfl
@[simp] theorem updSeam_tge (f : Seam → Seam) : (updSeam s f).tge = s.tge := rfl
@[simp] theorem updSeam_tasks (f : Seam → Seam) : (updSeam s f).tasks = s.tasks := rfl
@[simp] theorem updSeam_cores (f : Seam → Seam) : (updSeam s f).cores = s.cores := rfl
@[simp] theorem updSeam_ariths (f : Seam → Seam) : (updSeam s f).ariths = s.ariths := rfl
@[simp] theorem updSeam_tiles (f : Seam → Seam) : (updSeam s f).tiles = s.tiles := rfl
@[simp] theorem updSeam_dies (f : Seam → Seam) : (updSeam s f).dies = s.dies := rfl
@[simp] theorem updSeam_apply (f : Seam → Seam) : (updSeam s f).apply = s.apply := rfl
@[simp] theorem updSeam_parts (f : Seam → Seam) : (updSeam s f).parts = s.parts := rfl
@[simp] theorem updSeam_recs (f : Seam → Seam) : (updSeam s f).recs = s.recs := rfl
@[simp] theorem updSeam_logs (f : Seam → Seam) : (updSeam s f).logs = s.logs := rfl
@[simp] theorem updSeam_outs (f : Seam → Seam) : (updSeam s f).outs = s.outs := rfl
@[simp] theorem updSeam_vecs (f : Seam → Seam) : (updSeam s f).vecs = s.vecs := rfl
@[simp] theorem updSeam_numVfs (f : Seam → Seam) : (updSeam s f).numVfs = s.numVfs := rfl
@[simp] theorem updSeam_free (f : Seam → Seam) : (updSeam s f).free = s.free := rfl
@[simp] theorem updSeam_haulCtl (f : Seam → Seam) : (updSeam s f).haulCtl = s.haulCtl := rfl
@[simp] theorem updSeam_flights (f : Seam → Seam) : (updSeam s f).flights = s.flights := rfl
@[simp] theorem updSeam_outFlits (f : Seam → Seam) : (updSeam s f).outFlits = s.outFlits := rfl
@[simp] theorem updSeam_mcasts (f : Seam → Seam) : (updSeam s f).mcasts = s.mcasts := rfl
@[simp] theorem updSeam_nextMc (f : Seam → Seam) : (updSeam s f).nextMc = s.nextMc := rfl
@[simp] theorem updSeam_rings (f : Seam → Seam) : (updSeam s f).rings = s.rings := rfl
@[simp] theorem updSeam_memc (f : Seam → Seam) : (updSeam s f).memc = s.memc := rfl
@[simp] theorem updSeam_links (f : Seam → Seam) : (updSeam s f).links = s.links := rfl
@[simp] theorem updSeam_xp (f : Seam → Seam) : (updSeam s f).xp = s.xp := rfl
@[simp] theorem updSeam_sync (f : Seam → Seam) : (updSeam s f).sync = s.sync := rfl
@[simp] theorem updSeam_dmas (f : Seam → Seam) : (updSeam s f).dmas = s.dmas := rfl
@[simp] theorem updSeam_bar2 (f : Seam → Seam) : (updSeam s f).bar2 = s.bar2 := rfl
@[simp] theorem updSeam_d3hot (f : Seam → Seam) : (updSeam s f).d3hot = s.d3hot := rfl
@[simp] theorem updSeam_cfgs (f : Seam → Seam) : (updSeam s f).cfgs = s.cfgs := rfl
@[simp] theorem updSeam_shadows (f : Seam → Seam) : (updSeam s f).shadows = s.shadows := rfl
@[simp] theorem updSeam_patrols (f : Seam → Seam) : (updSeam s f).patrols = s.patrols := rfl
@[simp] theorem updSeam_fenced (f : Seam → Seam) : (updSeam s f).fenced = s.fenced := rfl
@[simp] theorem updSeam_mapPend (f : Seam → Seam) : (updSeam s f).mapPend = s.mapPend := rfl
@[simp] theorem updSeam_om (f : Seam → Seam) : (updSeam s f).om = s.om := rfl
@[simp] theorem updSeam_ke (f : Seam → Seam) : (updSeam s f).ke = s.ke := rfl

@[simp] theorem updOm_pending (f : Overman → Overman) : (updOm s f).pending = s.pending := rfl
@[simp] theorem updOm_regs (f : Overman → Overman) : (updOm s f).regs = s.regs := rfl
@[simp] theorem updOm_mem (f : Overman → Overman) : (updOm s f).mem = s.mem := rfl
@[simp] theorem updOm_flips (f : Overman → Overman) : (updOm s f).flips = s.flips := rfl
@[simp] theorem updOm_clk (f : Overman → Overman) : (updOm s f).clk = s.clk := rfl
@[simp] theorem updOm_tge (f : Overman → Overman) : (updOm s f).tge = s.tge := rfl
@[simp] theorem updOm_tasks (f : Overman → Overman) : (updOm s f).tasks = s.tasks := rfl
@[simp] theorem updOm_cores (f : Overman → Overman) : (updOm s f).cores = s.cores := rfl
@[simp] theorem updOm_ariths (f : Overman → Overman) : (updOm s f).ariths = s.ariths := rfl
@[simp] theorem updOm_tiles (f : Overman → Overman) : (updOm s f).tiles = s.tiles := rfl
@[simp] theorem updOm_dies (f : Overman → Overman) : (updOm s f).dies = s.dies := rfl
@[simp] theorem updOm_apply (f : Overman → Overman) : (updOm s f).apply = s.apply := rfl
@[simp] theorem updOm_parts (f : Overman → Overman) : (updOm s f).parts = s.parts := rfl
@[simp] theorem updOm_recs (f : Overman → Overman) : (updOm s f).recs = s.recs := rfl
@[simp] theorem updOm_logs (f : Overman → Overman) : (updOm s f).logs = s.logs := rfl
@[simp] theorem updOm_outs (f : Overman → Overman) : (updOm s f).outs = s.outs := rfl
@[simp] theorem updOm_vecs (f : Overman → Overman) : (updOm s f).vecs = s.vecs := rfl
@[simp] theorem updOm_numVfs (f : Overman → Overman) : (updOm s f).numVfs = s.numVfs := rfl
@[simp] theorem updOm_free (f : Overman → Overman) : (updOm s f).free = s.free := rfl
@[simp] theorem updOm_seam (f : Overman → Overman) : (updOm s f).seam = s.seam := rfl
@[simp] theorem updOm_haulCtl (f : Overman → Overman) : (updOm s f).haulCtl = s.haulCtl := rfl
@[simp] theorem updOm_flights (f : Overman → Overman) : (updOm s f).flights = s.flights := rfl
@[simp] theorem updOm_outFlits (f : Overman → Overman) : (updOm s f).outFlits = s.outFlits := rfl
@[simp] theorem updOm_mcasts (f : Overman → Overman) : (updOm s f).mcasts = s.mcasts := rfl
@[simp] theorem updOm_nextMc (f : Overman → Overman) : (updOm s f).nextMc = s.nextMc := rfl
@[simp] theorem updOm_rings (f : Overman → Overman) : (updOm s f).rings = s.rings := rfl
@[simp] theorem updOm_memc (f : Overman → Overman) : (updOm s f).memc = s.memc := rfl
@[simp] theorem updOm_links (f : Overman → Overman) : (updOm s f).links = s.links := rfl
@[simp] theorem updOm_xp (f : Overman → Overman) : (updOm s f).xp = s.xp := rfl
@[simp] theorem updOm_sync (f : Overman → Overman) : (updOm s f).sync = s.sync := rfl
@[simp] theorem updOm_dmas (f : Overman → Overman) : (updOm s f).dmas = s.dmas := rfl
@[simp] theorem updOm_bar2 (f : Overman → Overman) : (updOm s f).bar2 = s.bar2 := rfl
@[simp] theorem updOm_d3hot (f : Overman → Overman) : (updOm s f).d3hot = s.d3hot := rfl
@[simp] theorem updOm_cfgs (f : Overman → Overman) : (updOm s f).cfgs = s.cfgs := rfl
@[simp] theorem updOm_shadows (f : Overman → Overman) : (updOm s f).shadows = s.shadows := rfl
@[simp] theorem updOm_patrols (f : Overman → Overman) : (updOm s f).patrols = s.patrols := rfl
@[simp] theorem updOm_fenced (f : Overman → Overman) : (updOm s f).fenced = s.fenced := rfl
@[simp] theorem updOm_mapPend (f : Overman → Overman) : (updOm s f).mapPend = s.mapPend := rfl
@[simp] theorem updOm_ke (f : Overman → Overman) : (updOm s f).ke = s.ke := rfl

@[simp] theorem updKe_pending (f : KeyEngine → KeyEngine) : (updKe s f).pending = s.pending := rfl
@[simp] theorem updKe_regs (f : KeyEngine → KeyEngine) : (updKe s f).regs = s.regs := rfl
@[simp] theorem updKe_mem (f : KeyEngine → KeyEngine) : (updKe s f).mem = s.mem := rfl
@[simp] theorem updKe_flips (f : KeyEngine → KeyEngine) : (updKe s f).flips = s.flips := rfl
@[simp] theorem updKe_clk (f : KeyEngine → KeyEngine) : (updKe s f).clk = s.clk := rfl
@[simp] theorem updKe_tge (f : KeyEngine → KeyEngine) : (updKe s f).tge = s.tge := rfl
@[simp] theorem updKe_tasks (f : KeyEngine → KeyEngine) : (updKe s f).tasks = s.tasks := rfl
@[simp] theorem updKe_cores (f : KeyEngine → KeyEngine) : (updKe s f).cores = s.cores := rfl
@[simp] theorem updKe_ariths (f : KeyEngine → KeyEngine) : (updKe s f).ariths = s.ariths := rfl
@[simp] theorem updKe_tiles (f : KeyEngine → KeyEngine) : (updKe s f).tiles = s.tiles := rfl
@[simp] theorem updKe_dies (f : KeyEngine → KeyEngine) : (updKe s f).dies = s.dies := rfl
@[simp] theorem updKe_apply (f : KeyEngine → KeyEngine) : (updKe s f).apply = s.apply := rfl
@[simp] theorem updKe_parts (f : KeyEngine → KeyEngine) : (updKe s f).parts = s.parts := rfl
@[simp] theorem updKe_recs (f : KeyEngine → KeyEngine) : (updKe s f).recs = s.recs := rfl
@[simp] theorem updKe_logs (f : KeyEngine → KeyEngine) : (updKe s f).logs = s.logs := rfl
@[simp] theorem updKe_outs (f : KeyEngine → KeyEngine) : (updKe s f).outs = s.outs := rfl
@[simp] theorem updKe_vecs (f : KeyEngine → KeyEngine) : (updKe s f).vecs = s.vecs := rfl
@[simp] theorem updKe_numVfs (f : KeyEngine → KeyEngine) : (updKe s f).numVfs = s.numVfs := rfl
@[simp] theorem updKe_free (f : KeyEngine → KeyEngine) : (updKe s f).free = s.free := rfl
@[simp] theorem updKe_seam (f : KeyEngine → KeyEngine) : (updKe s f).seam = s.seam := rfl
@[simp] theorem updKe_haulCtl (f : KeyEngine → KeyEngine) : (updKe s f).haulCtl = s.haulCtl := rfl
@[simp] theorem updKe_flights (f : KeyEngine → KeyEngine) : (updKe s f).flights = s.flights := rfl
@[simp] theorem updKe_outFlits (f : KeyEngine → KeyEngine) : (updKe s f).outFlits = s.outFlits := rfl
@[simp] theorem updKe_mcasts (f : KeyEngine → KeyEngine) : (updKe s f).mcasts = s.mcasts := rfl
@[simp] theorem updKe_nextMc (f : KeyEngine → KeyEngine) : (updKe s f).nextMc = s.nextMc := rfl
@[simp] theorem updKe_rings (f : KeyEngine → KeyEngine) : (updKe s f).rings = s.rings := rfl
@[simp] theorem updKe_memc (f : KeyEngine → KeyEngine) : (updKe s f).memc = s.memc := rfl
@[simp] theorem updKe_links (f : KeyEngine → KeyEngine) : (updKe s f).links = s.links := rfl
@[simp] theorem updKe_xp (f : KeyEngine → KeyEngine) : (updKe s f).xp = s.xp := rfl
@[simp] theorem updKe_sync (f : KeyEngine → KeyEngine) : (updKe s f).sync = s.sync := rfl
@[simp] theorem updKe_dmas (f : KeyEngine → KeyEngine) : (updKe s f).dmas = s.dmas := rfl
@[simp] theorem updKe_bar2 (f : KeyEngine → KeyEngine) : (updKe s f).bar2 = s.bar2 := rfl
@[simp] theorem updKe_d3hot (f : KeyEngine → KeyEngine) : (updKe s f).d3hot = s.d3hot := rfl
@[simp] theorem updKe_cfgs (f : KeyEngine → KeyEngine) : (updKe s f).cfgs = s.cfgs := rfl
@[simp] theorem updKe_shadows (f : KeyEngine → KeyEngine) : (updKe s f).shadows = s.shadows := rfl
@[simp] theorem updKe_patrols (f : KeyEngine → KeyEngine) : (updKe s f).patrols = s.patrols := rfl
@[simp] theorem updKe_fenced (f : KeyEngine → KeyEngine) : (updKe s f).fenced = s.fenced := rfl
@[simp] theorem updKe_mapPend (f : KeyEngine → KeyEngine) : (updKe s f).mapPend = s.mapPend := rfl
@[simp] theorem updKe_om (f : KeyEngine → KeyEngine) : (updKe s f).om = s.om := rfl

@[simp] theorem updCfg_pending (fn : Nat) (f : FuncCfg → FuncCfg) : (updCfg s fn f).pending = s.pending := rfl
@[simp] theorem updCfg_regs (fn : Nat) (f : FuncCfg → FuncCfg) : (updCfg s fn f).regs = s.regs := rfl
@[simp] theorem updCfg_mem (fn : Nat) (f : FuncCfg → FuncCfg) : (updCfg s fn f).mem = s.mem := rfl
@[simp] theorem updCfg_flips (fn : Nat) (f : FuncCfg → FuncCfg) : (updCfg s fn f).flips = s.flips := rfl
@[simp] theorem updCfg_clk (fn : Nat) (f : FuncCfg → FuncCfg) : (updCfg s fn f).clk = s.clk := rfl
@[simp] theorem updCfg_tge (fn : Nat) (f : FuncCfg → FuncCfg) : (updCfg s fn f).tge = s.tge := rfl
@[simp] theorem updCfg_tasks (fn : Nat) (f : FuncCfg → FuncCfg) : (updCfg s fn f).tasks = s.tasks := rfl
@[simp] theorem updCfg_cores (fn : Nat) (f : FuncCfg → FuncCfg) : (updCfg s fn f).cores = s.cores := rfl
@[simp] theorem updCfg_ariths (fn : Nat) (f : FuncCfg → FuncCfg) : (updCfg s fn f).ariths = s.ariths := rfl
@[simp] theorem updCfg_tiles (fn : Nat) (f : FuncCfg → FuncCfg) : (updCfg s fn f).tiles = s.tiles := rfl
@[simp] theorem updCfg_dies (fn : Nat) (f : FuncCfg → FuncCfg) : (updCfg s fn f).dies = s.dies := rfl
@[simp] theorem updCfg_apply (fn : Nat) (f : FuncCfg → FuncCfg) : (updCfg s fn f).apply = s.apply := rfl
@[simp] theorem updCfg_parts (fn : Nat) (f : FuncCfg → FuncCfg) : (updCfg s fn f).parts = s.parts := rfl
@[simp] theorem updCfg_recs (fn : Nat) (f : FuncCfg → FuncCfg) : (updCfg s fn f).recs = s.recs := rfl
@[simp] theorem updCfg_logs (fn : Nat) (f : FuncCfg → FuncCfg) : (updCfg s fn f).logs = s.logs := rfl
@[simp] theorem updCfg_outs (fn : Nat) (f : FuncCfg → FuncCfg) : (updCfg s fn f).outs = s.outs := rfl
@[simp] theorem updCfg_vecs (fn : Nat) (f : FuncCfg → FuncCfg) : (updCfg s fn f).vecs = s.vecs := rfl
@[simp] theorem updCfg_numVfs (fn : Nat) (f : FuncCfg → FuncCfg) : (updCfg s fn f).numVfs = s.numVfs := rfl
@[simp] theorem updCfg_free (fn : Nat) (f : FuncCfg → FuncCfg) : (updCfg s fn f).free = s.free := rfl
@[simp] theorem updCfg_seam (fn : Nat) (f : FuncCfg → FuncCfg) : (updCfg s fn f).seam = s.seam := rfl
@[simp] theorem updCfg_haulCtl (fn : Nat) (f : FuncCfg → FuncCfg) : (updCfg s fn f).haulCtl = s.haulCtl := rfl
@[simp] theorem updCfg_flights (fn : Nat) (f : FuncCfg → FuncCfg) : (updCfg s fn f).flights = s.flights := rfl
@[simp] theorem updCfg_outFlits (fn : Nat) (f : FuncCfg → FuncCfg) : (updCfg s fn f).outFlits = s.outFlits := rfl
@[simp] theorem updCfg_mcasts (fn : Nat) (f : FuncCfg → FuncCfg) : (updCfg s fn f).mcasts = s.mcasts := rfl
@[simp] theorem updCfg_nextMc (fn : Nat) (f : FuncCfg → FuncCfg) : (updCfg s fn f).nextMc = s.nextMc := rfl
@[simp] theorem updCfg_rings (fn : Nat) (f : FuncCfg → FuncCfg) : (updCfg s fn f).rings = s.rings := rfl
@[simp] theorem updCfg_memc (fn : Nat) (f : FuncCfg → FuncCfg) : (updCfg s fn f).memc = s.memc := rfl
@[simp] theorem updCfg_links (fn : Nat) (f : FuncCfg → FuncCfg) : (updCfg s fn f).links = s.links := rfl
@[simp] theorem updCfg_xp (fn : Nat) (f : FuncCfg → FuncCfg) : (updCfg s fn f).xp = s.xp := rfl
@[simp] theorem updCfg_sync (fn : Nat) (f : FuncCfg → FuncCfg) : (updCfg s fn f).sync = s.sync := rfl
@[simp] theorem updCfg_dmas (fn : Nat) (f : FuncCfg → FuncCfg) : (updCfg s fn f).dmas = s.dmas := rfl
@[simp] theorem updCfg_bar2 (fn : Nat) (f : FuncCfg → FuncCfg) : (updCfg s fn f).bar2 = s.bar2 := rfl
@[simp] theorem updCfg_d3hot (fn : Nat) (f : FuncCfg → FuncCfg) : (updCfg s fn f).d3hot = s.d3hot := rfl
@[simp] theorem updCfg_shadows (fn : Nat) (f : FuncCfg → FuncCfg) : (updCfg s fn f).shadows = s.shadows := rfl
@[simp] theorem updCfg_patrols (fn : Nat) (f : FuncCfg → FuncCfg) : (updCfg s fn f).patrols = s.patrols := rfl
@[simp] theorem updCfg_fenced (fn : Nat) (f : FuncCfg → FuncCfg) : (updCfg s fn f).fenced = s.fenced := rfl
@[simp] theorem updCfg_mapPend (fn : Nat) (f : FuncCfg → FuncCfg) : (updCfg s fn f).mapPend = s.mapPend := rfl
@[simp] theorem updCfg_om (fn : Nat) (f : FuncCfg → FuncCfg) : (updCfg s fn f).om = s.om := rfl
@[simp] theorem updCfg_ke (fn : Nat) (f : FuncCfg → FuncCfg) : (updCfg s fn f).ke = s.ke := rfl

@[simp] theorem updLink_pending (n : Nat) (f : Link → Link) : (updLink s n f).pending = s.pending := rfl
@[simp] theorem updLink_regs (n : Nat) (f : Link → Link) : (updLink s n f).regs = s.regs := rfl
@[simp] theorem updLink_mem (n : Nat) (f : Link → Link) : (updLink s n f).mem = s.mem := rfl
@[simp] theorem updLink_flips (n : Nat) (f : Link → Link) : (updLink s n f).flips = s.flips := rfl
@[simp] theorem updLink_clk (n : Nat) (f : Link → Link) : (updLink s n f).clk = s.clk := rfl
@[simp] theorem updLink_tge (n : Nat) (f : Link → Link) : (updLink s n f).tge = s.tge := rfl
@[simp] theorem updLink_tasks (n : Nat) (f : Link → Link) : (updLink s n f).tasks = s.tasks := rfl
@[simp] theorem updLink_cores (n : Nat) (f : Link → Link) : (updLink s n f).cores = s.cores := rfl
@[simp] theorem updLink_ariths (n : Nat) (f : Link → Link) : (updLink s n f).ariths = s.ariths := rfl
@[simp] theorem updLink_tiles (n : Nat) (f : Link → Link) : (updLink s n f).tiles = s.tiles := rfl
@[simp] theorem updLink_dies (n : Nat) (f : Link → Link) : (updLink s n f).dies = s.dies := rfl
@[simp] theorem updLink_apply (n : Nat) (f : Link → Link) : (updLink s n f).apply = s.apply := rfl
@[simp] theorem updLink_parts (n : Nat) (f : Link → Link) : (updLink s n f).parts = s.parts := rfl
@[simp] theorem updLink_recs (n : Nat) (f : Link → Link) : (updLink s n f).recs = s.recs := rfl
@[simp] theorem updLink_logs (n : Nat) (f : Link → Link) : (updLink s n f).logs = s.logs := rfl
@[simp] theorem updLink_outs (n : Nat) (f : Link → Link) : (updLink s n f).outs = s.outs := rfl
@[simp] theorem updLink_vecs (n : Nat) (f : Link → Link) : (updLink s n f).vecs = s.vecs := rfl
@[simp] theorem updLink_numVfs (n : Nat) (f : Link → Link) : (updLink s n f).numVfs = s.numVfs := rfl
@[simp] theorem updLink_free (n : Nat) (f : Link → Link) : (updLink s n f).free = s.free := rfl
@[simp] theorem updLink_seam (n : Nat) (f : Link → Link) : (updLink s n f).seam = s.seam := rfl
@[simp] theorem updLink_haulCtl (n : Nat) (f : Link → Link) : (updLink s n f).haulCtl = s.haulCtl := rfl
@[simp] theorem updLink_flights (n : Nat) (f : Link → Link) : (updLink s n f).flights = s.flights := rfl
@[simp] theorem updLink_outFlits (n : Nat) (f : Link → Link) : (updLink s n f).outFlits = s.outFlits := rfl
@[simp] theorem updLink_mcasts (n : Nat) (f : Link → Link) : (updLink s n f).mcasts = s.mcasts := rfl
@[simp] theorem updLink_nextMc (n : Nat) (f : Link → Link) : (updLink s n f).nextMc = s.nextMc := rfl
@[simp] theorem updLink_rings (n : Nat) (f : Link → Link) : (updLink s n f).rings = s.rings := rfl
@[simp] theorem updLink_memc (n : Nat) (f : Link → Link) : (updLink s n f).memc = s.memc := rfl
@[simp] theorem updLink_xp (n : Nat) (f : Link → Link) : (updLink s n f).xp = s.xp := rfl
@[simp] theorem updLink_sync (n : Nat) (f : Link → Link) : (updLink s n f).sync = s.sync := rfl
@[simp] theorem updLink_dmas (n : Nat) (f : Link → Link) : (updLink s n f).dmas = s.dmas := rfl
@[simp] theorem updLink_bar2 (n : Nat) (f : Link → Link) : (updLink s n f).bar2 = s.bar2 := rfl
@[simp] theorem updLink_d3hot (n : Nat) (f : Link → Link) : (updLink s n f).d3hot = s.d3hot := rfl
@[simp] theorem updLink_cfgs (n : Nat) (f : Link → Link) : (updLink s n f).cfgs = s.cfgs := rfl
@[simp] theorem updLink_shadows (n : Nat) (f : Link → Link) : (updLink s n f).shadows = s.shadows := rfl
@[simp] theorem updLink_patrols (n : Nat) (f : Link → Link) : (updLink s n f).patrols = s.patrols := rfl
@[simp] theorem updLink_fenced (n : Nat) (f : Link → Link) : (updLink s n f).fenced = s.fenced := rfl
@[simp] theorem updLink_mapPend (n : Nat) (f : Link → Link) : (updLink s n f).mapPend = s.mapPend := rfl
@[simp] theorem updLink_om (n : Nat) (f : Link → Link) : (updLink s n f).om = s.om := rfl
@[simp] theorem updLink_ke (n : Nat) (f : Link → Link) : (updLink s n f).ke = s.ke := rfl

@[simp] theorem setRing_pending (i : Nat) (r : Ring) : (setRing s i r).pending = s.pending := rfl
@[simp] theorem setRing_regs (i : Nat) (r : Ring) : (setRing s i r).regs = s.regs := rfl
@[simp] theorem setRing_mem (i : Nat) (r : Ring) : (setRing s i r).mem = s.mem := rfl
@[simp] theorem setRing_flips (i : Nat) (r : Ring) : (setRing s i r).flips = s.flips := rfl
@[simp] theorem setRing_clk (i : Nat) (r : Ring) : (setRing s i r).clk = s.clk := rfl
@[simp] theorem setRing_tge (i : Nat) (r : Ring) : (setRing s i r).tge = s.tge := rfl
@[simp] theorem setRing_tasks (i : Nat) (r : Ring) : (setRing s i r).tasks = s.tasks := rfl
@[simp] theorem setRing_cores (i : Nat) (r : Ring) : (setRing s i r).cores = s.cores := rfl
@[simp] theorem setRing_ariths (i : Nat) (r : Ring) : (setRing s i r).ariths = s.ariths := rfl
@[simp] theorem setRing_tiles (i : Nat) (r : Ring) : (setRing s i r).tiles = s.tiles := rfl
@[simp] theorem setRing_dies (i : Nat) (r : Ring) : (setRing s i r).dies = s.dies := rfl
@[simp] theorem setRing_apply (i : Nat) (r : Ring) : (setRing s i r).apply = s.apply := rfl
@[simp] theorem setRing_parts (i : Nat) (r : Ring) : (setRing s i r).parts = s.parts := rfl
@[simp] theorem setRing_recs (i : Nat) (r : Ring) : (setRing s i r).recs = s.recs := rfl
@[simp] theorem setRing_logs (i : Nat) (r : Ring) : (setRing s i r).logs = s.logs := rfl
@[simp] theorem setRing_outs (i : Nat) (r : Ring) : (setRing s i r).outs = s.outs := rfl
@[simp] theorem setRing_vecs (i : Nat) (r : Ring) : (setRing s i r).vecs = s.vecs := rfl
@[simp] theorem setRing_numVfs (i : Nat) (r : Ring) : (setRing s i r).numVfs = s.numVfs := rfl
@[simp] theorem setRing_free (i : Nat) (r : Ring) : (setRing s i r).free = s.free := rfl
@[simp] theorem setRing_seam (i : Nat) (r : Ring) : (setRing s i r).seam = s.seam := rfl
@[simp] theorem setRing_haulCtl (i : Nat) (r : Ring) : (setRing s i r).haulCtl = s.haulCtl := rfl
@[simp] theorem setRing_flights (i : Nat) (r : Ring) : (setRing s i r).flights = s.flights := rfl
@[simp] theorem setRing_outFlits (i : Nat) (r : Ring) : (setRing s i r).outFlits = s.outFlits := rfl
@[simp] theorem setRing_mcasts (i : Nat) (r : Ring) : (setRing s i r).mcasts = s.mcasts := rfl
@[simp] theorem setRing_nextMc (i : Nat) (r : Ring) : (setRing s i r).nextMc = s.nextMc := rfl
@[simp] theorem setRing_memc (i : Nat) (r : Ring) : (setRing s i r).memc = s.memc := rfl
@[simp] theorem setRing_links (i : Nat) (r : Ring) : (setRing s i r).links = s.links := rfl
@[simp] theorem setRing_xp (i : Nat) (r : Ring) : (setRing s i r).xp = s.xp := rfl
@[simp] theorem setRing_sync (i : Nat) (r : Ring) : (setRing s i r).sync = s.sync := rfl
@[simp] theorem setRing_dmas (i : Nat) (r : Ring) : (setRing s i r).dmas = s.dmas := rfl
@[simp] theorem setRing_bar2 (i : Nat) (r : Ring) : (setRing s i r).bar2 = s.bar2 := rfl
@[simp] theorem setRing_d3hot (i : Nat) (r : Ring) : (setRing s i r).d3hot = s.d3hot := rfl
@[simp] theorem setRing_cfgs (i : Nat) (r : Ring) : (setRing s i r).cfgs = s.cfgs := rfl
@[simp] theorem setRing_shadows (i : Nat) (r : Ring) : (setRing s i r).shadows = s.shadows := rfl
@[simp] theorem setRing_patrols (i : Nat) (r : Ring) : (setRing s i r).patrols = s.patrols := rfl
@[simp] theorem setRing_fenced (i : Nat) (r : Ring) : (setRing s i r).fenced = s.fenced := rfl
@[simp] theorem setRing_mapPend (i : Nat) (r : Ring) : (setRing s i r).mapPend = s.mapPend := rfl
@[simp] theorem setRing_om (i : Nat) (r : Ring) : (setRing s i r).om = s.om := rfl
@[simp] theorem setRing_ke (i : Nat) (r : Ring) : (setRing s i r).ke = s.ke := rfl

@[simp] theorem emit_pending (r : Rec) : (emit s r).pending = s.pending := rfl
@[simp] theorem emit_regs (r : Rec) : (emit s r).regs = s.regs := rfl
@[simp] theorem emit_mem (r : Rec) : (emit s r).mem = s.mem := rfl
@[simp] theorem emit_flips (r : Rec) : (emit s r).flips = s.flips := rfl
@[simp] theorem emit_clk (r : Rec) : (emit s r).clk = s.clk := rfl
@[simp] theorem emit_tge (r : Rec) : (emit s r).tge = s.tge := rfl
@[simp] theorem emit_tasks (r : Rec) : (emit s r).tasks = s.tasks := rfl
@[simp] theorem emit_cores (r : Rec) : (emit s r).cores = s.cores := rfl
@[simp] theorem emit_ariths (r : Rec) : (emit s r).ariths = s.ariths := rfl
@[simp] theorem emit_tiles (r : Rec) : (emit s r).tiles = s.tiles := rfl
@[simp] theorem emit_dies (r : Rec) : (emit s r).dies = s.dies := rfl
@[simp] theorem emit_apply (r : Rec) : (emit s r).apply = s.apply := rfl
@[simp] theorem emit_parts (r : Rec) : (emit s r).parts = s.parts := rfl
@[simp] theorem emit_logs (r : Rec) : (emit s r).logs = s.logs := rfl
@[simp] theorem emit_outs (r : Rec) : (emit s r).outs = s.outs := rfl
@[simp] theorem emit_vecs (r : Rec) : (emit s r).vecs = s.vecs := rfl
@[simp] theorem emit_numVfs (r : Rec) : (emit s r).numVfs = s.numVfs := rfl
@[simp] theorem emit_free (r : Rec) : (emit s r).free = s.free := rfl
@[simp] theorem emit_seam (r : Rec) : (emit s r).seam = s.seam := rfl
@[simp] theorem emit_haulCtl (r : Rec) : (emit s r).haulCtl = s.haulCtl := rfl
@[simp] theorem emit_flights (r : Rec) : (emit s r).flights = s.flights := rfl
@[simp] theorem emit_outFlits (r : Rec) : (emit s r).outFlits = s.outFlits := rfl
@[simp] theorem emit_mcasts (r : Rec) : (emit s r).mcasts = s.mcasts := rfl
@[simp] theorem emit_nextMc (r : Rec) : (emit s r).nextMc = s.nextMc := rfl
@[simp] theorem emit_rings (r : Rec) : (emit s r).rings = s.rings := rfl
@[simp] theorem emit_memc (r : Rec) : (emit s r).memc = s.memc := rfl
@[simp] theorem emit_links (r : Rec) : (emit s r).links = s.links := rfl
@[simp] theorem emit_xp (r : Rec) : (emit s r).xp = s.xp := rfl
@[simp] theorem emit_sync (r : Rec) : (emit s r).sync = s.sync := rfl
@[simp] theorem emit_dmas (r : Rec) : (emit s r).dmas = s.dmas := rfl
@[simp] theorem emit_bar2 (r : Rec) : (emit s r).bar2 = s.bar2 := rfl
@[simp] theorem emit_d3hot (r : Rec) : (emit s r).d3hot = s.d3hot := rfl
@[simp] theorem emit_cfgs (r : Rec) : (emit s r).cfgs = s.cfgs := rfl
@[simp] theorem emit_shadows (r : Rec) : (emit s r).shadows = s.shadows := rfl
@[simp] theorem emit_patrols (r : Rec) : (emit s r).patrols = s.patrols := rfl
@[simp] theorem emit_fenced (r : Rec) : (emit s r).fenced = s.fenced := rfl
@[simp] theorem emit_mapPend (r : Rec) : (emit s r).mapPend = s.mapPend := rfl
@[simp] theorem emit_ke (r : Rec) : (emit s r).ke = s.ke := rfl

@[simp] theorem evalWaiting_pending : (evalWaiting s).pending = s.pending := rfl
@[simp] theorem evalWaiting_regs : (evalWaiting s).regs = s.regs := rfl
@[simp] theorem evalWaiting_mem : (evalWaiting s).mem = s.mem := rfl
@[simp] theorem evalWaiting_flips : (evalWaiting s).flips = s.flips := rfl
@[simp] theorem evalWaiting_clk : (evalWaiting s).clk = s.clk := rfl
@[simp] theorem evalWaiting_tasks : (evalWaiting s).tasks = s.tasks := rfl
@[simp] theorem evalWaiting_cores : (evalWaiting s).cores = s.cores := rfl
@[simp] theorem evalWaiting_ariths : (evalWaiting s).ariths = s.ariths := rfl
@[simp] theorem evalWaiting_tiles : (evalWaiting s).tiles = s.tiles := rfl
@[simp] theorem evalWaiting_dies : (evalWaiting s).dies = s.dies := rfl
@[simp] theorem evalWaiting_apply : (evalWaiting s).apply = s.apply := rfl
@[simp] theorem evalWaiting_parts : (evalWaiting s).parts = s.parts := rfl
@[simp] theorem evalWaiting_recs : (evalWaiting s).recs = s.recs := rfl
@[simp] theorem evalWaiting_logs : (evalWaiting s).logs = s.logs := rfl
@[simp] theorem evalWaiting_outs : (evalWaiting s).outs = s.outs := rfl
@[simp] theorem evalWaiting_vecs : (evalWaiting s).vecs = s.vecs := rfl
@[simp] theorem evalWaiting_numVfs : (evalWaiting s).numVfs = s.numVfs := rfl
@[simp] theorem evalWaiting_free : (evalWaiting s).free = s.free := rfl
@[simp] theorem evalWaiting_seam : (evalWaiting s).seam = s.seam := rfl
@[simp] theorem evalWaiting_haulCtl : (evalWaiting s).haulCtl = s.haulCtl := rfl
@[simp] theorem evalWaiting_flights : (evalWaiting s).flights = s.flights := rfl
@[simp] theorem evalWaiting_outFlits : (evalWaiting s).outFlits = s.outFlits := rfl
@[simp] theorem evalWaiting_mcasts : (evalWaiting s).mcasts = s.mcasts := rfl
@[simp] theorem evalWaiting_nextMc : (evalWaiting s).nextMc = s.nextMc := rfl
@[simp] theorem evalWaiting_rings : (evalWaiting s).rings = s.rings := rfl
@[simp] theorem evalWaiting_memc : (evalWaiting s).memc = s.memc := rfl
@[simp] theorem evalWaiting_links : (evalWaiting s).links = s.links := rfl
@[simp] theorem evalWaiting_xp : (evalWaiting s).xp = s.xp := rfl
@[simp] theorem evalWaiting_sync : (evalWaiting s).sync = s.sync := rfl
@[simp] theorem evalWaiting_dmas : (evalWaiting s).dmas = s.dmas := rfl
@[simp] theorem evalWaiting_bar2 : (evalWaiting s).bar2 = s.bar2 := rfl
@[simp] theorem evalWaiting_d3hot : (evalWaiting s).d3hot = s.d3hot := rfl
@[simp] theorem evalWaiting_cfgs : (evalWaiting s).cfgs = s.cfgs := rfl
@[simp] theorem evalWaiting_shadows : (evalWaiting s).shadows = s.shadows := rfl
@[simp] theorem evalWaiting_patrols : (evalWaiting s).patrols = s.patrols := rfl
@[simp] theorem evalWaiting_fenced : (evalWaiting s).fenced = s.fenced := rfl
@[simp] theorem evalWaiting_mapPend : (evalWaiting s).mapPend = s.mapPend := rfl
@[simp] theorem evalWaiting_om : (evalWaiting s).om = s.om := rfl
@[simp] theorem evalWaiting_ke : (evalWaiting s).ke = s.ke := rfl

@[simp] theorem settleGraphs_pending : (settleGraphs s).pending = s.pending := rfl
@[simp] theorem settleGraphs_regs : (settleGraphs s).regs = s.regs := rfl
@[simp] theorem settleGraphs_mem : (settleGraphs s).mem = s.mem := rfl
@[simp] theorem settleGraphs_flips : (settleGraphs s).flips = s.flips := rfl
@[simp] theorem settleGraphs_clk : (settleGraphs s).clk = s.clk := rfl
@[simp] theorem settleGraphs_tasks : (settleGraphs s).tasks = s.tasks := rfl
@[simp] theorem settleGraphs_cores : (settleGraphs s).cores = s.cores := rfl
@[simp] theorem settleGraphs_ariths : (settleGraphs s).ariths = s.ariths := rfl
@[simp] theorem settleGraphs_tiles : (settleGraphs s).tiles = s.tiles := rfl
@[simp] theorem settleGraphs_dies : (settleGraphs s).dies = s.dies := rfl
@[simp] theorem settleGraphs_apply : (settleGraphs s).apply = s.apply := rfl
@[simp] theorem settleGraphs_parts : (settleGraphs s).parts = s.parts := rfl
@[simp] theorem settleGraphs_recs : (settleGraphs s).recs = s.recs := rfl
@[simp] theorem settleGraphs_logs : (settleGraphs s).logs = s.logs := rfl
@[simp] theorem settleGraphs_outs : (settleGraphs s).outs = s.outs := rfl
@[simp] theorem settleGraphs_vecs : (settleGraphs s).vecs = s.vecs := rfl
@[simp] theorem settleGraphs_numVfs : (settleGraphs s).numVfs = s.numVfs := rfl
@[simp] theorem settleGraphs_free : (settleGraphs s).free = s.free := rfl
@[simp] theorem settleGraphs_seam : (settleGraphs s).seam = s.seam := rfl
@[simp] theorem settleGraphs_haulCtl : (settleGraphs s).haulCtl = s.haulCtl := rfl
@[simp] theorem settleGraphs_flights : (settleGraphs s).flights = s.flights := rfl
@[simp] theorem settleGraphs_outFlits : (settleGraphs s).outFlits = s.outFlits := rfl
@[simp] theorem settleGraphs_mcasts : (settleGraphs s).mcasts = s.mcasts := rfl
@[simp] theorem settleGraphs_nextMc : (settleGraphs s).nextMc = s.nextMc := rfl
@[simp] theorem settleGraphs_rings : (settleGraphs s).rings = s.rings := rfl
@[simp] theorem settleGraphs_memc : (settleGraphs s).memc = s.memc := rfl
@[simp] theorem settleGraphs_links : (settleGraphs s).links = s.links := rfl
@[simp] theorem settleGraphs_xp : (settleGraphs s).xp = s.xp := rfl
@[simp] theorem settleGraphs_sync : (settleGraphs s).sync = s.sync := rfl
@[simp] theorem settleGraphs_dmas : (settleGraphs s).dmas = s.dmas := rfl
@[simp] theorem settleGraphs_bar2 : (settleGraphs s).bar2 = s.bar2 := rfl
@[simp] theorem settleGraphs_d3hot : (settleGraphs s).d3hot = s.d3hot := rfl
@[simp] theorem settleGraphs_cfgs : (settleGraphs s).cfgs = s.cfgs := rfl
@[simp] theorem settleGraphs_shadows : (settleGraphs s).shadows = s.shadows := rfl
@[simp] theorem settleGraphs_patrols : (settleGraphs s).patrols = s.patrols := rfl
@[simp] theorem settleGraphs_fenced : (settleGraphs s).fenced = s.fenced := rfl
@[simp] theorem settleGraphs_mapPend : (settleGraphs s).mapPend = s.mapPend := rfl
@[simp] theorem settleGraphs_om : (settleGraphs s).om = s.om := rfl
@[simp] theorem settleGraphs_ke : (settleGraphs s).ke = s.ke := rfl

end Sys2Proof.Machine
end

