-- ==== Sys2Proof/Laws/Regs.lean ====
section
/-! SUPPORT. Bit fields and registers: what a field reads after a write, and what a write leaves. -/

namespace Sys2Proof.Machine

/-- The mask of a field has its bits set. -/
theorem getLsbD_fieldMask (w hi lo k : Nat) (h : lo ≤ hi) : (fieldMask w hi lo).getLsbD k = (decide (k < w) && decide (lo ≤ k) && decide (k ≤ hi)) := by
  simp only [fieldMask, BitVec.getLsbD_ofNat, Nat.testBit_mul_two_pow, Nat.testBit_two_pow_sub_one]
  by_cases h1 : k < w <;> by_cases h2 : lo ≤ k <;> by_cases h3 : k ≤ hi <;> simp [h1, h2, h3] <;> omega

/-- A bit of a word with a field replaced. -/
theorem getLsbD_setBits {w : Nat} (v : BitVec w) (hi lo x k : Nat) (h : lo ≤ hi) :
    (setBits v hi lo x).getLsbD k = if k < w ∧ lo ≤ k ∧ k ≤ hi then x.testBit (k - lo) else v.getLsbD k := by
  simp only [setBits, BitVec.getLsbD_or, BitVec.getLsbD_and, BitVec.getLsbD_not, getLsbD_fieldMask _ _ _ _ h, BitVec.getLsbD_ofNat,
    Nat.testBit_mul_two_pow, Nat.testBit_mod_two_pow]
  by_cases h1 : k < w
  · by_cases h2 : lo ≤ k
    · by_cases h3 : k ≤ hi
      · have h4 : k - lo < hi + 1 - lo := by omega
        simp [h1, h2, h3, h4]
      · have h4 : ¬ k - lo < hi + 1 - lo := by omega
        simp [h1, h2, h3, h4]
    · simp [h1, h2]
  · have : v.getLsbD k = false := BitVec.getLsbD_of_ge v k (by omega)
    simp [h1, this]

/-- The bits of a field. -/
theorem testBit_getBits {w : Nat} (v : BitVec w) (hi lo k : Nat) :
    (getBits v hi lo).testBit k = (decide (k < hi + 1 - lo) && v.getLsbD (lo + k)) := by
  simp only [getBits, Nat.testBit_mod_two_pow, Nat.testBit_div_two_pow]
  rw [Nat.add_comm k lo]
  rfl

/-- A field reads what was put into it. -/
theorem getBits_setBits_self {w : Nat} (v : BitVec w) (hi lo x : Nat) (h : lo ≤ hi) (hw : hi < w) :
    getBits (setBits v hi lo x) hi lo = x % 2 ^ (hi + 1 - lo) := by
  apply Nat.eq_of_testBit_eq
  intro k
  rw [testBit_getBits, getLsbD_setBits _ _ _ _ _ h, Nat.testBit_mod_two_pow]
  by_cases hk : k < hi + 1 - lo
  · rw [if_pos (by omega)]
    simp [hk]
  · simp [hk]

/-- Replacing a field leaves a field that shares no bit with it. -/
theorem getBits_setBits_ne {w : Nat} (v : BitVec w) (hi lo x hi' lo' : Nat) (h : lo ≤ hi) (hd : hi' < lo ∨ hi < lo') :
    getBits (setBits v hi lo x) hi' lo' = getBits v hi' lo' := by
  apply Nat.eq_of_testBit_eq
  intro k
  rw [testBit_getBits, testBit_getBits, getLsbD_setBits _ _ _ _ _ h]
  by_cases hk : k < hi' + 1 - lo'
  · rw [if_neg (by omega)]
  · simp [hk]

/-- A field that lies within a register. -/
def Fld.ok (f : Fld) : Prop := f.lo ≤ f.hi ∧ f.hi < 64

variable (s : State)

/-- A register reads what was written to it. -/
@[simp] theorem rd_wr_self (r : RegName) (v : Word) (i j fn : Nat) : rd (wr s r v i j fn) r i j fn = v := by simp [rd, wr]

/-- A write leaves every register of another key. -/
theorem rd_wr_ne {r r' : RegName} (v : Word) {i j fn i' j' fn' : Nat} (h : regKey r' i' j' fn' ≠ regKey r i j fn) :
    rd (wr s r v i j fn) r' i' j' fn' = rd s r' i' j' fn' := by simp [rd, wr, h]

/-- A field write leaves every register of another key. -/
theorem rd_fs_ne {f : Fld} {r' : RegName} (x : Nat) {i j fn i' j' fn' : Nat} (h : regKey r' i' j' fn' ≠ regKey f.reg i j fn) :
    rd (fs s f x i j fn) r' i' j' fn' = rd s r' i' j' fn' := rd_wr_ne s _ h

/-- A field reads what was written to it. -/
theorem fg_fs_self (f : Fld) (x i j fn : Nat) (h : f.ok) : fg (fs s f x i j fn) f i j fn = x % 2 ^ (f.hi + 1 - f.lo) := by
  simp [fg, fs, getBits_setBits_self _ _ _ _ h.1 h.2]

/-- A field write leaves another field of its register. -/
theorem fg_fs_ne {f g : Fld} (x i j fn : Nat) (hr : g.reg = f.reg) (h : f.lo ≤ f.hi) (hd : g.hi < f.lo ∨ f.hi < g.lo) :
    fg (fs s f x i j fn) g i j fn = fg s g i j fn := by
  simp [fg, fs, hr, getBits_setBits_ne _ _ _ _ _ _ h hd]

/-- A field write leaves the fields of every register of another key. -/
theorem fg_fs_other {f g : Fld} (x : Nat) {i j fn i' j' fn' : Nat} (h : regKey g.reg i' j' fn' ≠ regKey f.reg i j fn) :
    fg (fs s f x i j fn) g i' j' fn' = fg s g i' j' fn' := by simp only [fg]; rw [rd_fs_ne s x h]

/-- A register write leaves the fields of every register of another key. -/
theorem fg_wr_other {r : RegName} {g : Fld} (v : Word) {i j fn i' j' fn' : Nat} (h : regKey g.reg i' j' fn' ≠ regKey r i j fn) :
    fg (wr s r v i j fn) g i' j' fn' = fg s g i' j' fn' := by simp only [fg]; rw [rd_wr_ne s v h]

/-- Two writes of one register: the later one counts. -/
theorem find_wr (r : RegName) (v : Word) (i j fn k : Nat) (h : k ≠ regKey r i j fn) : SMap.find (wr s r v i j fn).regs k = SMap.find s.regs k := by
  simp [wr, h]

/-- A write changes no register but its own. -/
theorem regsBut_wr (r : RegName) (v : Word) (i j fn : Nat) : RegsBut s (wr s r v i j fn) [regKey r i j fn] := by
  intro k hk
  exact find_wr s r v i j fn k (by simpa using hk)

/-- A field write changes no register but its own. -/
theorem regsBut_fs (f : Fld) (x i j fn : Nat) : RegsBut s (fs s f x i j fn) [regKey f.reg i j fn] := regsBut_wr s _ _ _ _ _

end Sys2Proof.Machine
end

