-- ==== Sys2Proof/Laws/Finish.lean ====
section
/-! SUPPORT. What a command does last (`settled`): in a quiet state it only makes WAITING tasks ELIGIBLE and marks finished graphs. -/

namespace Sys2Proof.Machine

variable (s : State)

@[simp] theorem finish_eq : finish s = .next (settled s) := rfl

/-- With no collective enabled and no packet waiting, nothing fires. -/
theorem collSettle_quiet (h : s.Quiet) : collSettle s = s := by simp [collSettle, h.1, h.2.1]

/-- With no shadow run, none ends. -/
theorem shadowSettle_quiet (h : s.Quiet) : shadowSettle s = s := by simp [shadowSettle, h.2.2.1]

/-- With no sample record waiting, none is sent. -/
theorem flushSamples_quiet (h : s.Quiet) : flushSamples s = s := by simp [flushSamples, h.2.2.2]

/-- In a quiet state only the TGE acts. -/
theorem settled_quiet (h : s.Quiet) : settled s = settleGraphs (evalWaiting s) := by
  rw [settled, flushSamples_quiet s h, collSettle_quiet s h, shadowSettle_quiet s h]

/-- Whether a task is runnable depends on the gates only. -/
theorem runnable_congr {s u : State} (h : u.regs = s.regs) (p : Nat) (n : Node) : n.runnable u p = n.runnable s p := by
  unfold Node.runnable gate fg rd
  rw [h]

/-- Marking finished graphs changes their finish times only. -/
theorem mem_settleGraphs {g : Graph} (h : g ∈ (settleGraphs s).tge.graphs) :
    ∃ g0 ∈ s.tge.graphs, g = if g0.finished.isNone && g0.complete then { g0 with finished := some s.clk.cyc } else g0 := by
  simp only [settleGraphs, List.mem_map] at h
  obtain ⟨g0, hm, rfl⟩ := h
  exact ⟨g0, hm, rfl⟩

/-- After the evaluation of WAIT_EN conditions no WAITING task of a validated graph is runnable. -/
theorem evalWaiting_runs {g : Graph} (h : g ∈ (evalWaiting s).tge.graphs) (hv : g.validated = true) (hs : g.status = none) :
    ∀ n ∈ g.nodes, n.state = .waiting → n.runnable s g.part = false := by
  simp only [evalWaiting, List.mem_map] at h
  obtain ⟨g0, _, rfl⟩ := h
  split at hv <;> rename_i hc
  · rw [if_pos hc] at hs ⊢
    intro n hn hw
    simp only [List.mem_map] at hn
    obtain ⟨m, _, rfl⟩ := hn
    by_cases hb : m.state = .waiting ∧ m.runnable s g0.part = true
    · rw [if_pos hb] at hw; cases hw
    · rw [if_neg hb] at hw ⊢
      simpa [hw, Graph.part] using hb
  · rw [if_neg hc] at hs
    simp [hv, hs] at hc

end Sys2Proof.Machine
end

