-- ==== Sys2Proof/Laws/Issue.lean ====
section
/-! SUPPORT. The shared operations of the Edley cores: what an instruction answers once it issues, and the register files. -/

namespace Sys2Proof.Machine

variable (s : State)

/-! ### Tables by key -/

@[simp] theorem coreAt_updCore_self (c : CoreRef) (f : Core → Core) : coreAt (updCore s c f) c = f (coreAt s c) := by simp [coreAt, updCore, setCore]

theorem find_cores_updCore (c : CoreRef) (f : Core → Core) (k : Nat) (h : k ≠ coreKey c) :
    SMap.find (updCore s c f).cores k = SMap.find s.cores k := by simp [updCore, setCore, h]

theorem coreAt_updCore_ne {c d : CoreRef} (f : Core → Core) (h : coreKey d ≠ coreKey c) : coreAt (updCore s c f) d = coreAt s d := by
  simp [coreAt, updCore, setCore, h]

@[simp] theorem tile_updTile_self (n : Nat) (f : Tile → Tile) : tile (updTile s n f) n = f (tile s n) := by simp [tile, updTile, setTile]

@[simp] theorem arith_setArith_self (n : Nat) (a : Arith) : arith (setArith s n a) n = a := by simp [arith, setArith]

@[simp] theorem part_setPart_self (p : Nat) (x : Part) : part (setPart s p x) p = x := by simp [part, setPart]

@[simp] theorem tile_updCore (c : CoreRef) (f : Core → Core) (n : Nat) : tile (updCore s c f) n = tile s n := rfl

@[simp] theorem coreAt_updTile (n : Nat) (f : Tile → Tile) (c : CoreRef) : coreAt (updTile s n f) c = coreAt s c := rfl

/-! ### Register files -/

variable (k : Core)

@[simp] theorem gr_setG_self (r : Nat) (v : Word) (t : Nat) : (k.setG r v t).gr r = if r = 0 then 0 else v := by
  by_cases h : r = 0 <;> simp [Core.setG, Core.gr, h]

theorem gr_setG_ne {r q : Nat} (v : Word) (t : Nat) (h : q ≠ r) : (k.setG r v t).gr q = k.gr q := by
  by_cases h0 : r = 0 <;> simp [Core.setG, Core.gr, h0, h]

@[simp] theorem pr_setP_self (r : Nat) (v : Word) (t : Nat) : (k.setP r v t).pr r = if r = 0 then BitVec.allOnes 64 else v := by
  by_cases h : r = 0 <;> simp [Core.setP, Core.pr, h]

theorem pr_setP_ne {r q : Nat} (v : Word) (t : Nat) (h : q ≠ r) : (k.setP r v t).pr q = k.pr q := by
  by_cases h0 : r = 0 <;> simp [Core.setP, Core.pr, h0, h]

@[simp] theorem wr_setW_self (r : Nat) (v : BitVec 2048) (t : Nat) : (k.setW r v t).wr r = v := by simp [Core.setW, Core.wr]

theorem wr_setW_ne {r q : Nat} (v : BitVec 2048) (t : Nat) (h : q ≠ r) : (k.setW r v t).wr q = k.wr q := by simp [Core.setW, Core.wr, h]

@[simp] theorem dr_setD_self (r : Nat) (v : BitVec 256) (t : Nat) : (k.setD r v t).dr r = v := by simp [Core.setD, Core.dr]

theorem dr_setD_ne {r q : Nat} (v : BitVec 256) (t : Nat) (h : q ≠ r) : (k.setD r v t).dr q = k.dr q := by simp [Core.setD, Core.dr, h]

/-! ### Issue -/

/-- An instruction that issues and whose checks pass answers its effect. -/
theorem runOp_next {s s1 s2 : State} {c : CoreRef} {h : Holder} {srcs : List Nat} {checks : State → Issue → List (Nat × Word)}
    {effect : State → Issue → Option State} {lb : State → Nat} {i : Issue} (hi : issue? s c srcs lb = some (s1, i))
    (hc : pcChecks (coreAt s1 c) i.task ++ classChecks h c ++ checks s1 i = []) (he : effect s1 i = some s2) :
    runOp s c h srcs checks effect lb = .next (settled s2) := by
  simp [runOp, hi, hc, he, firstFault, leastBy]

/-- An instruction of which a check fails raises the failure of the lowest cause code (R128). -/
theorem runOp_raise {s s1 : State} {c : CoreRef} {h : Holder} {srcs : List Nat} {checks : State → Issue → List (Nat × Word)}
    {effect : State → Issue → Option State} {lb : State → Nat} {i : Issue} {code : Nat} {aux : Word} (hi : issue? s c srcs lb = some (s1, i))
    (hc : firstFault (pcChecks (coreAt s1 c) i.task ++ classChecks h c ++ checks s1 i) = some (code, aux)) :
    runOp s c h srcs checks effect lb = .next (settled (raise s1 i.slot c code (coreAt s1 c).pc aux)) := by
  simp only [runOp, hi, hc, finish_eq]

/-- Whatever happens, an instruction answers a settled state. -/
theorem runOp_settles (c : CoreRef) (h : Holder) (srcs : List Nat) (checks : State → Issue → List (Nat × Word))
    (effect : State → Issue → Option State) (lb : State → Nat) : ∃ u, runOp s c h srcs checks effect lb = .next (settled u) := by
  unfold runOp
  repeat' split
  all_goals exact ⟨_, rfl⟩

/-- A register instruction answers its core's new registers and the next instruction. -/
theorem regOp_next {s s1 : State} {c : CoreRef} {h : Holder} {srcs : List Nat} {iv : Nat} {checks : Core → List (Nat × Word)}
    {f : Core → Nat → Core} {i : Issue} (hi : issue? s c srcs = some (s1, i))
    (hc : pcChecks (coreAt s1 c) i.task ++ classChecks h c ++ checks (coreAt s1 c) = []) :
    regOp s c h srcs iv checks f = .next (settled (retire (updCore s1 c fun k => f k i.t) c i.t iv)) := runOp_next hi hc rfl

/-- A core that runs moves on to the next instruction. -/
theorem retire_run (c : CoreRef) (t iv : Nat) (h : (coreAt s c).st = .run) :
    retire s c t iv = updCore s c fun k => k.fall (k.pc + 4) (t + iv) := by simp [retire, h]

/-- Retiring an instruction changes nothing but its core. -/
theorem retire_frame (c : CoreRef) (t iv : Nat) : retire s c t iv = { s with cores := (retire s c t iv).cores } := by
  unfold retire
  split <;> rfl

/-- Outside every loop's end the next instruction follows. -/
theorem fall_pc (next : Word) (t : Nat) (h : ∀ l ∈ k.loops.head?, next ≠ l.after) : (k.fall next t).pc = next := by
  unfold Core.fall
  cases hl : k.loops with
  | nil => simp [seqNext]
  | cons l ls => simp [seqNext, h l (by simp [hl])]

@[simp] theorem fall_gr (next : Word) (t r : Nat) : (k.fall next t).gr r = k.gr r := rfl
@[simp] theorem fall_pr (next : Word) (t r : Nat) : (k.fall next t).pr r = k.pr r := rfl
@[simp] theorem fall_wr (next : Word) (t r : Nat) : (k.fall next t).wr r = k.wr r := rfl
@[simp] theorem fall_dr (next : Word) (t r : Nat) : (k.fall next t).dr r = k.dr r := rfl
@[simp] theorem fall_st (next : Word) (t : Nat) : (k.fall next t).st = k.st := rfl
@[simp] theorem setG_st (r : Nat) (v : Word) (t : Nat) : (k.setG r v t).st = k.st := by unfold Core.setG; split <;> rfl
@[simp] theorem setP_st (r : Nat) (v : Word) (t : Nat) : (k.setP r v t).st = k.st := by unfold Core.setP; split <;> rfl
@[simp] theorem setW_st (r : Nat) (v : BitVec 2048) (t : Nat) : (k.setW r v t).st = k.st := rfl
@[simp] theorem setD_st (r : Nat) (v : BitVec 256) (t : Nat) : (k.setD r v t).st = k.st := rfl
@[simp] theorem setG_pc (r : Nat) (v : Word) (t : Nat) : (k.setG r v t).pc = k.pc := by unfold Core.setG; split <;> rfl
@[simp] theorem setP_pc (r : Nat) (v : Word) (t : Nat) : (k.setP r v t).pc = k.pc := by unfold Core.setP; split <;> rfl
@[simp] theorem setG_loops (r : Nat) (v : Word) (t : Nat) : (k.setG r v t).loops = k.loops := by unfold Core.setG; split <;> rfl
@[simp] theorem setP_loops (r : Nat) (v : Word) (t : Nat) : (k.setP r v t).loops = k.loops := by unfold Core.setP; split <;> rfl

/-- An instruction issues on a core that runs, with its task, in a cycle before the Tick's closing boundary. -/
theorem issue_runs {s s1 : State} {c : CoreRef} {srcs : List Nat} {lb : State → Nat} {i : Issue} (h : issue? s c srcs lb = some (s1, i)) :
    runnable? s1 c = some (i.slot, i.task) := by
  simp only [issue?] at h
  split at h
  · cases h
  · split at h
    · cases h
    · split at h
      · cases h
      · simp only [Option.map_eq_some_iff] at h
        obtain ⟨⟨a, b⟩, hr, he⟩ := h
        obtain ⟨h1, h2⟩ := Prod.mk.inj he
        subst h1; subst h2
        simpa using hr

/-- The core of an instruction that issues runs, on a tile that is not fenced. -/
theorem issue_run {s s1 : State} {c : CoreRef} {srcs : List Nat} {lb : State → Nat} {i : Issue} (h : issue? s c srcs lb = some (s1, i)) :
    (coreAt s1 c).st = .run ∧ (tile s1 c.tile).fenced = false ∧ i.task.started = true ∧ taskOf s1 c.tile = some (i.slot, i.task) := by
  have h := issue_runs h
  simp only [runnable?] at h
  split at h
  · split at h
    · rename_i hc
      cases h
      exact ⟨hc.2.1, hc.2.2, hc.1, by assumption⟩
    · cases h
  · cases h

end Sys2Proof.Machine
end

