-- ==== Sys2Proof/Laws/Link.lean ====
section
/-! SUPPORT. What a block header that a port builds reads as (R278). -/

namespace Sys2Proof.Machine

theorem crc16Bit_lt {c : Nat} (h : c < 65536) : crc16Bit c < 65536 := by
  unfold crc16Bit
  split
  · exact Nat.xor_lt_two_pow (n := 16) (by omega) (by omega)
  · omega

/-- A CRC keeps to 16 bits. -/
theorem crc16Byte_lt {c b : Nat} (h : c < 65536) (hb : b < 256) : crc16Byte c b < 65536 := by
  unfold crc16Byte
  iterate 8 apply crc16Bit_lt
  exact Nat.xor_lt_two_pow (n := 16) h (by omega)

theorem crcFold_lt (l : List Byte) : ∀ c, c < 65536 → l.foldl (fun c b => crc16Byte c b.toNat) c < 65536 := by
  induction l with
  | nil => exact fun c hc => hc
  | cons b l ih =>
    intro c hc
    rw [List.foldl_cons]
    exact ih _ (crc16Byte_lt hc b.isLt)

theorem blockCrc_lt (high : Nat) (bs : List Byte) : blockCrc high bs < 65536 := by
  unfold blockCrc
  refine crcFold_lt bs _ (crc16Byte_lt (crc16Byte_lt (crc16Byte_lt (by decide) ?_) ?_) ?_) <;> exact Nat.mod_lt _ (by decide)

/-- The header that a port builds for a block names its TYPE, NAK, SEQ and ACK, and its CRC is correct (R278). -/
theorem blockHead_read (typ : Nat) (nak : Bool) (seq ack : Nat) (bs : List Byte) :
    let h := blockHead typ nak seq ack bs
    headType h = typ % 4 ∧ headNak h = nak ∧ headSeq h = seq % 1024 ∧ headAck h = ack % 1024 ∧ crcRight h bs = true := by
  have hc := blockCrc_lt (typ % 4 * 2 ^ 22 + nak.toNat * 2 ^ 21 + seq % 1024 * 2 ^ 11 + ack % 1024 * 2) (blockPayload bs)
  have hn : nak.toNat ≤ 1 := by cases nak <;> decide
  simp only [blockHead]
  generalize hg : blockCrc _ _ = x at hc ⊢
  have e : (BitVec.ofNat 40 ((typ % 4 * 2 ^ 22 + nak.toNat * 2 ^ 21 + seq % 1024 * 2 ^ 11 + ack % 1024 * 2) * 65536 + x)).toNat =
      (typ % 4 * 2 ^ 22 + nak.toNat * 2 ^ 21 + seq % 1024 * 2 ^ 11 + ack % 1024 * 2) * 65536 + x := by
    rw [BitVec.toNat_ofNat]; omega
  simp only [headType, headNak, headSeq, headAck, crcRight, e]
  have d : ((typ % 4 * 2 ^ 22 + nak.toNat * 2 ^ 21 + seq % 1024 * 2 ^ 11 + ack % 1024 * 2) * 65536 + x) / 65536 = typ % 4 * 2 ^ 22 + nak.toNat * 2 ^ 21 + seq % 1024 * 2 ^ 11 + ack % 1024 * 2 := by omega
  rw [d, hg]
  refine ⟨by omega, ?_, by omega, by omega, by simp; omega⟩
  cases nak <;> simp <;> omega

end Sys2Proof.Machine
end

