-- ==== Sys2Proof/Laws/Memory.lean ====
section
/-! SUPPORT. The bytes of memory: reads after writes, and the canonical form that every memory operation keeps. -/

namespace Sys2Proof.Machine

/-- A memory with one more cell in front is canonical when the byte is not 0, the key lies below the next one and the rest is canonical. -/
theorem Memory.wf_cons (k : Nat) (v : Byte) (m : List Host.Cell) :
    Memory.wf ((k, v) :: m) = true ↔ v ≠ 0 ∧ (∀ q ∈ m.head?, k < q.1) ∧ Memory.wf m = true := by
  cases m with
  | nil => simp [Memory.wf]
  | cons a m => obtain ⟨k', v'⟩ := a; simp [Memory.wf, and_assoc]

/-- Below the first key of a canonical memory every byte reads 0. -/
theorem memByte_lt (m : List Host.Cell) (a : Nat) (h : ∀ q ∈ m.head?, a < q.1) : memByte m a = 0 := by
  cases m with
  | nil => rfl
  | cons b m =>
    obtain ⟨k, v⟩ := b
    have : a < k := h (k, v) rfl
    rw [memByte, if_neg (by omega), if_pos this]

/-- The first key after a write is the written one or the old first key or the next. -/
theorem memSet_head (m : List Host.Cell) (a : Nat) (b : Byte) (c : Nat) (hc : c < a) (h : ∀ q ∈ m.head?, c < q.1)
    (hw : Memory.wf m = true) : ∀ q ∈ (memSet m a b).head?, c < q.1 := by
  cases m with
  | nil =>
    intro q hq
    simp only [memSet] at hq
    split at hq
    · simp at hq
    · simp only [List.head?_cons, Option.mem_some_iff] at hq
      subst hq
      exact hc
  | cons d m =>
    obtain ⟨k, v⟩ := d
    have hk : c < k := h (k, v) rfl
    have hw' := (Memory.wf_cons k v m).1 hw
    intro q hq
    simp only [memSet] at hq
    split at hq
    · split at hq <;> · simp only [List.head?_cons, Option.mem_some_iff] at hq; subst hq; assumption
    · split at hq
      · split at hq
        · exact Nat.lt_trans hk (hw'.2.1 q hq)
        · simp only [List.head?_cons, Option.mem_some_iff] at hq; subst hq; exact hc
      · simp only [List.head?_cons, Option.mem_some_iff] at hq; subst hq; exact hk

/-- Writing a byte keeps the canonical form. -/
theorem memSet_wf (m : List Host.Cell) (a : Nat) (b : Byte) (h : Memory.wf m = true) : Memory.wf (memSet m a b) = true := by
  induction m with
  | nil =>
    simp only [memSet]
    split
    · rfl
    · simp_all [Memory.wf]
  | cons d m ih =>
    obtain ⟨k, v⟩ := d
    have hw := (Memory.wf_cons k v m).1 h
    simp only [memSet]
    split
    · split
      · exact h
      · rw [Memory.wf_cons]
        refine ⟨by assumption, ?_, h⟩
        intro q hq
        simp only [List.head?_cons, Option.mem_some_iff] at hq
        subst hq
        assumption
    · split
      · split
        · exact hw.2.2
        · rename_i e _
          subst e
          rw [Memory.wf_cons]
          exact ⟨by assumption, hw.2.1, hw.2.2⟩
      · rw [Memory.wf_cons]
        exact ⟨hw.1, memSet_head m a b k (by omega) hw.2.1 hw.2.2, ih hw.2.2⟩

/-- The written byte reads back. -/
theorem memByte_memSet_self (m : List Host.Cell) (a : Nat) (b : Byte) (h : Memory.wf m = true) : memByte (memSet m a b) a = b := by
  induction m with
  | nil =>
    simp only [memSet]
    split
    · simp_all [memByte]
    · simp [memByte]
  | cons d m ih =>
    obtain ⟨k, v⟩ := d
    have hw := (Memory.wf_cons k v m).1 h
    simp only [memSet]
    split
    · split
      · rename_i hlt hb
        subst hb
        rw [memByte, if_neg (by omega), if_pos hlt]
      · simp [memByte]
    · split
      · rename_i hnlt e
        subst e
        split
        · rename_i hb
          subst hb
          exact memByte_lt m a hw.2.1
        · simp [memByte]
      · rw [memByte, if_neg (by assumption), if_neg (by omega)]
        exact ih hw.2.2

/-- Writing a byte leaves every other byte. -/
theorem memByte_memSet_ne (m : List Host.Cell) {a c : Nat} (b : Byte) (h : Memory.wf m = true) (hc : c ≠ a) :
    memByte (memSet m a b) c = memByte m c := by
  induction m with
  | nil =>
    simp only [memSet]
    split
    · rfl
    · simp [memByte, hc]
  | cons d m ih =>
    obtain ⟨k, v⟩ := d
    have hw := (Memory.wf_cons k v m).1 h
    simp only [memSet]
    split
    · split
      · rfl
      · rename_i hlt _
        rw [memByte, if_neg hc]
        split
        · rw [memByte, if_neg (by omega), if_pos (by omega)]
        · rfl
    · split
      · rename_i e
        subst e
        split
        · rw [memByte, if_neg hc]
          split
          · exact memByte_lt m c fun q hq => Nat.lt_trans (by assumption) (hw.2.1 q hq)
          · rfl
        · simp [memByte, hc]
      · rw [memByte, memByte, ih hw.2.2]

/-- Writing bytes keeps the canonical form. -/
theorem memPut_wf (m : List Host.Cell) (a : Nat) (bs : List Byte) (h : Memory.wf m = true) : Memory.wf (memPut m a bs) = true := by
  induction bs generalizing m a with
  | nil => exact h
  | cons b bs ih => exact ih _ _ (memSet_wf m a b h)

/-- Writing bytes leaves every byte outside them. -/
theorem memByte_memPut_out (m : List Host.Cell) (a : Nat) (bs : List Byte) (c : Nat) (h : Memory.wf m = true)
    (hc : c < a ∨ a + bs.length ≤ c) : memByte (memPut m a bs) c = memByte m c := by
  induction bs generalizing m a with
  | nil => rfl
  | cons b bs ih =>
    simp only [List.length_cons] at hc
    rw [memPut, ih _ _ (memSet_wf m a b h) (by omega), memByte_memSet_ne m b h (by omega)]

/-- A written byte reads back. -/
theorem memByte_memPut_in (m : List Host.Cell) (a : Nat) (bs : List Byte) (i : Nat) (h : Memory.wf m = true) (hi : i < bs.length) :
    memByte (memPut m a bs) (a + i) = bs[i] := by
  induction bs generalizing m a i with
  | nil => simp at hi
  | cons b bs ih =>
    rw [memPut]
    cases i with
    | zero =>
      rw [memByte_memPut_out _ _ _ _ (memSet_wf m a b h) (by omega)]
      exact memByte_memSet_self m a b h
    | succ i =>
      have := ih (memSet m a b) (a + 1) i (memSet_wf m a b h) (by simpa using hi)
      rw [show a + (i + 1) = a + 1 + i by omega, this]
      rfl

/-- The bytes written read back. -/
theorem memBytes_memPut (m : List Host.Cell) (a : Nat) (bs : List Byte) (h : Memory.wf m = true) :
    memBytes (memPut m a bs) a bs.length = bs := by
  induction bs generalizing m a with
  | nil => rfl
  | cons b bs ih =>
    rw [memPut, List.length_cons, memBytes, ih _ _ (memSet_wf m a b h),
      memByte_memPut_out _ _ _ _ (memSet_wf m a b h) (by omega), memByte_memSet_self m a b h]

/-- The first cell of what a filter keeps lies above whatever lies below the memory's first cell. -/
theorem head_filter (m : List Host.Cell) (p : Host.Cell → Bool) (c : Nat) (hw : Memory.wf m = true) (h : ∀ q ∈ m.head?, c < q.1) :
    ∀ q ∈ (m.filter p).head?, c < q.1 := by
  induction m generalizing c with
  | nil => simp
  | cons d m ih =>
    obtain ⟨k, v⟩ := d
    have hk : c < k := h (k, v) rfl
    have hw' := (Memory.wf_cons k v m).1 hw
    rw [List.filter_cons]
    split
    · intro q hq
      simp only [List.head?_cons, Option.mem_some_iff] at hq
      subst hq
      exact hk
    · exact ih c hw'.2.2 fun q hq => Nat.lt_trans hk (hw'.2.1 q hq)

/-- Keeping some of the cells keeps the canonical form. -/
theorem filter_wf (m : List Host.Cell) (p : Host.Cell → Bool) (h : Memory.wf m = true) : Memory.wf (m.filter p) = true := by
  induction m with
  | nil => rfl
  | cons d m ih =>
    obtain ⟨k, v⟩ := d
    have hw := (Memory.wf_cons k v m).1 h
    rw [List.filter_cons]
    split
    · rw [Memory.wf_cons]
      exact ⟨hw.1, head_filter m p k hw.2.2 hw.2.1, ih hw.2.2⟩
    · exact ih hw.2.2

/-- Zeroing a range keeps the canonical form. -/
theorem memZero_wf (m : List Host.Cell) (lo n : Nat) (h : Memory.wf m = true) : Memory.wf (memZero m lo n) = true := filter_wf m _ h

/-- A zeroed byte reads 0, and every byte outside the range is left. -/
theorem memByte_memZero (m : List Host.Cell) (lo n c : Nat) (h : Memory.wf m = true) :
    memByte (memZero m lo n) c = if lo ≤ c ∧ c < lo + n then 0 else memByte m c := by
  induction m with
  | nil => simp [memZero, memByte]
  | cons d m ih =>
    obtain ⟨k, v⟩ := d
    have hw := (Memory.wf_cons k v m).1 h
    have ih := ih hw.2.2
    simp only [memZero] at ih ⊢
    rw [List.filter_cons]
    by_cases hk : lo ≤ k ∧ k < lo + n
    · rw [if_neg (by simp [hk]), ih]
      by_cases hc : lo ≤ c ∧ c < lo + n
      · simp [hc]
      · rw [if_neg hc, if_neg hc, memByte, if_neg (by rintro rfl; exact hc hk)]
        split
        · exact memByte_lt m c fun q hq => Nat.lt_trans (by assumption) (hw.2.1 q hq)
        · rfl
    · rw [if_pos (by simp; omega), memByte]
      by_cases hc : lo ≤ c ∧ c < lo + n
      · rw [if_neg (by rintro rfl; exact hk hc), ih, if_pos hc, if_pos hc, ite_self]
      · rw [if_neg hc, memByte, ih, if_neg hc]

/-- Every memory operation on the state keeps the canonical form: writing bytes. -/
theorem putBytes_wf (s : State) (a : Nat) (bs : List Byte) (h : Memory.wf s.mem = true) : Memory.wf (putBytes s a bs).mem = true :=
  memPut_wf s.mem a bs h

/-- Every memory operation on the state keeps the canonical form: zeroing bytes. -/
theorem zeroBytes_wf (s : State) (a n : Nat) (h : Memory.wf s.mem = true) : Memory.wf (zeroBytes s a n).mem = true := memZero_wf s.mem a n h

/-- The memory at reset is in canonical form. -/
theorem reset_mem_wf : Memory.wf State.reset.mem = true := rfl

end Sys2Proof.Machine
end

