-- ==== Sys2Proof/WellFormed.lean ====
section
/-! DEFINITION. Which commands are well formed: every unit number lies in the range of Table 1.2 and of the registers' own
index ranges. A well-formedness check is decidable; a command that fails it is one that no sender can send. -/

namespace Sys2Proof

/-- The tile of a core is a physical tile (Table 1.2). -/
def CoreRef.wf (c : CoreRef) : Bool := decide (c.tile < 1152)

/-- A function is the PF, VF 1 to 8 (R323) or the Overman. -/
def Func.wf : Func → Bool
  | .pf => true
  | .vf i => decide (1 ≤ i) && decide (i ≤ 8)
  | .overman => true

/-- Every index operand of the command lies in its range. -/
def Instr.wf : Instr → Bool
  | .registerWrite f off _ _ => f.wf && decide (off < 0x4000000)
  | .sectionApplyGo f _ => f.wf
  | .sectionApplyStart => true
  | .sectionApplyComplete => true
  | .tickBoundary => true
  | .tickSwitchArm f _ => f.wf
  | .tickSwitchCancel f => f.wf
  | .tickCtlWrite f _ => f.wf
  | .sqTailDoorbell f q _ => f.wf && decide (q < 128)
  | .cqHeadDoorbell f q _ => f.wf && decide (q < 128)
  | .graphHeaderFetch => true
  | .graphValidate => true
  | .sqCtlWrite f q _ => f.wf && decide (q < 128)
  | .cqCtlWrite f q _ => f.wf && decide (q < 128)
  | .slotGrant => true
  | .admission => true
  | .taskLaunch slot => decide (slot < 65536)
  | .taskEndEvent slot => decide (slot < 65536)
  | .regionResetComplete slot => decide (slot < 65536)
  | .completionRecordWrite q => decide (q < 128)
  | .gateValueWrite f p g _ => f.wf && decide (p < 8) && decide (g < 1024)
  | .gateAdd f _ => f.wf
  | .graphCancel f _ => f.wf
  | .admitCtlWrite f _ => f.wf
  | .alu c _ => c.wf
  | .addi c _ => c.wf
  | .andi c _ => c.wf
  | .ori c _ => c.wf
  | .xori c _ => c.wf
  | .shi c _ => c.wf
  | .immc c _ => c.wf
  | .cmp c _ => c.wf
  | .cmpi c _ => c.wf
  | .prdLogic c _ _ _ _ => c.wf
  | .pfromg c _ _ _ => c.wf
  | .ptog c _ _ _ => c.wf
  | .sel c _ => c.wf
  | .br c _ => c.wf
  | .jal c _ => c.wf
  | .jalr c _ => c.wf
  | .loop c _ => c.wf
  | .ld c _ => c.wf
  | .st c _ => c.wf
  | .wld c _ => c.wf
  | .wst c _ => c.wf
  | .dld c _ => c.wf
  | .dst c _ => c.wf
  | .dset c _ _ _ _ _ => c.wf
  | .dget c _ _ _ _ _ => c.wf
  | .stopFill c _ _ _ => c.wf
  | .stopCopy c _ _ _ => c.wf
  | .storeEngineComplete tile => decide (tile < 1152)
  | .vop c _ => c.wf
  | .vfma c _ => c.wf
  | .vcmp c _ => c.wf
  | .vsel c _ => c.wf
  | .vcvt c _ => c.wf
  | .vsfu c _ => c.wf
  | .vred c _ => c.wf
  | .vqnt c _ => c.wf
  | .vsmxStep c _ => c.wf
  | .vsmxReset c _ => c.wf
  | .vsmxReadM c _ => c.wf
  | .vsmxReadS c _ => c.wf
  | .vzero c _ => c.wf
  | .vcopy c _ => c.wf
  | .vbcast c _ => c.wf
  | .vext c _ => c.wf
  | .vins c _ => c.wf
  | .vint c _ => c.wf
  | .accrd c _ => c.wf
  | .mma c _ => c.wf
  | .mmaComplete tile => decide (tile < 1152)
  | .mdrain c _ => c.wf
  | .mdrainComplete tile => decide (tile < 1152)
  | .snchk c _ => c.wf
  | .sentinelTrip tile => decide (tile < 1152)
  | .dout c x => c.wf && x.noise.all fun x => decide (x.2.1 < 8)
  | .din c _ => c.wf
  | .dwait c _ => c.wf
  | .dwaitExpire c => c.wf
  | .hget c _ => c.wf
  | .hput c _ => c.wf
  | .haulRequestComplete c _ _ => c.wf
  | .fenceStore c _ _ _ => c.wf
  | .fenceHaul c _ _ _ => c.wf
  | .fenceRemote c _ _ _ => c.wf
  | .fenceCmd c _ _ _ => c.wf
  | .fenceHaulCount c _ _ _ => c.wf
  | .msgSend c _ _ _ _ => c.wf
  | .msgReq c _ _ _ _ => c.wf
  | .msgReply c _ _ _ _ => c.wf
  | .msgRecv c _ _ _ _ => c.wf
  | .msgStat c _ _ _ _ => c.wf
  | .msgCount c _ _ _ _ => c.wf
  | .seamFetchIssue c _ _ _ => c.wf
  | .seamAppendIssue c _ _ _ => c.wf
  | .seamControlIssue c _ _ _ => c.wf
  | .assayQueryIssue c _ _ _ => c.wf
  | .taskNop c _ _ _ => c.wf
  | .tend c _ _ _ => c.wf
  | .taskGate c _ _ _ => c.wf
  | .trap c _ _ _ => c.wf
  | .csrRead c _ _ _ => c.wf
  | .csrWrite c _ _ _ => c.wf
  | .csrSet c _ _ _ => c.wf
  | .csrClear c _ _ _ => c.wf
  | .gatherEntryWrite c => c.wf
  | .remoteLineWrite tile off _ _ _ => decide (tile < 1152) && decide (off < 2097152)
  | .remoteStoreRead tile off _ => decide (tile < 1152) && decide (off < 2097152)
  | .tileScrubStep tile _ => decide (tile < 1152)
  | .plFenceWrite f tile _ => f.wf && decide (tile < 1152)
  | .passageFail tile => decide (tile < 1152)
  | .replacementLinkSelect die => decide (die < 4)
  | .replacementInForce die => decide (die < 4)
  | .placeCtlWrite f _ => f.wf
  | .seamFetch die => decide (die < 4)
  | .seamAppend die => decide (die < 4)
  | .controlOpen die => decide (die < 4)
  | .controlPark die => decide (die < 4)
  | .controlResume die => decide (die < 4)
  | .controlClose die => decide (die < 4)
  | .streamFreeComplete p sid => decide (p < 8) && decide (sid < 1048576)
  | .controlRestore die => decide (die < 4)
  | .restoreComplete p sid _ => decide (p < 8) && decide (sid < 1048576)
  | .controlResync die => decide (die < 4)
  | .resyncComplete p sid _ => decide (p < 8) && decide (sid < 1048576)
  | .controlQuery die => decide (die < 4)
  | .seamHqTailWrite f p _ => f.wf && decide (p < 8)
  | .seamHqEntryFetch p => decide (p < 8)
  | .seamHqCtlWrite f p _ => f.wf && decide (p < 8)
  | .seamCtlWrite f p _ => f.wf && decide (p < 8)
  | .seamLeaseCfgWrite f p i _ => f.wf && decide (p < 8) && decide (i < 4)
  | .leaseHeaderWrite p i => decide (p < 8) && decide (i < 4)
  | .seamContrailCtlWrite f p _ => f.wf && decide (p < 8)
  | .seamRemoteCfgWrite f p i _ => f.wf && decide (p < 8) && decide (i < 4)
  | .partnerCheckComplete p _ => decide (p < 8)
  | .tieringScan die => decide (die < 4)
  | .frameMoveComplete p sid leaf _ => decide (p < 8) && decide (sid < 1048576) && decide (leaf < 16777216)
  | .contrailAck p _ _ => decide (p < 8)
  | .contrailTimeout p _ => decide (p < 8)
  | .assayQuery die => decide (die < 4)
  | .assayCtlWrite f p _ => f.wf && decide (p < 8)
  | .flitEntry ring at_ _ fl => decide (ring < 272) && decide (at_.pos < if ring % 68 < 32 then 20 else 18) && decide (at_.source < 4096) && decide (fl.more.toNat ≤ 16) && decide (fl.seq ≤ fl.more)
  | .flitArrival ring _ _ _ => decide (ring < 272)
  | .haulTimeout c _ => c.wf
  | .mcastReturn _ _ => true
  | .mcastReturnTimeout _ => true
  | .ageBeaconLap die ix => decide (die < 4) && decide (ix < 68)
  | .msgArrival _ => true
  | .msgOutcome _ => true
  | .memRead dev off _ _ => decide (dev < 24) && decide (off < 137438953472)
  | .memWrite dev off _ _ => decide (dev < 24) && decide (off < 137438953472)
  | .memScrubStep dev _ => decide (dev < 24)
  | .softRepairComplete dev _ => decide (dev < 24)
  | .portEnWrite f n _ => f.wf && decide (n < 32)
  | .portRetrainWrite f n _ => f.wf && decide (n < 32)
  | .detectDone n _ => decide (n < 32)
  | .detectTimeout n _ => decide (n < 32)
  | .equalizeDone n _ => decide (n < 32)
  | .equalizeTimeout n _ => decide (n < 32)
  | .laneCheckDone n _ => decide (n < 32)
  | .configDone n _ => decide (n < 32)
  | .alignLock n => decide (n < 32)
  | .alignTimeout n => decide (n < 32)
  | .retrainDone n _ _ _ => decide (n < 32)
  | .laneLoss n lane => decide (n < 32) && decide (lane < 8)
  | .linkBlockRx n b => decide (n < 32) && decide (b.wrong.length = 2) && b.wrong.all (fun l => l.all fun i => decide (i < 544)) && decide (b.payload.length ≤ 1280)
  | .replayTimeout n => decide (n < 32)
  | .backgroundRound n => decide (n < 32)
  | .backgroundRoundEnd n _ _ => decide (n < 32)
  | .widthProposalAck n => decide (n < 32)
  | .widthProposalLapse n => decide (n < 32)
  | .pauseDone n _ lane => decide (n < 32) && decide (lane < 8)
  | .rdReqReceive n _ _ => decide (n < 32)
  | .wrReqReceive n _ _ => decide (n < 32)
  | .rdRespReceive n _ _ => decide (n < 32)
  | .wrCmpReceive n _ _ => decide (n < 32)
  | .collDataReceive n _ _ => decide (n < 32)
  | .collAckReceive n _ _ => decide (n < 32)
  | .heraldResetReceive n _ => decide (n < 32)
  | .heraldReturnReceive n _ => decide (n < 32)
  | .opRetryTimeout _ => true
  | .exclusionExpire _ plane => decide (plane < 32)
  | .beaconExchange => true
  | .beaconRespReceive n _ => decide (n < 32)
  | .meridianDiscipline => true
  | .portDevidWrite f p _ => f.wf && decide (p < 8)
  | .collTableWrite f p _ => f.wf && decide (p < 8)
  | .hostLinkDown => true
  | .hostLinkUp _ _ => true
  | .hostLinkRetrain _ _ => true
  | .perstAssert => true
  | .functionLevelReset f => f.wf
  | .bar2Read f _ _ => f.wf
  | .bar2Write f _ _ => f.wf
  | .dmaDoorbell f r _ => f.wf && decide (r < 72)
  | .dmaDescStart r => decide (r < 72)
  | .dmaDescComplete r _ => decide (r < 72)
  | .hostDmaCtlWrite f r _ => f.wf && decide (r < 72)
  | .msixModTimeout f vec => f.wf && decide (vec < 2048)
  | .msixUnmask f vec => f.wf && decide (vec < 2048)
  | .shadowGo f p _ => f.wf && decide (p < 8)
  | .shadowDiverge p a b _ => decide (p < 8) && decide (a < 1152) && decide (b < 1152)
  | .shadowCompareComplete p => decide (p < 8)
  | .prospectDue die => decide (die < 4)
  | .prospectTestEnd die _ _ _ => decide (die < 4)
  | .prospectNominate f _ => f.wf
  | .prospectCtlWrite f _ => f.wf
  | .errorRecordWrite => true
  | .logHeadWrite f log _ => f.wf && decide (log < 9)
  | .logCtlWrite f log _ => f.wf && decide (log < 9)
  | .engineWatchdog _ ix => decide (ix < 2048)
  | .engineResetReq f _ => f.wf
  | .engineResetComplete _ ix => decide (ix < 2048)
  | .escalationTimeout _ => true
  | .partitionResetReq f _ => f.wf
  | .partitionFence p => decide (p < 8)
  | .partitionDrainEnd p => decide (p < 8)
  | .partitionResetComplete p => decide (p < 8)
  | .resetRelease f _ => f.wf
  | .deviceResetReq f _ => f.wf
  | .fastPathStepEnd _ => true
  | .powerCycleReq f _ => f.wf
  | .overmanHeartbeat => true
  | .overmanFailover => true
  | .overmanSwitch f _ => f.wf
  | .rejoinGo f p _ => f.wf && decide (p < 8)
  | .rejoinAbort f p _ => f.wf && decide (p < 8)
  | .rejoinModeWrite f p _ => f.wf && decide (p < 8)
  | .rejoinSelfTestEnd p _ => decide (p < 8)
  | .rejoinWeightsEnd p _ => decide (p < 8)
  | .rejoinStreamsEnd p => decide (p < 8)
  | .fwCommit f _ => f.wf
  | .stageGo f _ => f.wf
  | .stageComplete => true
  | .attestGo f _ => f.wf
  | .attestComplete => true
  | .confWrite f p _ => f.wf && decide (p < 8)
  | .confChangeComplete p => decide (p < 8)
  | .sessOpen f p _ => f.wf && decide (p < 8)
  | .sessComplete f p _ => f.wf && decide (p < 8)
  | .sessClose f p _ => f.wf && decide (p < 8)
  | .sessOverlapExpire p slot => decide (p < 8) && decide (slot < 64)
  | .sessCounterLimit p slot => decide (p < 8) && decide (slot < 64)
  | .sealImportGo f p _ => f.wf && decide (p < 8)
  | .sealExportGo f p _ => f.wf && decide (p < 8)
  | .sealComplete p => decide (p < 8)
  | .inputInRange => true
  | .railSequenceMiss rail => decide (rail < 13)
  | .coldBootPhaseEnd _ => true
  | .selfTestComplete die _ => decide (die < 4)
  | .pstoreSlotWrite ty _ => decide (ty < 9)
  | .pstoreXferGo f _ => f.wf
  | .pstoreXferComplete => true
  | .refMonitorWindow _ _ => true
  | .fallbackTrim _ => true
  | .clkTimeSetWrite f _ => f.wf
  | .railExcursion rail _ => decide (rail < 13)
  | .thermalSample _ _ => true
  | .powerPolicyUpdate _ _ _ => true
  | .dormantEnter f _ => f.wf
  | .dormantEntryComplete => true
  | .dormantExit f _ => f.wf
  | .wakeComplete _ => true
  | .pwPrsntRemoved => true
  | .mgmtResetAssert => true
  | .entdaa _ => true
  | .setdasa _ _ => true
  | .getStatus => true
  | .mgmtReset _ => true
  | .dormantCmdEnter => true
  | .dormantCmdExit => true
  | .provisionIdentity _ => true
  | .getDik => true
  | .sensorRead _ => true
  | .powerReqDrive => true
  | .powerReqRepulse => true
  | .registerRead f off _ => f.wf && decide (off < 0x4000000)
  | .configurationWrite f _ => f.wf
  | .duplicateEntryExpire _ _ _ => true
  | .memRefresh dev _ => decide (dev < 24)
  | .illegalInstr c _ => c.wf

end Sys2Proof
end

