-- ==== Sys2Proof/Tests/Slice0.lean ====
section
/-! SUPPORT. Tests. Ill-formed commands that the checks refuse; a state and operands that meet the hypotheses of each statement of Obligations.lean (test_hyp_<statement>, one line of the conjunction per clause);
and results of single commands on small states, expected values taken from the rules or tables of spec/ that each test names. -/

namespace Sys2Proof.Tests

set_option Elab.async false

open Sys2Proof Sys2Proof.Machine Sys2Proof.Claims

/-! ### Ill-formed commands -/

/-- Each check of Func.wf, CoreRef.wf and Instr.wf refuses a term (Tables 1.2, 13.2). -/
theorem test_wf_refuses_functions_and_tiles :
    Func.wf (.vf 0) = false ∧ Func.wf (.vf 9) = false ∧ CoreRef.wf ⟨1152, false⟩ = false ∧ (Instr.alu ⟨1152, true⟩ ⟨0, 0, 0, 0⟩).wf = false := by decide +kernel

theorem test_wf_refuses_1 :
    (∀ x0 x1, (Instr.registerWrite (.vf 9) 0 x0 x1).wf = false) ∧
    (∀ x0 x1, (Instr.registerWrite .pf 0x4000000 x0 x1).wf = false) ∧
    (∀ x0, (Instr.sectionApplyGo (.vf 9) x0).wf = false) ∧
    (∀ x0, (Instr.tickSwitchArm (.vf 9) x0).wf = false) ∧
    ((Instr.tickSwitchCancel (.vf 9)).wf = false) ∧
    (∀ x0, (Instr.tickCtlWrite (.vf 9) x0).wf = false) ∧
    (∀ x0, (Instr.sqTailDoorbell (.vf 9) 0 x0).wf = false) ∧
    (∀ x0, (Instr.sqTailDoorbell .pf 128 x0).wf = false) ∧
    (∀ x0, (Instr.cqHeadDoorbell (.vf 9) 0 x0).wf = false) ∧
    (∀ x0, (Instr.cqHeadDoorbell .pf 128 x0).wf = false) ∧
    (∀ x0, (Instr.sqCtlWrite (.vf 9) 0 x0).wf = false) ∧
    (∀ x0, (Instr.sqCtlWrite .pf 128 x0).wf = false) ∧
    (∀ x0, (Instr.cqCtlWrite (.vf 9) 0 x0).wf = false) ∧
    (∀ x0, (Instr.cqCtlWrite .pf 128 x0).wf = false) ∧
    ((Instr.taskLaunch 65536).wf = false) ∧
    ((Instr.taskEndEvent 65536).wf = false) ∧
    ((Instr.regionResetComplete 65536).wf = false) ∧
    ((Instr.completionRecordWrite 128).wf = false) ∧
    (∀ x0, (Instr.gateValueWrite (.vf 9) 0 0 x0).wf = false) ∧
    (∀ x0, (Instr.gateValueWrite .pf 8 0 x0).wf = false) ∧
    (∀ x0, (Instr.gateValueWrite .pf 0 1024 x0).wf = false) ∧
    (∀ x0, (Instr.gateAdd (.vf 9) x0).wf = false) ∧
    (∀ x0, (Instr.graphCancel (.vf 9) x0).wf = false) ∧
    (∀ x0, (Instr.admitCtlWrite (.vf 9) x0).wf = false) := by
  and_intros <;> intros <;> rfl

theorem test_wf_refuses_2 :
    (∀ x0, (Instr.alu ⟨1152, false⟩ x0).wf = false) ∧
    (∀ x0, (Instr.addi ⟨1152, false⟩ x0).wf = false) ∧
    (∀ x0, (Instr.andi ⟨1152, false⟩ x0).wf = false) ∧
    (∀ x0, (Instr.ori ⟨1152, false⟩ x0).wf = false) ∧
    (∀ x0, (Instr.xori ⟨1152, false⟩ x0).wf = false) ∧
    (∀ x0, (Instr.shi ⟨1152, false⟩ x0).wf = false) ∧
    (∀ x0, (Instr.immc ⟨1152, false⟩ x0).wf = false) ∧
    (∀ x0, (Instr.cmp ⟨1152, false⟩ x0).wf = false) ∧
    (∀ x0, (Instr.cmpi ⟨1152, false⟩ x0).wf = false) ∧
    (∀ x0 x1 x2 x3, (Instr.prdLogic ⟨1152, false⟩ x0 x1 x2 x3).wf = false) ∧
    (∀ x0 x1 x2, (Instr.pfromg ⟨1152, false⟩ x0 x1 x2).wf = false) ∧
    (∀ x0 x1 x2, (Instr.ptog ⟨1152, false⟩ x0 x1 x2).wf = false) ∧
    (∀ x0, (Instr.sel ⟨1152, false⟩ x0).wf = false) ∧
    (∀ x0, (Instr.br ⟨1152, false⟩ x0).wf = false) ∧
    (∀ x0, (Instr.jal ⟨1152, false⟩ x0).wf = false) ∧
    (∀ x0, (Instr.jalr ⟨1152, false⟩ x0).wf = false) ∧
    (∀ x0, (Instr.loop ⟨1152, false⟩ x0).wf = false) ∧
    (∀ x0, (Instr.ld ⟨1152, false⟩ x0).wf = false) ∧
    (∀ x0, (Instr.st ⟨1152, false⟩ x0).wf = false) ∧
    (∀ x0, (Instr.wld ⟨1152, false⟩ x0).wf = false) ∧
    (∀ x0, (Instr.wst ⟨1152, false⟩ x0).wf = false) ∧
    (∀ x0, (Instr.dld ⟨1152, false⟩ x0).wf = false) ∧
    (∀ x0, (Instr.dst ⟨1152, false⟩ x0).wf = false) ∧
    (∀ x0 x1 x2 x3 x4, (Instr.dset ⟨1152, false⟩ x0 x1 x2 x3 x4).wf = false) := by
  and_intros <;> intros <;> rfl

theorem test_wf_refuses_3 :
    (∀ x0 x1 x2 x3 x4, (Instr.dget ⟨1152, false⟩ x0 x1 x2 x3 x4).wf = false) ∧
    (∀ x0 x1 x2, (Instr.stopFill ⟨1152, false⟩ x0 x1 x2).wf = false) ∧
    (∀ x0 x1 x2, (Instr.stopCopy ⟨1152, false⟩ x0 x1 x2).wf = false) ∧
    ((Instr.storeEngineComplete 1152).wf = false) ∧
    (∀ x0, (Instr.vop ⟨1152, false⟩ x0).wf = false) ∧
    (∀ x0, (Instr.vfma ⟨1152, false⟩ x0).wf = false) ∧
    (∀ x0, (Instr.vcmp ⟨1152, false⟩ x0).wf = false) ∧
    (∀ x0, (Instr.vsel ⟨1152, false⟩ x0).wf = false) ∧
    (∀ x0, (Instr.vcvt ⟨1152, false⟩ x0).wf = false) ∧
    (∀ x0, (Instr.vsfu ⟨1152, false⟩ x0).wf = false) ∧
    (∀ x0, (Instr.vred ⟨1152, false⟩ x0).wf = false) ∧
    (∀ x0, (Instr.vqnt ⟨1152, false⟩ x0).wf = false) ∧
    (∀ x0, (Instr.vsmxStep ⟨1152, false⟩ x0).wf = false) ∧
    (∀ x0, (Instr.vsmxReset ⟨1152, false⟩ x0).wf = false) ∧
    (∀ x0, (Instr.vsmxReadM ⟨1152, false⟩ x0).wf = false) ∧
    (∀ x0, (Instr.vsmxReadS ⟨1152, false⟩ x0).wf = false) ∧
    (∀ x0, (Instr.vzero ⟨1152, false⟩ x0).wf = false) ∧
    (∀ x0, (Instr.vcopy ⟨1152, false⟩ x0).wf = false) ∧
    (∀ x0, (Instr.vbcast ⟨1152, false⟩ x0).wf = false) ∧
    (∀ x0, (Instr.vext ⟨1152, false⟩ x0).wf = false) ∧
    (∀ x0, (Instr.vins ⟨1152, false⟩ x0).wf = false) ∧
    (∀ x0, (Instr.vint ⟨1152, false⟩ x0).wf = false) ∧
    (∀ x0, (Instr.accrd ⟨1152, false⟩ x0).wf = false) ∧
    (∀ x0, (Instr.mma ⟨1152, false⟩ x0).wf = false) := by
  and_intros <;> intros <;> rfl

theorem test_wf_refuses_4 :
    ((Instr.mmaComplete 1152).wf = false) ∧
    (∀ x0, (Instr.mdrain ⟨1152, false⟩ x0).wf = false) ∧
    ((Instr.mdrainComplete 1152).wf = false) ∧
    (∀ x0, (Instr.snchk ⟨1152, false⟩ x0).wf = false) ∧
    ((Instr.sentinelTrip 1152).wf = false) ∧
    (∀ x0, (Instr.dout ⟨1152, false⟩ x0).wf = false) ∧
    (∀ x0, (Instr.din ⟨1152, false⟩ x0).wf = false) ∧
    (∀ x0, (Instr.dwait ⟨1152, false⟩ x0).wf = false) ∧
    ((Instr.dwaitExpire ⟨1152, false⟩).wf = false) ∧
    (∀ x0, (Instr.hget ⟨1152, false⟩ x0).wf = false) ∧
    (∀ x0, (Instr.hput ⟨1152, false⟩ x0).wf = false) ∧
    (∀ x0 x1, (Instr.haulRequestComplete ⟨1152, false⟩ x0 x1).wf = false) ∧
    (∀ x0 x1 x2, (Instr.fenceStore ⟨1152, false⟩ x0 x1 x2).wf = false) ∧
    (∀ x0 x1 x2, (Instr.fenceHaul ⟨1152, false⟩ x0 x1 x2).wf = false) ∧
    (∀ x0 x1 x2, (Instr.fenceRemote ⟨1152, false⟩ x0 x1 x2).wf = false) ∧
    (∀ x0 x1 x2, (Instr.fenceCmd ⟨1152, false⟩ x0 x1 x2).wf = false) ∧
    (∀ x0 x1 x2, (Instr.fenceHaulCount ⟨1152, false⟩ x0 x1 x2).wf = false) ∧
    (∀ x0 x1 x2 x3, (Instr.msgSend ⟨1152, false⟩ x0 x1 x2 x3).wf = false) ∧
    (∀ x0 x1 x2 x3, (Instr.msgReq ⟨1152, false⟩ x0 x1 x2 x3).wf = false) ∧
    (∀ x0 x1 x2 x3, (Instr.msgReply ⟨1152, false⟩ x0 x1 x2 x3).wf = false) ∧
    (∀ x0 x1 x2 x3, (Instr.msgRecv ⟨1152, false⟩ x0 x1 x2 x3).wf = false) ∧
    (∀ x0 x1 x2 x3, (Instr.msgStat ⟨1152, false⟩ x0 x1 x2 x3).wf = false) ∧
    (∀ x0 x1 x2 x3, (Instr.msgCount ⟨1152, false⟩ x0 x1 x2 x3).wf = false) ∧
    (∀ x0 x1 x2, (Instr.seamFetchIssue ⟨1152, false⟩ x0 x1 x2).wf = false) := by
  and_intros <;> intros <;> rfl

theorem test_wf_refuses_5 :
    (∀ x0 x1 x2, (Instr.seamAppendIssue ⟨1152, false⟩ x0 x1 x2).wf = false) ∧
    (∀ x0 x1 x2, (Instr.seamControlIssue ⟨1152, false⟩ x0 x1 x2).wf = false) ∧
    (∀ x0 x1 x2, (Instr.assayQueryIssue ⟨1152, false⟩ x0 x1 x2).wf = false) ∧
    (∀ x0 x1 x2, (Instr.taskNop ⟨1152, false⟩ x0 x1 x2).wf = false) ∧
    (∀ x0 x1 x2, (Instr.tend ⟨1152, false⟩ x0 x1 x2).wf = false) ∧
    (∀ x0 x1 x2, (Instr.taskGate ⟨1152, false⟩ x0 x1 x2).wf = false) ∧
    (∀ x0 x1 x2, (Instr.trap ⟨1152, false⟩ x0 x1 x2).wf = false) ∧
    (∀ x0 x1 x2, (Instr.csrRead ⟨1152, false⟩ x0 x1 x2).wf = false) ∧
    (∀ x0 x1 x2, (Instr.csrWrite ⟨1152, false⟩ x0 x1 x2).wf = false) ∧
    (∀ x0 x1 x2, (Instr.csrSet ⟨1152, false⟩ x0 x1 x2).wf = false) ∧
    (∀ x0 x1 x2, (Instr.csrClear ⟨1152, false⟩ x0 x1 x2).wf = false) ∧
    ((Instr.gatherEntryWrite ⟨1152, false⟩).wf = false) ∧
    (∀ x0 x1 x2, (Instr.remoteLineWrite 1152 0 x0 x1 x2).wf = false) ∧
    (∀ x0 x1 x2, (Instr.remoteLineWrite 0 2097152 x0 x1 x2).wf = false) ∧
    (∀ x0, (Instr.remoteStoreRead 1152 0 x0).wf = false) ∧
    (∀ x0, (Instr.remoteStoreRead 0 2097152 x0).wf = false) ∧
    (∀ x0, (Instr.tileScrubStep 1152 x0).wf = false) ∧
    (∀ x0, (Instr.plFenceWrite (.vf 9) 0 x0).wf = false) ∧
    (∀ x0, (Instr.plFenceWrite .pf 1152 x0).wf = false) ∧
    ((Instr.passageFail 1152).wf = false) ∧
    ((Instr.replacementLinkSelect 4).wf = false) ∧
    ((Instr.replacementInForce 4).wf = false) ∧
    (∀ x0, (Instr.placeCtlWrite (.vf 9) x0).wf = false) ∧
    ((Instr.seamFetch 4).wf = false) := by
  and_intros <;> intros <;> rfl

theorem test_wf_refuses_6 :
    ((Instr.seamAppend 4).wf = false) ∧
    ((Instr.controlOpen 4).wf = false) ∧
    ((Instr.controlPark 4).wf = false) ∧
    ((Instr.controlResume 4).wf = false) ∧
    ((Instr.controlClose 4).wf = false) ∧
    ((Instr.streamFreeComplete 8 0).wf = false) ∧
    ((Instr.streamFreeComplete 0 1048576).wf = false) ∧
    ((Instr.controlRestore 4).wf = false) ∧
    (∀ x0, (Instr.restoreComplete 8 0 x0).wf = false) ∧
    (∀ x0, (Instr.restoreComplete 0 1048576 x0).wf = false) ∧
    ((Instr.controlResync 4).wf = false) ∧
    (∀ x0, (Instr.resyncComplete 8 0 x0).wf = false) ∧
    (∀ x0, (Instr.resyncComplete 0 1048576 x0).wf = false) ∧
    ((Instr.controlQuery 4).wf = false) ∧
    (∀ x0, (Instr.seamHqTailWrite (.vf 9) 0 x0).wf = false) ∧
    (∀ x0, (Instr.seamHqTailWrite .pf 8 x0).wf = false) ∧
    ((Instr.seamHqEntryFetch 8).wf = false) ∧
    (∀ x0, (Instr.seamHqCtlWrite (.vf 9) 0 x0).wf = false) ∧
    (∀ x0, (Instr.seamHqCtlWrite .pf 8 x0).wf = false) ∧
    (∀ x0, (Instr.seamCtlWrite (.vf 9) 0 x0).wf = false) ∧
    (∀ x0, (Instr.seamCtlWrite .pf 8 x0).wf = false) ∧
    (∀ x0, (Instr.seamLeaseCfgWrite (.vf 9) 0 0 x0).wf = false) ∧
    (∀ x0, (Instr.seamLeaseCfgWrite .pf 8 0 x0).wf = false) ∧
    (∀ x0, (Instr.seamLeaseCfgWrite .pf 0 4 x0).wf = false) := by
  and_intros <;> intros <;> rfl

theorem test_wf_refuses_7 :
    ((Instr.leaseHeaderWrite 8 0).wf = false) ∧
    ((Instr.leaseHeaderWrite 0 4).wf = false) ∧
    (∀ x0, (Instr.seamContrailCtlWrite (.vf 9) 0 x0).wf = false) ∧
    (∀ x0, (Instr.seamContrailCtlWrite .pf 8 x0).wf = false) ∧
    (∀ x0, (Instr.seamRemoteCfgWrite (.vf 9) 0 0 x0).wf = false) ∧
    (∀ x0, (Instr.seamRemoteCfgWrite .pf 8 0 x0).wf = false) ∧
    (∀ x0, (Instr.seamRemoteCfgWrite .pf 0 4 x0).wf = false) ∧
    (∀ x0, (Instr.partnerCheckComplete 8 x0).wf = false) ∧
    ((Instr.tieringScan 4).wf = false) ∧
    (∀ x0, (Instr.frameMoveComplete 8 0 0 x0).wf = false) ∧
    (∀ x0, (Instr.frameMoveComplete 0 1048576 0 x0).wf = false) ∧
    (∀ x0, (Instr.frameMoveComplete 0 0 16777216 x0).wf = false) ∧
    (∀ x0 x1, (Instr.contrailAck 8 x0 x1).wf = false) ∧
    (∀ x0, (Instr.contrailTimeout 8 x0).wf = false) ∧
    ((Instr.assayQuery 4).wf = false) ∧
    (∀ x0, (Instr.assayCtlWrite (.vf 9) 0 x0).wf = false) ∧
    (∀ x0, (Instr.assayCtlWrite .pf 8 x0).wf = false) ∧
    (∀ x0 x1 x2, (Instr.flitArrival 272 x0 x1 x2).wf = false) ∧
    (∀ x0, (Instr.haulTimeout ⟨1152, false⟩ x0).wf = false) ∧
    (∀ x0, (Instr.ageBeaconLap 4 x0).wf = false) ∧ ((Instr.ageBeaconLap 0 68).wf = false) ∧
    (∀ x0 x1, (Instr.memRead 24 0 x0 x1).wf = false) ∧
    (∀ x0 x1, (Instr.memRead 0 137438953472 x0 x1).wf = false) ∧
    (∀ x0 x1, (Instr.memWrite 24 0 x0 x1).wf = false) ∧
    (∀ x0 x1, (Instr.memWrite 0 137438953472 x0 x1).wf = false) := by
  and_intros <;> intros <;> rfl

theorem test_wf_refuses_8 :
    (∀ x0, (Instr.memScrubStep 24 x0).wf = false) ∧
    (∀ x0, (Instr.softRepairComplete 24 x0).wf = false) ∧
    (∀ x0, (Instr.portEnWrite (.vf 9) 0 x0).wf = false) ∧
    (∀ x0, (Instr.portEnWrite .pf 32 x0).wf = false) ∧
    (∀ x0, (Instr.portRetrainWrite (.vf 9) 0 x0).wf = false) ∧
    (∀ x0, (Instr.portRetrainWrite .pf 32 x0).wf = false) ∧
    (∀ x0, (Instr.detectDone 32 x0).wf = false) ∧
    (∀ x0, (Instr.detectTimeout 32 x0).wf = false) ∧
    (∀ x0, (Instr.equalizeDone 32 x0).wf = false) ∧
    (∀ x0, (Instr.equalizeTimeout 32 x0).wf = false) ∧
    (∀ x0, (Instr.laneCheckDone 32 x0).wf = false) ∧
    (∀ x0, (Instr.configDone 32 x0).wf = false) ∧
    ((Instr.alignLock 32).wf = false) ∧
    ((Instr.alignTimeout 32).wf = false) ∧
    (∀ x0 x1 x2, (Instr.retrainDone 32 x0 x1 x2).wf = false) ∧
    ((Instr.laneLoss 32 0).wf = false) ∧
    ((Instr.laneLoss 0 8).wf = false) ∧
    ((Instr.replayTimeout 32).wf = false) ∧
    ((Instr.backgroundRound 32).wf = false) ∧
    (∀ x0 x1, (Instr.backgroundRoundEnd 32 x0 x1).wf = false) ∧
    ((Instr.widthProposalAck 32).wf = false) ∧
    ((Instr.widthProposalLapse 32).wf = false) ∧
    (∀ x0, (Instr.pauseDone 32 x0 0).wf = false) ∧
    (∀ x0, (Instr.pauseDone 0 x0 8).wf = false) := by
  and_intros <;> intros <;> rfl

theorem test_wf_refuses_9 :
    (∀ x0 x1, (Instr.rdReqReceive 32 x0 x1).wf = false) ∧
    (∀ x0 x1, (Instr.wrReqReceive 32 x0 x1).wf = false) ∧
    (∀ x0 x1, (Instr.rdRespReceive 32 x0 x1).wf = false) ∧
    (∀ x0 x1, (Instr.wrCmpReceive 32 x0 x1).wf = false) ∧
    (∀ x0 x1, (Instr.collDataReceive 32 x0 x1).wf = false) ∧
    (∀ x0 x1, (Instr.collAckReceive 32 x0 x1).wf = false) ∧
    (∀ x0, (Instr.heraldResetReceive 32 x0).wf = false) ∧
    (∀ x0, (Instr.heraldReturnReceive 32 x0).wf = false) ∧
    (∀ x0, (Instr.exclusionExpire x0 32).wf = false) ∧
    (∀ x0, (Instr.beaconRespReceive 32 x0).wf = false) ∧
    (∀ x0, (Instr.portDevidWrite (.vf 9) 0 x0).wf = false) ∧
    (∀ x0, (Instr.portDevidWrite .pf 8 x0).wf = false) ∧
    (∀ x0, (Instr.collTableWrite (.vf 9) 0 x0).wf = false) ∧
    (∀ x0, (Instr.collTableWrite .pf 8 x0).wf = false) ∧
    ((Instr.functionLevelReset (.vf 9)).wf = false) ∧
    (∀ x0 x1, (Instr.bar2Read (.vf 9) x0 x1).wf = false) ∧
    (∀ x0 x1, (Instr.bar2Write (.vf 9) x0 x1).wf = false) ∧
    (∀ x0, (Instr.dmaDoorbell (.vf 9) 0 x0).wf = false) ∧
    (∀ x0, (Instr.dmaDoorbell .pf 72 x0).wf = false) ∧
    ((Instr.dmaDescStart 72).wf = false) ∧
    (∀ x0, (Instr.dmaDescComplete 72 x0).wf = false) ∧
    (∀ x0, (Instr.hostDmaCtlWrite (.vf 9) 0 x0).wf = false) ∧
    (∀ x0, (Instr.hostDmaCtlWrite .pf 72 x0).wf = false) ∧
    ((Instr.msixModTimeout (.vf 9) 0).wf = false) := by
  and_intros <;> intros <;> rfl

theorem test_wf_refuses_10 :
    ((Instr.msixModTimeout .pf 2048).wf = false) ∧
    ((Instr.msixUnmask (.vf 9) 0).wf = false) ∧
    ((Instr.msixUnmask .pf 2048).wf = false) ∧
    (∀ x0, (Instr.shadowGo (.vf 9) 0 x0).wf = false) ∧
    (∀ x0, (Instr.shadowGo .pf 8 x0).wf = false) ∧
    (∀ x0, (Instr.shadowDiverge 8 0 0 x0).wf = false) ∧
    (∀ x0, (Instr.shadowDiverge 0 1152 0 x0).wf = false) ∧
    (∀ x0, (Instr.shadowDiverge 0 0 1152 x0).wf = false) ∧
    ((Instr.shadowCompareComplete 8).wf = false) ∧
    ((Instr.prospectDue 4).wf = false) ∧
    (∀ x0 x1 x2, (Instr.prospectTestEnd 4 x0 x1 x2).wf = false) ∧
    (∀ x0, (Instr.prospectNominate (.vf 9) x0).wf = false) ∧
    (∀ x0, (Instr.prospectCtlWrite (.vf 9) x0).wf = false) ∧
    (∀ x0, (Instr.logHeadWrite (.vf 9) 0 x0).wf = false) ∧
    (∀ x0, (Instr.logHeadWrite .pf 9 x0).wf = false) ∧
    (∀ x0, (Instr.logCtlWrite (.vf 9) 0 x0).wf = false) ∧
    (∀ x0, (Instr.logCtlWrite .pf 9 x0).wf = false) ∧
    (∀ x0, (Instr.engineWatchdog x0 2048).wf = false) ∧
    (∀ x0, (Instr.engineResetReq (.vf 9) x0).wf = false) ∧
    (∀ x0, (Instr.engineResetComplete x0 2048).wf = false) ∧
    (∀ x0, (Instr.partitionResetReq (.vf 9) x0).wf = false) ∧
    ((Instr.partitionFence 8).wf = false) ∧
    ((Instr.partitionDrainEnd 8).wf = false) ∧
    ((Instr.partitionResetComplete 8).wf = false) := by
  and_intros <;> intros <;> rfl

theorem test_wf_refuses_11 :
    (∀ x0, (Instr.resetRelease (.vf 9) x0).wf = false) ∧
    (∀ x0, (Instr.deviceResetReq (.vf 9) x0).wf = false) ∧
    (∀ x0, (Instr.powerCycleReq (.vf 9) x0).wf = false) ∧
    (∀ x0, (Instr.overmanSwitch (.vf 9) x0).wf = false) ∧
    (∀ x0, (Instr.rejoinGo (.vf 9) 0 x0).wf = false) ∧
    (∀ x0, (Instr.rejoinGo .pf 8 x0).wf = false) ∧
    (∀ x0, (Instr.rejoinAbort (.vf 9) 0 x0).wf = false) ∧
    (∀ x0, (Instr.rejoinAbort .pf 8 x0).wf = false) ∧
    (∀ x0, (Instr.rejoinModeWrite (.vf 9) 0 x0).wf = false) ∧
    (∀ x0, (Instr.rejoinModeWrite .pf 8 x0).wf = false) ∧
    (∀ x0, (Instr.rejoinSelfTestEnd 8 x0).wf = false) ∧
    (∀ x0, (Instr.rejoinWeightsEnd 8 x0).wf = false) ∧
    ((Instr.rejoinStreamsEnd 8).wf = false) ∧
    (∀ x0, (Instr.fwCommit (.vf 9) x0).wf = false) ∧
    (∀ x0, (Instr.stageGo (.vf 9) x0).wf = false) ∧
    (∀ x0, (Instr.attestGo (.vf 9) x0).wf = false) ∧
    (∀ x0, (Instr.confWrite (.vf 9) 0 x0).wf = false) ∧
    (∀ x0, (Instr.confWrite .pf 8 x0).wf = false) ∧
    ((Instr.confChangeComplete 8).wf = false) ∧
    (∀ x0, (Instr.sessOpen (.vf 9) 0 x0).wf = false) ∧
    (∀ x0, (Instr.sessOpen .pf 8 x0).wf = false) ∧
    (∀ x0, (Instr.sessComplete (.vf 9) 0 x0).wf = false) ∧
    (∀ x0, (Instr.sessComplete .pf 8 x0).wf = false) ∧
    (∀ x0, (Instr.sessClose (.vf 9) 0 x0).wf = false) := by
  and_intros <;> intros <;> rfl

theorem test_wf_refuses_12 :
    (∀ x0, (Instr.sessClose .pf 8 x0).wf = false) ∧
    ((Instr.sessOverlapExpire 8 0).wf = false) ∧
    ((Instr.sessOverlapExpire 0 64).wf = false) ∧
    ((Instr.sessCounterLimit 8 0).wf = false) ∧
    ((Instr.sessCounterLimit 0 64).wf = false) ∧
    (∀ x0, (Instr.sealImportGo (.vf 9) 0 x0).wf = false) ∧
    (∀ x0, (Instr.sealImportGo .pf 8 x0).wf = false) ∧
    (∀ x0, (Instr.sealExportGo (.vf 9) 0 x0).wf = false) ∧
    (∀ x0, (Instr.sealExportGo .pf 8 x0).wf = false) ∧
    ((Instr.sealComplete 8).wf = false) ∧
    ((Instr.railSequenceMiss 13).wf = false) ∧
    (∀ x0, (Instr.selfTestComplete 4 x0).wf = false) ∧
    (∀ x0, (Instr.pstoreSlotWrite 9 x0).wf = false) ∧
    (∀ x0, (Instr.pstoreXferGo (.vf 9) x0).wf = false) ∧
    (∀ x0, (Instr.clkTimeSetWrite (.vf 9) x0).wf = false) ∧
    (∀ x0, (Instr.railExcursion 13 x0).wf = false) ∧
    (∀ x0, (Instr.dormantEnter (.vf 9) x0).wf = false) ∧
    (∀ x0, (Instr.dormantExit (.vf 9) x0).wf = false) ∧
    (∀ x0, (Instr.registerRead (.vf 9) 0 x0).wf = false) ∧
    (∀ x0, (Instr.registerRead .pf 0x4000000 x0).wf = false) ∧
    (∀ x0, (Instr.configurationWrite (.vf 9) x0).wf = false) ∧
    (∀ x0, (Instr.memRefresh 24 x0).wf = false) ∧
    (∀ x0, (Instr.illegalInstr ⟨1152, false⟩ x0).wf = false) := by
  and_intros <;> intros <;> rfl

/-- A block carries at most 1,280 bytes (R276). -/
theorem test_wf_refuses_a_long_payload : (Instr.linkBlockRx 0 ⟨[[], []], 0, List.replicate 1281 0⟩).wf = false := by decide +kernel

/-- A request flit of one-flit packet 7, from the stop of tile (0, 1) to that of tile (0, 0) of die 0, with age 5. -/
def fl0 : Flit := { cls := .request, seq := 0, more := 0, age := 5, route := .uni ⟨0, 1, 1⟩ ⟨0, 2, 1⟩ 7 0 0 }

/-- The ranges of a flit's entry, a block's codewords and payload, and the sides of a drift link (Tables 9.1 and 9.3, R236, R276). -/
theorem test_wf_refuses_flits_and_blocks :
    (∀ r b k, (Instr.flitEntry 0 ⟨20, b⟩ r k).wf = false) ∧ (∀ r b k, (Instr.flitEntry 32 ⟨18, b⟩ r k).wf = false) ∧ (∀ r b k, (Instr.flitEntry 272 ⟨0, b⟩ r k).wf = false) ∧
    (∀ r, (Instr.flitEntry 0 ⟨0, 4096⟩ r fl0).wf = false) ∧ (∀ r, (Instr.flitEntry 0 ⟨0, 0⟩ r { fl0 with more := 17 }).wf = false) ∧ (∀ r, (Instr.flitEntry 0 ⟨0, 0⟩ r { fl0 with seq := 1 }).wf = false) ∧
    (Instr.linkBlockRx 32 ⟨[[], []], 0, []⟩).wf = false ∧ (Instr.linkBlockRx 0 ⟨[[]], 0, []⟩).wf = false ∧ (Instr.linkBlockRx 0 ⟨[[544], []], 0, []⟩).wf = false ∧
    (∀ i, (Instr.dout ⟨0, false⟩ ⟨i, [(0, 8, 1)]⟩).wf = false) := by
  and_intros <;> intros <;> rfl

/-- The rows of the table give no bits, so no word spells a command (spec/opcode_table.json). -/
theorem test_no_word_spells_a_command : decodeTableWord 0 0 = none ∧ decodeTableWord 64 1 = none := by decide +kernel

/-! ### A task of two tiles on die 0 whose cores run -/

/-- The descriptor of 4 beats of a format from store offset 0x400: one run. -/
def desc (fmt count : Nat) : BitVec 256 := BitVec.ofNat 256 (fmt * 2 ^ 60 + 0x400 + count * 2 ^ 64 + count * 2 ^ 128)

/-- Graph 0 of queue 0 with one RUNNING task in slot 0. -/
def gRun : Graph :=
  { queue := 0, seq := 0, hdr := List.replicate 16 0, validated := true, nodes := [{ Node.fresh (List.replicate 16 0) with state := .running, slot := some 0 }], edges := [], cancelled := false,
    aborted := false, appends := 0, unacked := false, status := none, shadow := false, mute := false, finished := none, released := none }

/-- The task: partition 0, tiles 0 and 1, code up to offset 0x1000. -/
def tk : Task :=
  { gseq := 0, node := 0, part := 0, stream := none, epoch := 0, region := { die := 0, row := 0, col := 0, rows := 1, cols := 2 }, tiles := [0, 1], args := List.replicate 8 0, codeEnd := 0x1000,
    start := 0, launchAt := 0, started := true, sets := [], shadow := 0 }

/-- A core that runs at code offset 0x100: g1 = 0x400, g2 = 5, g3 = 0, g4 = 64, g5 = 0x800, g6 = 2, d1 a descriptor of INT32 beats, d2 of INT8 beats, p1 = 1. -/
def kr : Core :=
  { Core.idle with pc := 0x100, st := .run, g := [(1, 0x400), (2, 5), (4, 64), (5, 0x800), (6, 2)], p := [(1, 1)], d := [(1, desc 9 256), (2, desc 7 64)], w := [(1, 7), (2, 9)] }

/-- The state: the two tiles hold the task and all four cores run. -/
def sc : State :=
  { State.reset with
    tge := { Tge.reset with graphs := [gRun], slots := [(0, { epoch := 0, holder := some (0, 0) })], nextSeq := 1 }, tasks := [(0, tk)], cores := [(0, kr), (1, kr), (2, kr), (3, kr)],
    tiles := [(0, { Tile.fresh with slot := some 0 }), (1, { Tile.fresh with slot := some 0 })] }

/-- The issue core and the mover of tile 0. -/
def ci : CoreRef := ⟨0, false⟩
/-- The mover core of tile 0. -/
def cm : CoreRef := ⟨0, true⟩

/-- An instruction of a core issues in its code, in a state and at an issue that have a property. -/
def issues (s : State) (c : CoreRef) (srcs : List Nat) (p : State → Issue → Bool := fun _ _ => true) (lb : State → Nat := fun _ => 0) : Bool :=
  (issue? s c srcs lb).any fun (s1, i) => decide (128 ≤ (coreAt s1 c).pc.toNat) && decide ((coreAt s1 c).pc.toNat < i.task.codeEnd) && p s1 i

/-- A property of the state that a command answers. -/
def gives (c : Instr) (s : State) (p : State → Bool) : Bool :=
  match exec c s with
  | .next u => p u
  | _ => false

/-! ### Statements on the machine as a whole -/

theorem test_hyp_StepRunsFrontCommand : sc.pending = [] := rfl
theorem test_hyp_StepKeepsTasksInStep : State.reset.InStep ∧ gives .getDik State.reset (fun _ => true) = true := ⟨fun _ h => (by cases h), by decide +kernel⟩
theorem test_hyp_QuietSettlingFrame : sc.Quiet := ⟨rfl, rfl, rfl, rfl⟩

/-! ### Scalar and branch instructions -/

theorem test_hyp_AluResults : issues sc ci [kG 1, kG 2] = true ∧ issues sc ci [kG 1, kG 0] = true ∧ ((0x011 : BitVec 11).toNat ≤ 0x011) := by decide +kernel
theorem test_hyp_ImmediateResults : issues sc ci [kG 1] = true ∧ (0xFF : BitVec 16).toNat < 256 := by decide +kernel
theorem test_hyp_ComparisonAndPredicateResults_compare : issues sc cm [kG 1, kG 2] = true ∧ issues sc cm [kG 1] = true ∧ (4 : BitVec 5).toNat % 4 = 0 := by decide +kernel
theorem test_hyp_ComparisonAndPredicateResults_predicates : issues sc ci [kP 1, kP 7] = true ∧ issues sc ci [kG 31] = true ∧ issues sc ci [kP 7] = true ∧ issues sc ci [kG 1, kG 2, kP 7] = true := by decide +kernel
theorem test_hyp_BranchesAndLoopsMoveThePC_branches : issues sc ci [kP 1] = true ∧ issues sc ci [] = true ∧ issues sc ci [kG 2] = true := by decide +kernel
theorem test_hyp_BranchesAndLoopsMoveThePC_loops : issues sc ci [kG 2] (fun s _ => decide ((coreAt s ci).loops.length < 4)) = true ∧ (1 < ({ first := 0, after := 4, left := 2 } : Loop).left) := by decide +kernel

/-- R100, Table 4.7: 0x400 + 5, and 0 counts 64 leading zeros; g0 discards a result. -/
theorem test_alu : gives (.alu ci ⟨7, 1, 2, 0⟩) sc (fun u => (coreAt u ci).gr 7 == 0x405 && (coreAt u ci).pc == 0x104) = true ∧
    gives (.alu ci ⟨7, 3, 0, 0x00F⟩) sc (fun u => (coreAt u ci).gr 7 == 64) = true ∧ gives (.alu ci ⟨0, 1, 2, 0⟩) sc (fun u => (coreAt u ci).gr 0 == 0) = true := by decide +kernel
/-- R101, Table 4.8: the immediate is sign-extended by ADDI and zero-extended by ORI; IMMC shifts by 16. -/
theorem test_immediates : gives (.addi ci ⟨7, 2, 0xFFFF⟩) sc (fun u => (coreAt u ci).gr 7 == 4) = true ∧ gives (.ori ci ⟨7, 3, 0xFFFF⟩) sc (fun u => (coreAt u ci).gr 7 == 0xFFFF) = true ∧
    gives (.immc ci ⟨7, 2, 1⟩) sc (fun u => (coreAt u ci).gr 7 == 0x50001) = true := by decide +kernel
/-- R101: a true comparison sets all 64 bits of the predicate. -/
theorem test_cmpi : gives (.cmpi ci ⟨8, 2, 6⟩) sc (fun u => (coreAt u ci).pr 2 == 0) = true ∧ gives (.cmpi ci ⟨10, 2, 6⟩) sc (fun u => (coreAt u ci).pr 2 == BitVec.allOnes 64) = true := by decide +kernel
/-- R102: a taken branch goes to PC + 4 × soff22; JAL links PC + 4. -/
theorem test_branch : gives (.br ci ⟨1, 0, 4⟩) sc (fun u => (coreAt u ci).pc == 0x110) = true ∧ gives (.jal ci ⟨7, 0x1FFFFF⟩) sc (fun u => (coreAt u ci).pc == 0xFC && (coreAt u ci).gr 7 == 0x104) = true := by
  decide +kernel
/-- R103: a count of 0 skips the body. -/
theorem test_loop_skips : gives (.loop ci ⟨0, 3, 2⟩) sc (fun u => (coreAt u ci).pc == 0x10C && (coreAt u ci).loops.isEmpty) = true := by decide +kernel

/-! ### Issue, exceptions and the tile store -/

theorem test_hyp_InstructionIssues : (runnable? sc ci).isSome = true ∧ activeTiles sc = [] ∧ issueCycle sc ci [kG 1] < cycleAt sc (closing sc) := by decide +kernel
theorem test_hyp_CheckFailureFaultsTheTask :
    (issue? { sc with cores := [(0, { kr with pc := 0x1000 })] } ci [kG 1]).any (fun (s1, i) => decide (i.task.codeEnd ≤ (coreAt s1 ci).pc.toNat)) = true ∧ issues sc cm [kG 1] (fun _ _ => true) (loadWait cm 4 fun k => (unitAddr k ⟨2, 1, 0⟩ 64).toNat) = true ∧ sc.flips = [] ∧
    (0x04 : Nat) ≠ 0x23 ∧ (task? sc 0).isSome = true ∧ (node? sc 0 0).isSome = true ∧ (graph? sc 0).any (fun g => db g.hdr 0 51 51 == 0) = true := by decide +kernel
theorem test_hyp_LoadsReadTheStore :
    issues sc ci [kG 1] (fun s _ => s.flips.isEmpty && (tile s 0).laid.isEmpty && decide ((tile s 0).base + ((coreAt s ci).gr 1).toNat + 256 ≤ 0x180000)) (loadWait ci 4 fun k => (unitAddr k ⟨2, 1, 0⟩ 64).toNat) = true ∧
    issues sc ci [kG 1] (fun _ _ => true) (loadWait ci 1 fun k => (memAddr k ⟨7, 1, 0, 0, 0⟩).toNat) = true ∧ 0x17FFFF % 2 ^ (0 : BitVec 2).toNat = 0 ∧ 0 + 0x17FFFF + 2 ^ (0 : BitVec 2).toNat ≤ 0x180000 ∧
    ¬ ((3 : BitVec 2) = 3 ∧ (0 : BitVec 1) = 1) ∧ (15 : BitVec 5).toNat < 16 ∧ (tile sc 0).recent = [] ∧
    (let y : Stored := { cyc := 0, mover := true, off := 0x400, old := [1], new := [2] }
     issues { sc with tiles := [(0, { Tile.fresh with slot := some 0, recent := [y] }), (1, { Tile.fresh with slot := some 0 })] } ci [kG 1]
       (fun s i => s.flips.isEmpty && (tile s 0).recent == [y] && decide (i.t < y.cyc + 2) && y.old.length == y.new.length) (loadWait ci 1 fun k => (memAddr k ⟨7, 1, 0, 0, 0⟩).toNat)) = true := by decide +kernel
/-- R106, Table 4.16: in one cycle an LD does not see the other core's ST, and of two STs to a byte the mover core's value remains. -/
theorem test_same_cycle : gives (.st cm ⟨2, 1, 0, 0, 0⟩) sc (fun u => gives (.ld ci ⟨7, 1, 0, 0, 0⟩) u fun v => (coreAt v ci).gr 7 == 0) = true ∧
    gives (.st cm ⟨2, 1, 0, 0, 0⟩) sc (fun u => gives (.st ci ⟨6, 1, 0, 0, 0⟩) u fun v => loadByte (tile v 0) 0x400 0 == 5) = true := by decide +kernel
theorem test_hyp_BlockStoresWriteTheStore :
    issues sc ci [kG 1, kW 1] (fun s _ => s.flips.isEmpty && Memory.wf s.mem && (gather (tile s 0) false).isEmpty && decide (((coreAt s ci).gr 1).toNat % 64 = 0) &&
      decide (((coreAt s ci).gr 1).toNat + 256 ≤ windowTable (tile s 0).base) && (tile s 0).recent.isEmpty) (wstWait ci ⟨1, 1, 0⟩) = true ∧
    issues sc ci [kG 1, kD 15] (fun s _ => decide (((coreAt s ci).gr 1).toNat % 32 = 0)) (dstWait ci ⟨15, 1, 0⟩) = true := by decide +kernel
theorem test_hyp_StoreEntersTheGatherBuffer : issues sc ci [kG 1, kG 2] (fun s _ => decide ((tile s 0).base % 64 = 0) && (gather (tile s 0) false).isEmpty && (gather (tile s 0) true).isEmpty && (tile s 0).recent.isEmpty) (stWait ci ⟨2, 1, 0, 0, 0⟩) = true := by decide +kernel
theorem test_hyp_DescriptorWordsMove : issues sc ci [kG 1, kD 15] = true ∧ issues sc ci [kD 15] = true := by decide +kernel
theorem test_hyp_StoreEngineFillsAndCopies :
    issues sc cm [kG 1, kG 5, kG 4] (fun s _ => (gather (tile s 0) true).isEmpty && decide ((tile s 0).stops.length < 4) && decide (((coreAt s cm).gr 4).toNat = 64) && decide (((coreAt s cm).gr 5).toNat % 64 = 0) &&
      decide (((coreAt s cm).gr 1).toNat + 64 ≤ ((coreAt s cm).gr 5).toNat)) (flushWait cm) = true ∧
    (let o : StopOp := { mover := true, copy := true, pat := 0, src := 0x400, dst := 0x800, len := 64, start := 0, pc := 0x100 }
     let s := { sc with tiles := [(0, { Tile.fresh with slot := some 0, stops := [o] })] }
     (taskOf s 0).isSome = true ∧ (eventAt s (o.start + o.cycles)).any (fun s1 => tile s1 0 == tile s 0 && taskOf s1 0 == taskOf s 0 && (coreAt s1 cm).st != .idle && (coreAt s1 cm).gates.isEmpty && s1.flips.isEmpty && Memory.wf s1.mem) = true ∧
     o.len % 64 = 0 ∧ 0 < o.len ∧ o.dst + o.len ≤ windowTable 0) := by decide +kernel
theorem test_hyp_GatherAndRemoteLinesWrite :
    (let e : GEntry := { line := 0x400, data := List.replicate 64 1, mask := List.replicate 64 true, last := 0 }
     let s := { sc with tiles := [(0, { Tile.fresh with slot := some 0, gatherI := [e] })] }
     gather (tile s 0) false = [e] ∧ (eventAt s (e.last + 16)).any (fun s1 => tile s1 0 == tile s 0 && s1.flips.isEmpty && Memory.wf s1.mem && storeBase s1 0 == (tile s1 0).base) = true ∧ e.data.length = 64 ∧ e.mask.length = 64 ∧
     e.line + 64 ≤ (tile s 0).base + windowTable (tile s 0).base) ∧
    (settle sc sc.clk.cyc).flips = [] ∧ Memory.wf (settle sc sc.clk.cyc).mem = true := by decide +kernel
theorem test_hyp_TileScrubAdvances :
    (let s := settle sc sc.clk.cyc
     fb s F.TS_CTL_SCRUB_EN 0 = true ∧ (tile s 0).fenced = false ∧ fg s F.TS_SCRUB_POSITION 0 + 1 < 24576) ∧
    fg (fs sc F.TS_SCRUB_POSITION 24575 0) F.TS_SCRUB_POSITION 0 + 1 = 24576 ∧
    sc.memc.wback = [] ∧ eccDecode 1 = .corrected .single [0] ∧ keyTile 0 0 / 8 ≤ keyTile 0 0 / 8 ∧ 8 * (keyTile 0 0 / 8) < keyTile 0 0 + 64 := by decide +kernel

/-- R105: LD with sx 1 sign-extends, and reads little-endian bytes. -/
theorem test_ld : gives (.ld ci ⟨7, 1, 1, 1, 0⟩) { sc with mem := [(keyTile 0 0x400, 0xFE), (keyTile 0 0x401, 0xFF)] } (fun u => (coreAt u ci).gr 7 == 0xFFFFFFFFFFFFFFFE) = true ∧
    gives (.ld ci ⟨7, 1, 1, 0, 0⟩) { sc with mem := [(keyTile 0 0x400, 0x34), (keyTile 0 0x401, 0x12)] } (fun u => (coreAt u ci).gr 7 == 0x1234) = true := by decide +kernel
/-- R141: a load sees what an ST has put into the gather buffer, and memory is not written yet. -/
theorem test_st_then_ld : gives (.st ci ⟨2, 1, 0, 0, 0⟩) sc (fun u => u.mem.isEmpty && gives (.ld ci ⟨7, 1, 0, 0, 0⟩) u fun v => (coreAt v ci).gr 7 == 5) = true := by decide +kernel
/-- R105: DST writes the 32 bytes of its descriptor. -/
theorem test_dst : gives (.dst ci ⟨1, 1, 0⟩) sc (fun u => memBytes u.mem (keyTile 0 0x400) 32 == bytesOf 32 (desc 9 256).toNat) = true := by decide +kernel
/-- R98, R128: a reserved fn of ALU faults the task with RESERVED_FN or a lower code, and its record names the PC. -/
theorem test_alu_reserved : gives (.alu ci ⟨7, 1, 2, 0x7FF⟩) sc (fun u => u.recs.map (fun r => (r.cls, r.pc)) == [(1, 0x100)] && (node? u 0 0).map (fun n => n.state) == some .faulted) = true := by decide +kernel


/-! ### Vector, matrix and drift instructions -/

theorem test_hyp_VectorIntegerAndMoveResults :
    issues sc ci [kW 1, kW 2] = true ∧ issues sc ci [kW 1, kW 2, kP 1] = true ∧ issues sc ci [] = true ∧ issues sc ci [kW 1] = true ∧ issues sc ci [kG 2] = true ∧
    issues sc ci [kW 1, kG 4] (fun s _ => decide (((coreAt s ci).gr 2).toNat < 2048 / tyBits 0)) = true ∧ issues sc ci [kG 1, kG 2, kW 7] = true ∧ (10 : BitVec 5).toNat ≤ 10 := by decide +kernel
theorem test_hyp_VectorFloatResults :
    issues sc ci [kW 1, kW 2] = true ∧ issues sc ci [kW 1, kW 2, kW 3] = true ∧ issues sc ci [kW 1, kW 7] = true ∧ (6 : BitVec 5).toNat ≤ 6 ∧ (5 : BitVec 3).toNat ≤ 5 ∧
    (4 : BitVec 5).toNat ≤ 4 ∧ cvtPair 0 9 = true ∧ cvtPair 1 0 = true ∧ (1 : BitVec 3).toNat < 32 / fmtBits 1 := by decide +kernel
theorem test_hyp_ReductionsAndSoftmaxResults :
    issues sc ci [kW 1] = true ∧ issues sc ci [kW 1, kW 7] = true ∧ issues sc ci [kW 1, kG 2, kP 1] (fun s _ => decide (((coreAt s ci).gr 2).toNat < 64)) = true ∧ issues sc ci [] = true ∧
    issues { sc with tasks := [(0, { tk with sets := [[0]] })] } ci [kW 1] (fun _ i => sentSet i.task 0 != [] && sentInt (sentSet i.task 0) == decide ((0 : BitVec 2) = 3)) = true := by decide +kernel
theorem test_hyp_MatrixInstructionsIssue :
    issues sc ci [kG 2] (fun s _ => decide (((coreAt s ci).gr 2).toNat < 64)) (fun y => accReadable y 0) = true ∧
    (let x : FmtX := ⟨2, 16 + 1, 7, 7, 1, 4⟩
     mmaPair 7 7 = some (2, true) ∧ fieldOf? x.a ≠ none ∧ fieldOf? x.b ≠ none ∧
     issues sc ci (kG 4 :: fieldSrcs (fieldOf? x.a) 7 64 ++ fieldSrcs (fieldOf? x.b) 7 64) (fun s i => (mmaChecks s ci i.task x ((coreAt s ci).gr 4)).isEmpty && !inputHeld s 0 1 i.t && (operandSide (fieldOf? x.a)).isEmpty)
       (fun y => mmaFree y 0) = true) ∧
    (let m : MmaOp := { fa := 7, fb := 7, clr := true, k := 1, a := .wide [], b := .wide [], inA := [List.replicate 64 1], inB := [List.replicate 64 2], scA := [], scB := [], t := 0, n := 1, pos := 1, late := 0, pc := 0 }
     let s := { sc with ariths := [(0, { Arith.fresh with mmas := [m] })] }
     (arith s 0).mmas = [m] ∧ activeTiles s = [] ∧ m.pos = m.n ∧ s.clk.cyc ≤ m.t + m.n + 12 + m.late ∧ m.t + m.n + 12 + m.late < cycleAt s (closing s)) := by decide +kernel
theorem test_hyp_AccumulatorEntrySums : (7 : Nat) = 7 ∧ (63 : Nat) < 64 ∧ (accRow { Arith.fresh with acc := [(63, List.replicate 64 0)] } 63).length = 64 := by decide +kernel
theorem test_hyp_DrainWritesItsRows :
    (let x : FmtD := ⟨1, 9, 0, 0, 0, 0, 0, 0, 0⟩
     issues sc ci [kD 1] (fun s i => (mdrainChecks s ci x).isEmpty && !bitOf (sentHead i.task) 39 && decide (drainFree s 0 ≤ i.t) && (activeTiles s).isEmpty && decide (i.t < cycleAt s (closing s)) &&
       retireArith i.t (arith s 0) == arith s 0) = true) ∧
    (let d : DrainOp := { dst := desc 9 256, fmt := 9, t := 0, late := 0, row := 64, part := [], rows := [], pc := 0 }
     let s := { sc with ariths := [(0, { Arith.fresh with drains := [d] })] }
     (arith s 0).drains = [d] ∧ activeTiles s = [] ∧ s.clk.cyc ≤ d.t + 70 + d.late ∧ d.t + 70 + d.late < cycleAt s (closing s)) := by decide +kernel
theorem test_hyp_DriftStreamsStart :
    (let x : FmtS := ⟨1, 1, 1, 0, 4⟩
     tk.neighbour 0 1 = some 1 ∧ issues sc cm [kD 1] (fun s i => (streamDesc s cm x).isEmpty && !outputHeld s 0 1 i.t && !inputHeld s 0 1 i.t) = true) ∧
    (let tk3 := { tk with region := { tk.region with cols := 3 }, tiles := [0, 1, 2] }
     let s := { sc with tasks := [(0, tk3)] }
     tk3.neighbour 1 1 ≠ none ∧ tk3.neighbour 1 3 ≠ none ∧ issues s ⟨1, true⟩ [] (fun s i => !outputHeld s 1 1 i.t && !inputHeld s 1 3 i.t) = true) ∧
    issues sc ci [] (fun _ i => decide (i.t < i.task.start + (100 : BitVec 26).toNat)) = true ∧
    (let s := { sc with cores := [(0, { kr with st := .wait 50, readyAt := 50 })] }
     (eventAt s 50).any (fun s1 => (coreAt s1 ci).st == .wait 50) = true) := by decide +kernel
theorem test_hyp_CheckFailureFaultsTheTask_sentinels :
    (let s := settle { sc with ariths := [(0, { Arith.fresh with trip := some (1, 0x100, 2) })] } 0
     taskOf s 0 = some (0, tk) ∧ task? s 0 = some tk ∧ (arith s 0).trip = some (1, 0x100, 2) ∧ s.clk.cyc < cycleAt s (closing s) ∧ s.flips = []) ∧ (arith (settle sc 0) 0).trip = none := by decide +kernel

/-- R107: VINT adds lane by lane modulo 2^32. -/
theorem test_vint : gives (.vint ci ⟨7, 1, 2, 0, 3, 0, 0⟩) sc (fun u => (coreAt u ci).wr 7 == 16) = true := by decide +kernel
/-- R107: VBCAST puts the low bits of g2 into every lane. -/
theorem test_vbcast : gives (.vbcast ci ⟨7, 2, 0, 0, 0, 0, 2⟩) sc (fun u => lane 32 ((coreAt u ci).wr 7) 63 == 5) = true := by decide +kernel
/-- R76, R107: 1.0 + 1.0 = 2.0 in FP32 with no flag. -/
theorem test_vop : gives (.vop ci ⟨7, 1, 2, 0, 0, 0, 0⟩) { sc with cores := [(0, { kr with w := [(1, 0x3F800000), (2, 0x3F800000)] })] } (fun u => lane 32 ((coreAt u ci).wr 7) 0 == 0x40000000) = true := by decide +kernel
/-- R71, R73: the sum of the product 1 × 2 is in the accumulator when the MMA completes. -/
theorem test_mma_complete :
    (let m : MmaOp := { fa := 7, fb := 7, clr := true, k := 1, a := .wide [], b := .wide [], inA := [List.replicate 64 1], inB := [List.replicate 64 2], scA := [], scB := [], t := 0, n := 1, pos := 1, late := 0, pc := 0 }
     gives (.mmaComplete 0) { sc with ariths := [(0, { Arith.fresh with mmas := [m] })] } fun u => (arith u 0).mmas.isEmpty && nth (accRow (arith u 0) 63) 63 0 == 2) = true := by decide +kernel
/-- R115: DOUT towards the east of a descriptor of 4 beats starts a stream. -/
theorem test_dout : gives (.dout cm ⟨⟨1, 1, 1, 0, 4⟩, [(0, 0, 1)]⟩) sc (fun u => (tile u 0).douts.map (fun d => (d.side, d.n, d.noise)) == [(1, 4, [(0, 0, 1)])]) = true := by decide +kernel
/-- R118: DWAIT for cycle 100 stalls the core. -/
theorem test_dwait : gives (.dwait ci 100) sc (fun u => (coreAt u ci).st == .wait 100) = true := by decide +kernel


/-! ### The Tick, submission, and task graphs -/

/-- What a test of an optional value says of it. -/
def has {α : Type} (x : Option α) (p : α → Bool := fun _ => true) : Bool := x.any p

/-- A state at 1 µs of a Tick of 200 µs in which PERIOD_NEXT is 20. -/
def sTick : State := fs sc F.TGE_TICK_CTL_PERIOD_NEXT 20

/-- Queue 0 with a ring of 16 entries at address 0x10000 of Tier 1, EN 1, and one header pending. -/
def sQueue : State :=
  let s := fs (fs (fs (fs (fs State.reset F.TGE_SQ_CTL_SIZE_LOG2 4) F.TGE_SQ_CTL_EN 1) F.TGE_CQ_CTL_SIZE_LOG2 4) F.TGE_CQ_CTL_EN 1) F.TGE_SQ_HEAD_DOORBELL 1
  wr (wr s .tgeSqBase 0x10000) .tgeCqBase 0x20000

/-- Bytes at an address of partition 0's Tier 1 range of all eight stacks (R259). -/
def put (m : List Host.Cell) (a : Nat) (bs : List Byte) : List Host.Cell := memPut m (keyMem (a / 4096 % 8) (a / 4096 / 8 * 4096 + a % 4096)) bs

/-- A header of one task at 0x8000 with no edges, tag 7. -/
def hdr1 : List Word := [0x2000000000000001, 0, 0x8000, 0, 7] ++ List.replicate 11 0

/-- A descriptor of one task of 1 × 2 tiles whose image of 256 bytes is at 0x4000, WCD 100 and ENERGY 1. -/
def desc1 : List Word := [0x1000000000000000, 0, 0, 0x4000, BitVec.ofNat 64 (100 * 2 ^ 32 + 2 ^ 8), BitVec.ofNat 64 (2 * 2 ^ 48 + 2 ^ 40 + 256)] ++ List.replicate 10 0

/-- A header of an image of 256 bytes whose cores enter at 0x80, IMAGE_ID 0. -/
def img1 : List Word := [0x584F523100010000, BitVec.ofNat 64 (0x80 * 2 ^ 32 + 0x80), BitVec.ofNat 64 (256 * 2 ^ 32)] ++ List.replicate 13 0

/-- The queue's header, its descriptor and its image in memory. -/
def sMem : State := { sQueue with mem := put (put (put [] 0x4000 (bytesOfWords img1)) 0x8000 (bytesOfWords desc1)) 0x10000 (bytesOfWords hdr1) }

/-- The graph of the header, not validated. -/
def g1 : Graph := { gRun with hdr := hdr1, validated := false, nodes := [] }

/-- The graph with its task in a state and a slot. -/
def g1In (st : TaskState) (slot : Option Nat) : Graph := { g1 with validated := true, nodes := [{ Node.fresh desc1 with state := st, slot := slot }] }

/-- The state in which the graph of a single task is in flight. -/
def sGraph (g : Graph) : State := { sMem with tge := { sMem.tge with graphs := [g], nextSeq := 1, admitOn := true, slots := [(0, { epoch := 1, holder := some (0, 0) })] } }

theorem test_hyp_TickScheduleWrites :
    (isPriv sTick .pf = true ∧ (4000000 : Word) ≠ 0 ∧ (((4000000 : Word).toNat : Int) = sTick.clk.origin + 40 * (period sTick * 1000 : Nat)) ∧
      mer sTick + 1000000 ≤ 4000000 ∧ 20 ≤ fg sTick F.TGE_TICK_CTL_PERIOD_NEXT ∧ fg sTick F.TGE_TICK_CTL_PERIOD_NEXT ≤ 2000) ∧
    (¬ 20 ≤ fg (fs sTick F.TGE_TICK_CTL_PERIOD_NEXT 19) F.TGE_TICK_CTL_PERIOD_NEXT) ∧ fg sTick F.TGE_TICK_CTL_PENDING = 0 ∧ fg (fs sTick F.TGE_TICK_CTL_PENDING 1) F.TGE_TICK_CTL_PENDING = 1 ∧ isPriv sTick (.vf 1) = false := by
  decide +kernel
/-- R31: the switch at a boundary 4 ms ahead is armed; one that is 1 ns off is not. -/
theorem test_switch : gives (.tickSwitchArm .pf 4000000) sTick (fun u => u.clk.switch == some (4000000, 20) && fb u F.TGE_TICK_CTL_PENDING) = true ∧
    gives (.tickSwitchArm .pf 4000001) sTick (fun u => u.clk.switch == none && fb u F.TGE_TICK_CTL_SWITCH_ERR) = true := by decide +kernel
theorem test_hyp_TickBoundaryOpensATick :
    sc.om.powered = true ∧ (let s := { sc with clk := { sc.clk with switch := some (200000, 2000) } }
      s.clk.switch = some (200000, 2000) ∧ (200000 ≤ 200000) ∧ 2000 < 2048 ∧ 199999 < 200000) ∧ sc.om.refs.resume = none := by decide +kernel
/-- R29: a boundary adds 1 to TICK_NOW, and the Tick opens at its time, at 1.7 cycles a ns. -/
theorem test_boundary : gives .tickBoundary State.reset (fun u => rd u .tgeTickNow == rd State.reset .tgeTickNow + 1 && decide (u.clk.tickMer = period State.reset * 1000) && decide (u.clk.tickCyc = period State.reset * 1700)) = true := by decide +kernel
theorem test_hyp_OverrunsStarvationAndRelease :
    SMap.wf sc.tasks = true ∧ (0, tk) ∈ sc.tasks ∧ has (node? (overruns sc 200000) tk.gseq tk.node) = true ∧ has sc.tge.graphs[0]? = true ∧ has gRun.nodes[0]? = true ∧
    has (sGraph (g1In .ready (some 0))).tge.graphs[0]? (fun g => has g.nodes[0]? fun n => n.state == .ready) = true := by decide +kernel
theorem test_hyp_DoorbellsMoveRingIndices :
    doorbellOpen sQueue .pf (15 / 16) = true ∧ doorbellOpen sQueue .overman (127 / 16) = true ∧ mayAct sQueue .pf (127 / 16) = true ∧ 2 ^ fg sQueue F.TGE_SQ_CTL_SIZE_LOG2 0 ≤ getBits (16 : Word) 15 0 ∧
    getBits (15 : Word) 15 0 < 2 ^ fg sQueue F.TGE_SQ_CTL_SIZE_LOG2 0 ∧ 2 ^ fg sQueue F.TGE_CQ_CTL_SIZE_LOG2 0 ≤ getBits (16 : Word) 15 0 ∧ getBits (15 : Word) 15 0 < 2 ^ fg sQueue F.TGE_CQ_CTL_SIZE_LOG2 0 ∧
    (fg State.reset F.TGE_SQ_CTL_EN ≠ 1 ∧ getBits (0x80000011 : Word) 31 31 = 1 ∧ 16 < getBits (0x80000011 : Word) 4 0) ∧ fg State.reset F.TGE_CQ_CTL_EN ≠ 1 := by decide +kernel
/-- R42: 17 is no size; 16 is. -/
theorem test_queue_control : gives (.sqCtlWrite .pf 0 0x80000011) State.reset (fun u => !fb u F.TGE_SQ_CTL_EN && fb u F.TGE_Q_STATUS_CFG_ERR) = true ∧
    gives (.cqCtlWrite .pf 0 0x80000010) State.reset (fun u => fb u F.TGE_CQ_CTL_EN && !fb u F.TGE_Q_STATUS_CFG_ERR) = true := by decide +kernel
/-- R40: tail 16 is outside a ring of 16 entries. -/
theorem test_doorbell : gives (.sqTailDoorbell .pf 0 16) sQueue (fun u => fb u F.TGE_Q_STATUS_DOORBELL_RANGE) = true ∧ gives (.sqTailDoorbell .pf 0 15) sQueue (fun u => fg u F.TGE_SQ_HEAD_DOORBELL == 15) = true := by decide +kernel
theorem test_hyp_GraphsAreFetchedAndValidated :
    (oldestQueue sMem = some 0 ∧ sMem.tge.graphs.length < 4096 ∧ awake sMem = true ∧ (engineRead sMem 0 0x10000 128).1 = .data (bytesOfWords hdr1) ∧ nodesInFlight sMem + headerNodes (bytesOfWords hdr1) ≤ 524288 ∧
      fg sMem F.TGE_SQ_CTL_SIZE_LOG2 0 ≤ 16 ∧ headerCheck (wordsOf 16 (bytesOfWords hdr1)) = 0 ∧ headerCheck (List.replicate 16 0) ≠ 0) ∧
    (let s := wr sMem .tgeSqBase 0xFF0000000000
     oldestQueue s = some 0 ∧ (match (engineRead s 0 0xFF0000000000 128).1 with | .refused _ _ => true | _ => false) = true) ∧
    (let s := sGraph g1
     s.tge.graphs.filter (fun x => !x.validated) = [g1] ∧ (fetchArrays s g1).1 = some (some ([desc1], [])) ∧ confBad (fetchArrays s g1).2 g1.part g1 [desc1] = false ∧ (fetchArrays s g1).2.tge.graphs[0]? = some g1 ∧
     g1.status = none ∧ nodesCheck [desc1] (db g1.hdr 1 52 32) [] = none ∧ strayBad [desc1] [] = false ∧ stateTests (fetchArrays s g1).2 g1.part ([desc1].map Node.fresh) = none ∧ g1.cancelled = false) ∧
    has (nodesCheck [List.replicate 16 0] 0 []) = true := by decide +kernel
/-- R39, R41: the header is fetched and the head moves on; R46: its task has no predecessor and is ELIGIBLE. -/
theorem test_graph : gives .graphHeaderFetch sMem (fun u => u.tge.graphs == [g1] && fg u F.TGE_SQ_HEAD_INDEX == 1) = true ∧
    gives .graphValidate (sGraph g1) (fun u => (node? u 0 0).map (fun n => n.state) == some .eligible) = true := by decide +kernel
theorem test_hyp_SlotsAndAdmission :
    (let s := { sGraph (g1In .eligible none) with tge := { (sGraph (g1In .eligible none)).tge with slots := [] } }
     has (leastBy ageBefore (nodesIn s .eligible)) (fun x => x.1 == 0 && x.2.1 == 0) = true ∧ SMap.wf s.tge.slots = true ∧ freeSlotFrom 0 s.tge.slots < 65536 ∧ (node? s 0 0).isSome = true) ∧
    State.reset.tge.admitOn = false ∧
    (let s := advanceTo (sGraph (g1In .ready (some 0))) 256
     s.tge.admitOn = true ∧ s.tge.halted = false ∧ awake s = true ∧ s.clk.tickCyc + 256 ≤ s.clk.cyc ∧ (sortBy ageBefore (nodesIn s .ready)).map (fun x => (x.1, x.2.1)) = [(0, 0)] ∧ has (graph? s 0) = true ∧
     has (node? s 0 0) (fun n => !partPaused s 0 && !n.restarted && !unsatisfiable s 0 n && !tooLong s n && timeFits s n && energyFits s 0 n && permittedDies n == [0, 1, 2, 3] && !n.reserved &&
       reservedDies (sortBy ageBefore (nodesIn s .ready)) == [] && !searchedInVain s 0 0 0 && decide (SMap.get 0 s.tge.placer 0 ≤ s.clk.cyc) && has (findOrigin s 0 0 n)) = true) ∧ isPriv sc .overman = true := by decide +kernel
/-- R48, R163: the task goes to the first origin of die 0, and its slot's tiles 0 and 1. -/
theorem test_admission : gives .admission (advanceTo (sGraph (g1In .ready (some 0))) 256) (fun u => has (task? u 0) fun t => t.tiles == [0, 1] && t.launchAt == 256 + 850 + 2) = true ∧
    gives .slotGrant (sGraph (g1In .eligible none)) (fun u => (node? u 0 0).map (fun n => n.slot) == some (some 1)) = true := by decide +kernel
theorem test_hyp_TasksLaunch :
    (let s := { sGraph (g1In .launching (some 0)) with tasks := [(0, { tk with started := false })], tiles := sc.tiles }
     has (task? s 0) = true ∧ has (node? s 0 0) (fun n => n.state == .launching && (engineRead s 0 (dw n.words 3) n.imageBytes).1 == .data (bytesOfWords img1 ++ List.replicate 128 0) && n.imageBytes == 256 &&
       dw img1 3 == dw n.words 12 && dw n.words 10 == 0) = true ∧ imageOk img1 256 = true ∧ imageOk (List.replicate 16 0) 256 = false ∧ has (task? (engineRead s 0 0x4000 256).2 0) = true) := by decide +kernel
/-- R88, R89: both cores stand at 0x80 at the launch cycle. -/
theorem test_launch : gives (.taskLaunch 0) { sGraph (g1In .launching (some 0)) with tasks := [(0, { tk with started := false, launchAt := 1108 })], tiles := sc.tiles } (fun u =>
    (coreAt u cm).pc == 0x80 && (coreAt u ⟨1, false⟩).readyAt == 1108 && (node? u 0 0).map (fun n => n.state) == some .running) = true := by decide +kernel
theorem test_hyp_TasksEnd :
    (let s := { sGraph (g1In .running (some 0)) with tasks := [(0, tk)], tiles := sc.tiles, cores := [(0, { kr with st := .ended }), (1, { kr with st := .ended }), (2, { kr with st := .ended }), (3, { kr with st := .ended })] }
     let e := tk.tiles.foldl (fun m i => max m (endCycle s i)) s.clk.cyc
     let s1 := advanceTo (settle s e) e
     task? s 0 = some tk ∧ tk.started = true ∧ e < cycleAt s (closing s) ∧ task? s1 0 = some tk ∧ tk.tiles.all (tileDone s1) = true ∧ has (graph? s1 0) (fun g => has g.nodes[0]? fun n => n.state == .running) = true) ∧
    (let s := { sGraph (g1In .resetting (some 0)) with tasks := [(0, tk)] }
     has (task? s tk.node) = true ∧ has (graph? s 0) (fun g => !g.cancelled && !g.aborted && has g.nodes[0]? fun n => n.state == .resetting && !n.twice && decide (db n.words 11 27 27 ≠ 1) && !n.overrun && decide (n.nFence < 3)) = true) := by
  decide +kernel
/-- R46: the task is DONE and its tiles are free; R57: the second epoch of a restarted task is 2. -/
theorem test_task_end :
    gives (.taskEndEvent 0) { sGraph (g1In .running (some 0)) with tasks := [(0, tk)], tiles := sc.tiles, cores := [(0, { kr with st := .ended }), (1, { kr with st := .ended }), (2, { kr with st := .ended }), (3, { kr with st := .ended })] }
      (fun u => (node? u 0 0).map (fun n => n.state) == some .done && (tile u 0).slot.isNone) = true ∧
    gives (.regionResetComplete 0) { sGraph (g1In .resetting (some 0)) with tasks := [(0, tk)] } (fun u => (slotOf u 0).epoch == 2 && (node? u 0 0).map (fun n => n.state) == some .ready) = true := by decide +kernel
theorem test_hyp_CompletionRecords :
    (let g := { g1In .done none with finished := some 0, released := some 0 }
     let s := sGraph g
     let s0 := advanceTo s (s.clk.tickCyc + 256)
     let w := engineWrite s0 0 0x20000 (bytesOfWords (recordOf g 1))
     releasedOf s 0 = [g] ∧ g.mute = false ∧ cqFull s 0 = false ∧ fg s F.TGE_CQ_CTL_EN 0 = 1 ∧ recordsPending s g = false ∧ fg s F.TGE_CQ_CTL_SIZE_LOG2 0 ≤ 16 ∧ g.queue = 0 ∧ w.1.1 = stOK ∧ w.2.regs = s.regs ∧
     fg (fs s F.TGE_CQ_CTL_EN 0) F.TGE_CQ_CTL_EN ≠ 1) ∧ (127 < 128 ∧ 1 < 2 ∧ ∀ st, gRun.status = some st → st.2.1 < 256) := by
  refine ⟨by decide +kernel, by decide, by decide, fun st h => by cases h⟩
/-- R43, Table 2.12: the record is in the ring, and INDEX moves on. -/
theorem test_completion : gives (.completionRecordWrite 0) (sGraph { g1In .done none with finished := some 0, released := some 0 }) (fun u => fg u F.TGE_CQ_TAIL_INDEX == 1 && memByte u.mem (keyMem 0 0x4008) == 7 && u.tge.graphs.isEmpty) = true := by
  decide +kernel
theorem test_hyp_GatesAndCancellation :
    mayAct sc .pf 7 = true ∧ (isPriv sc .pf = true ∧ 7 = getBits (0x0700000000000000 : Word) 58 56) ∧ (let s := { wr State.reset .guardResetStatus 0 with numVfs := 1 }
      vfPart s 1 = some 0 ∧ mayAct s (.vf 1) 0 = true) ∧
    (let s := sGraph (g1In .ready (some 0))
     s.tge.graphs.filter (fun g => !g.shadow && g.tag == 7 && cancelReaches s .pf g.part && g.finished.isNone) = [g1In .ready (some 0)] ∧ graph? s 0 = some (g1In .ready (some 0))) := by decide +kernel
/-- R54: gate values wrap at 2^32; a READY task of a cancelled graph is CANCELLED. -/
theorem test_gates : gives (.gateAdd .pf 0x0000000500000003) (fs State.reset F.TGE_GATE_VALUE 0xFFFFFFFE 0 5) (fun u => gate u 0 5 == 1) = true ∧
    gives (.graphCancel .pf 7) (sGraph (g1In .ready (some 0))) (fun u => (node? u 0 0).map (fun n => n.state) == some .cancelled) = true := by decide +kernel


/-! ### Transfers, fences, channels, commands, task control and system registers -/

/-- The state with core `ci` changed. -/
def onCi (f : Core → Core) : State := { sc with cores := [(0, f kr), (1, kr), (2, kr), (3, kr)] }

/-- A transfer of 64 bytes from global address 0x800 to store offset 0x400, or back. -/
def hr (put : Bool) : HaulReq := { id := 3, put := put, store := 0x400, addr := 0x800, len := 64, pc := 0x100, born := 0, ops := [], err := 0, errAt := 0, lost := false }

/-- A message of 64 bytes. -/
def msg0 : Msg := { data := 1 :: List.replicate 63 0, request := true, sender := 5, replyQ := 9, gen := 2, marked := false, at_ := 0 }

/-- The state whose tile 0 has message queues 0 and 8 with these entries and reservations. -/
def onQueues (q0 q8 : MsgQueue) (f : Core → Core := id) : State :=
  { onCi f with tiles := [(0, { Tile.fresh with slot := some 0, chanOpen := true, queues := [(0, q0), (8, q8)] }), (1, { Tile.fresh with slot := some 0, chanOpen := true })] }

/-- A core with a register set. -/
def withG (r : Nat) (v : Word) (k : Core) : Core := { k with g := SMap.set k.g r v }

theorem test_hyp_TransfersIssueAndComplete :
    issues sc ci [kG 4, kG 5, kG 1] (fun s i => s.flips.isEmpty && decide (i.task.shadow = 0) && (gather (tile s 0) false).isEmpty && decide ((coreAt s ci).haul.length < 64) && decide (((coreAt s ci).gr 4).toNat = 64) &&
      decide ((0x800 : Word) = (coreAt s ci).gr 5) && decide ((0x400 : Word) = (coreAt s ci).gr 1) && decide ((tile s 0).base + 0x800 + 64 ≤ 0x180000)) (flushWait ci) = true ∧
    (let s0 := settle (onCi fun k => { k with haul := [hr false] }) 0
     taskOf s0 0 = some (0, tk) ∧ tk.shadow = 0 ∧ (coreAt s0 ci).haul.find? (fun r => r.id == 3) = some (hr false) ∧ (match resolve s0 (coreWho 0 ci) 0 0x800 false with | .remote _ _ => false | _ => true) = true ∧
     (haulLocal s0 0 tk ci (hr false)).1.1 = stOK ∧ (coreAt (haulLocal s0 0 tk ci (hr false)).2 ci).st = .run ∧ { hr false with ops := [7] }.ops ≠ [] ∧ (hr false).lost = false ∧ meetsHeld s0 (coreWho 0 ci) 0 0x800 64 false = false ∧ waitsForEarlier s0 ci 0 (hr false) = false ∧ s0.clk.cyc < cycleAt s0 (closing s0) ∧ s0.flips = [] ∧ HaulErr.timeout ≠ .ok ∧ errStatus .timeout ≠ stOK) ∧
    (let d := fs (fs (onCi fun k => { k with haul := [hr true] }) F.PORT_DEVID_VALID 1) F.PORT_DEVID_ID 1
     (match resolve d (coreWho 0 ci) 0 0x4000200000000000 true with | .remote 2 0 => true | _ => false) = true) ∧
    (sc.flips = [] ∧ Memory.wf sc.mem = true ∧ (List.replicate 64 (1 : Byte)).length % 64 = 0 ∧ storeBase sc 0 ≤ 0x400 ∧ 0x400 + 64 ≤ storeBase sc 0 + windowTable (storeBase sc 0) ∧ 0x440 ≤ 0x180000) := by decide +kernel
/-- R119: the bytes of a completed HGET stand in the store, and the request has left. -/
theorem test_hget : gives (.hget ci ⟨4, 5, 1, 0⟩) sc (fun u => (coreAt u ci).haul.map (fun r => (r.put, r.store, r.addr, r.len)) == [(false, 0x400, 0x800, 64)]) = true ∧
    gives (.haulRequestComplete ci 3 .ok) { onCi fun k => { k with haul := [hr false] } with mem := put [] 0x800 [7, 8] } (fun u => (coreAt u ci).haul.isEmpty && memBytes u.mem (keyTile 0 0x400) 2 == [7, 8]) = true := by decide +kernel
theorem test_hyp_FencesWaitForTheirCondition :
    issues sc ci [] (fun s _ => s.flips.isEmpty && (tile s 0).stops.isEmpty && (coreAt s ci).haul.isEmpty && (coreAt s ci).cmds.isEmpty && s.xp.ops.isEmpty) = true ∧ issues sc ci [] (fun s _ => (tile s 0).stops.isEmpty) (flushWait ci) = true ∧
    issues (onCi fun k => { k with haul := [hr false, hr true, { hr true with id := 4 }], cmds := [0] }) ci [kG 6] (fun s _ => decide (((coreAt s ci).gr 6).toNat < (coreAt s ci).haul.length) && !(coreAt s ci).cmds.isEmpty) = true ∧
    issues (onCi fun k => { k with haul := [hr false, hr true] }) ci [kG 6] (fun s _ => decide ((coreAt s ci).haul.length ≤ ((coreAt s ci).gr 6).toNat)) = true ∧
    (let o : StopOp := { mover := false, copy := false, pat := 0, src := 0, dst := 0x800, len := 64 * 1000, start := 0, pc := 0x100 }
     issues { sc with tiles := [(0, { Tile.fresh with slot := some 0, stops := [o] })] } ci [] (fun s _ => (tile s 0).stops.any fun o => o.mover == false) (flushWait ci) = true) ∧
    (let d := fs (fs (fs (fs (onCi fun k => { k with haul := [{ hr true with addr := 0x4000200000000800 }] }) F.PORT_DEVID_VALID 1) F.PORT_DEVID_ID 1) F.PORT_DEVID_VALID 1 1) F.PORT_DEVID_ID 2 1
     issues d ci [] (fun s _ => (coreAt s ci).haul.any fun r => r.remoteWrite s) = true) ∧
    (let o : RemOp := { id := 0, part := 0, dst := 2, la := 0, write := true, lines := 1, data := [], unit := 0, tile := 0, why := .haul 0 3, sends := 1, planes := [], sentAt := 0, held := false, w5 := 0, bound := 0 }
     issues { sc with xp := { sc.xp with ops := [o] } } ci [] (fun s _ => s.xp.ops.any fun o => o.write && o.core? == some (coreKey ci)) = true) := by decide +kernel
/-- R120: FENCE of at most 2 transfers goes on with 2, and waits with 3. -/
theorem test_fence : gives (.fenceHaulCount ci 0 6 0) (onCi fun k => { k with haul := [hr false, hr true] }) (fun u => (coreAt u ci).pc == 0x104) = true ∧
    gives (.fenceHaulCount ci 0 6 0) (onCi fun k => { k with haul := [hr false, hr true, hr true] }) (fun u => (coreAt u ci).pc == 0x100) = true := by decide +kernel
theorem test_hyp_MessagesLeaveAndArriveAtCores :
    (let s := onQueues { entries := [msg0], resv := 0, gen := 0 } { entries := List.replicate 32 msg0, resv := 0, gen := 0 } fun k => { withG 7 0x17 k with readyAt := 1 }
     issues s ci [kG 7, kG 1] (fun s i => s.flips.isEmpty && Memory.wf s.mem && (tile s 0).laid.isEmpty && decide (i.task.shadow = 0) && decide ((tile s 0).base + 0x400 + 64 ≤ 0x180000) && decide ((coreAt s ci).sendOut < 16) && sendDest s i.task 0 0x17 &&
       decide (32 ≤ (msgQueue (tile s 0) 8).entries.length + (msgQueue (tile s 0) 8).resv) && decide ((msgQueue (tile s 0) 9).entries.length + (msgQueue (tile s 0) 9).resv < 32)) (blockWait ci fun k => (k.gr 1).toNat) = true ∧
     issues s ci [kG 3, kG 1] (fun s i => decide (((coreAt s ci).gr 3).toNat < 16) && (msgQueue (tile s 0) 0).entries == [msg0] && decide (msg0.at_ < i.t) && decide (i.t < cycleAt s (closing s)) && !msg0.marked && entryData msg0.data [(0, 7)] == none && decide (msg0.data.length = 64) && decide (0x400 + 64 ≤ windowTable (tile s 0).base)) = true) ∧
    issues (onCi (withG 7 0xC000000000024010)) ci [kG 7, kG 1] (fun s i => replyDest s i.task 0 0xC000000000024010) (blockWait ci fun k => (k.gr 1).toNat) = true ∧
    issues (onCi fun k => { withG 7 0x17 k with outcomes := List.replicate 16 (0, 0) }) ci [kG 7, kG 1] (fun s i => decide (16 ≤ (coreAt s ci).sendOut) && sendDest s i.task 0 0x17) (blockWait ci fun k => (k.gr 1).toNat) = true ∧
    issues sc ci [kG 2, kG 1] (fun s _ => (msgQueue (tile s 0) 5).entries.isEmpty) = true ∧ issues sc ci [] (fun s _ => (coreAt s ci).outcomes.isEmpty) = true ∧
    issues (onCi fun k => { k with outcomes := [(1, 0xFFFF)] }) ci [] (fun s _ => (coreAt s ci).outcomes == (1, 0xFFFF) :: []) = true ∧ issues (onCi (withG 7 15)) ci [kG 7] (fun s _ => decide (((coreAt s ci).gr 7).toNat < 16)) = true := by
  decide +kernel
/-- R122: a RECV of a request gives bits 63 and 62, the generation, the reply queue and the sender. -/
theorem test_recv : gives (.msgRecv ci 7 3 1 ⟨0, []⟩) (onQueues { entries := [msg0], resv := 0, gen := 0 } { entries := [], resv := 0, gen := 0 } fun k => { k with readyAt := 1 })
    (fun u => (coreAt u ci).gr 7 == 0xC000000000000000 + 2 * 2 ^ 18 + 9 * 2 ^ 14 + 5 * 2 ^ 4 && memByte u.mem (keyTile 0 0x400) == 1 && (msgQueue (tile u 0) 0).entries.isEmpty) = true := by decide +kernel
/-- R122, R251: a REQ to logical tile 1, queue 7, reserves a slot of queue 9. -/
theorem test_req : gives (.msgReq ci 7 7 1 9) (onCi (withG 7 0x17)) (fun u => u.flights.map (fun f => (f.dst, f.q, f.tag)) == [(1, 7, 0)] && (msgQueue (tile u 0) 9).resv == 1) = true := by decide +kernel
theorem test_hyp_SeamAndAssayCommandsAreSubmitted :
    (let s := { onCi (withG 8 0x440) with mem := memPut [] (keyTile 0 0x400) (bytesOfWords [BitVec.ofNat 64 (0x02 * 2 ^ 56)]) }
     issues s ci [kG 1, kG 8] (fun s i => s.flips.isEmpty && decide (i.task.shadow = 0) && decide (((coreAt s ci).gr 1).toNat = 0x400) && decide (((coreAt s ci).gr 8).toNat = 0x440) && decide ((tile s 0).base + 0x440 + 64 ≤ 0x180000) &&
       controlFormat (flushGather s 0 false) 0 (wordsOf 8 (LoadBytes (flushGather s 0 false) 0 ((tile s 0).base + 0x400) 64)) && decide ((coreAt s ci).cmds.length < 32) && (tile s 0).laid.isEmpty) (blockWait ci fun k => (k.gr 1).toNat) = true) ∧
    fetchFormat sc 0 (List.replicate 8 0) = false ∧ appendFormat (List.replicate 8 0) = false ∧ queryFormat (List.replicate 8 0) = false ∧
    appendFormat [0, BitVec.ofNat 64 (2 ^ 32 + 2 ^ 20), 0, 0, 0, 0, 0, 0] = true ∧ fetchFormat sc 0 [BitVec.ofNat 64 (2 ^ 42), 1, 0, 0, 0, 0, 0, 0] = true ∧
    queryFormat [0, 0, BitVec.ofNat 64 (0x3F800000 * 2 ^ 32), 0x100000000, 0, 0, 0, 0] = true ∧
    issues (onCi fun k => { k with cmds := List.range 32 }) ci [kG 1, kG 1] (fun s _ => decide (32 ≤ (coreAt s ci).cmds.length)) (blockWait ci fun k => (k.gr 1).toNat) = true := by decide +kernel
theorem test_hyp_TaskControlAndSystemRegisters :
    issues sc ci [] (fun s i => s.flips.isEmpty && decide (i.task.shadow = 0)) = true ∧ csrHeld false 0x042 = true ∧ csrHeld true 0x021 = false ∧ noInstr 0xDC000000 = true ∧ noInstr 0x2C000006 = true ∧ noInstr 0x2C000005 = false ∧ issues sc ci [kG 1] = true ∧ ci.mover = false ∧
    issues (onCi (withG 8 1023)) ci [kG 8, kG 2] (fun s _ => decide (((coreAt s ci).gr 8).toNat < 1024) && (coreAt s ci).haul.isEmpty && (coreAt s ci).gates.isEmpty && (tile s 0).stops.isEmpty && (gather (tile s 0) false).isEmpty) (flushWait ci) = true ∧ issues sc ci [] (fun _ _ => true) (tendWait ci) = true := by
  decide +kernel
/-- R93: AFLAGS acts as W1C; R124: GATE adds, and TRAP raises 0x1A. -/
theorem test_task_control : gives (.csrWrite ci 7 2 0x020) { sc with ariths := [(0, { Arith.fresh with aflags := 7 })] } (fun u => (arith u 0).aflags == 2 && (coreAt u ci).gr 7 == 7) = true ∧
    gives (.taskGate ci 0 2 6) sc (fun u => gate u 0 5 == 2) = true ∧ gives (.trap ci 0 1 0) sc (fun u => u.recs.map (fun r => (r.cause, r.aux)) == [(0x1A, 0x400)]) = true := by decide +kernel

/-! ### Registers and the host interface -/

/-- A module whose host link is up at generation 6, width 16. -/
def sHost : State := fs (fs (fs State.reset F.HOST_LINK_STATUS_DL_UP 1) F.HOST_LINK_STATUS_GEN 6) F.HOST_LINK_STATUS_WIDTH 16

/-- A 64-byte descriptor that copies 64 bytes from address 0x1000 of Tier 1 to 0x2000. -/
def dd : List Word := [0x1000000000000040, 0x1000, 0x2000, 0, 0, 0, 0, 0]

/-- DMA ring 0 with 16 descriptors in host memory at 2^63, EN 1. -/
def sRing : State := wr (fs (fs (fs sHost F.HOST_DMA_CTL_SIZE_LOG2 4) F.HOST_DMA_CTL_EN 1) F.HOST_DMA_HEAD_TAIL 1) .hostDmaBase 0x8000000000000000

/-- A module of grade 1. -/
def sGrade1 : State := fs sHost F.GLB_PART_GRADE 1

theorem test_hyp_RegistersReadAndWriteByAccessCode :
    answers sHost .pf = true ∧ (RegName.off .glbPart 0 0) % 8 = 0 ∧ readable sHost .pf (RegName.off .glbPart 0 0) = some (.glbPart, 0, 0) ∧ regAt 0x3FFFFF8 = none ∧
    (let o := RegName.off .haulTimeout 0 0
     accessMask o .b4 = some 0xFFFFFFFF ∧ accessMask (o + 4) .b4 = some 0xFFFFFFFF00000000 ∧ writable sHost .pf o = some (.haulTimeout, 0, 0) ∧ RegName.haulTimeout ∉ commandRegs ∧ RegName.haulTimeout ∉ limitedRegs) ∧
    (RegName.off .glbPart 0 0 + 4) % 8 ≠ 0 ∧ readable sHost .pf 0x3FFFFF8 = none ∧ t2Populated sGrade1 1 = false ∧ portEnabled sGrade1 2 = false ∧ tilePart sHost 16 = none ∧
    (tilePart (wr sHost .glbSectionActive 0xFFFFFFF1) 0 ≠ some (fg (wr sHost .glbSectionActive 0xFFFFFFF1) F.HOST_PF_CTL_BAR2_PART) ∧ writable sHost .pf (RegName.off .glbSectionApply 0 0) = some (.glbSectionApply, 0, 0) ∧ writable sHost .pf (RegName.off .assayCtl 0 0) = some (.assayCtl, 0, 0) ∧
      writable sHost .pf (RegName.off .seamContrailCtl 0 0) = some (.seamContrailCtl, 0, 0) ∧ RegName.off .glbSectionApply 0 0 % 8 = 0) := by decide +kernel
/-- R254, R293: absent units; R366, R374: the module log and the reset request. -/
theorem test_absent_units : (readable sGrade1 .pf 0x420110).isNone = true ∧ (readable sGrade1 .pf 0x420010).isSome = true ∧ (readable sGrade1 .pf 0x510208).isNone = true ∧ (readable sGrade1 .pf 0x510108).isSome = true ∧
    (readable sHost .pf 0xA41090).isNone = true ∧ (readable sHost .pf 0xA40090).isSome = true ∧ regAt 0x700100 = some (.guardResetReq, 0, 0) := by decide +kernel
theorem test_hyp_HostLinkAndFunctionsChange :
    hostUp sHost = true ∧ hostUp State.reset = false ∧ linkMode (4 : BitVec 4).toNat (16 : BitVec 6).toNat = true ∧ linkMode (6 : BitVec 4).toNat (4 : BitVec 6).toNat = true ∧ fg State.reset F.CLK_REF_STATUS_HOST_LOST ≠ 1 ∧
    (4 ≤ fg sHost F.HOST_LINK_STATUS_GEN ∧ 4 < fg sHost F.HOST_LINK_STATUS_GEN ∧ 16 ≤ fg sHost F.HOST_LINK_STATUS_WIDTH ∧ 4 < fg sHost F.HOST_LINK_STATUS_WIDTH) ∧ funcExists sHost .pf = true ∧
    funcExists { sHost with numVfs := 8 } (.vf 8) = true ∧ fnOf .pf = 0 ∧ SMap.wf sHost.dmas = true ∧ 0 ∈ ringsOf sHost 0 ∧ 0 ∈ ownedBy sHost 0 ∧ 0 < tableSize 0 ∧ sHost.dmas = [] ∧ (5 : BitVec 4).toNat ∈ [0, 1, 2, 5, 6, 9, 10] ∧ (cfg sHost 0).mps ≤ 2 ∧
    rd sHost .hostMsixPba 0 0 0 = 0 ∧ (sHost.regs.all fun x => decide (x.1 < 0x6C0000)) = true := by decide +kernel
/-- R322: the link goes down; R323: BAR2 of 2^42 bytes. -/
theorem test_host_link : gives .hostLinkDown sHost (fun u => !hostUp u && fg u F.HOST_LINK_ERR_DOWN == 1) = true ∧ gives (.configurationWrite .pf (.bar2Size 42)) sHost (fun u => bar2Bytes u 0 == 2 ^ 42) = true := by decide +kernel
theorem test_hyp_Bar2DmaAndInterrupts :
    (sHost.flips = [] ∧ Memory.wf sHost.mem = true ∧ 0 < 64 ∧ 0 % 64 + 64 ≤ 64 ∧ (match bar2Judge sHost .pf 0 false with | .ok (.mem 0 0) => true | _ => false) = true ∧ bar2Served sHost .pf 0 64 false = true ∧ bar2Served sHost .pf 0 64 true = true ∧ bar2Served sHost .pf (2 ^ 42 - 64) 64 true = true ∧ (match bar2Judge sHost .pf 0 true with | .ok (.mem 0 0) => true | _ => false) = true) ∧
    (match bar2Judge sHost .pf (2 ^ 42 - 64) false with | .error _ => true | _ => false) = true ∧ (match bar2Judge sHost .pf (2 ^ 42 - 64) true with | .error _ => true | _ => false) = true ∧
    (mayRing sRing .pf 0 = true ∧ mayRing sRing .pf 71 = true ∧ partFenced sRing (ringPart sRing 0) = false ∧ inDeviceReset sRing = false ∧ getBits (15 : Word) 15 0 < 2 ^ fg sRing F.HOST_DMA_CTL_SIZE_LOG2 ∧
      2 ^ fg sRing F.HOST_DMA_CTL_SIZE_LOG2 ≤ getBits (16 : Word) 15 0 ∧ fg sHost F.HOST_DMA_CTL_EN ≠ 1 ∧ getBits (3 : Word) 4 0 < 4) ∧
    (let s := { sRing with mem := memPut [] (keyHost 0) (bytesOfWords dd) }
     ringRuns s 0 = true ∧ ringBaseOk s 0 = true ∧ (engineRead s 0 (BitVec.ofNat 64 (descAddr s 0 0)) 64).1 = .data (bytesOfWords dd) ∧ db (wordsOf 8 (bytesOfWords dd)) 0 58 58 = 0 ∧ fg s F.HOST_DMA_CTL_SIZE_LOG2 ≤ 16 ∧
      getBits (dw dd 1) 63 62 ≠ 1 ∧ getBits (dw dd 2) 63 62 ≠ 1) ∧
    (let d : DmaDesc := { ix := 0, words := dd, sent := true, st := 0, errAt := 0 }
     let s := { sRing with dmas := [(0, [d])] }
     SMap.wf s.dmas = true ∧ dmaProg s 0 = [d] ∧ s.xp.ops = [] ∧ hostUp s = true ∧ mayMaster s (ownerFn s 0) = true ∧ getBits (rd s .hostDmaBase) 63 62 = 2 ∧ (rd s .hostDmaBase).toNat % 64 = 0 ∧ (rd s .hostDmaBase).toNat + 64 ≤ 3 * 2 ^ 62 ∧ Memory.wf s.mem = true) ∧
    (funcExists sHost .pf = true ∧ (cfg sHost 0).msix = true ∧ (cfg sHost 0).mask = false ∧ mayMaster sHost 0 = true ∧ hostUp sHost = true ∧ 2047 < tableSize 0 ∧ 0 ∉ sHost.d3hot ∧ SMap.find { (fs sHost F.HOST_MSIX_DATA_MASK 0) with vecs := [(vecKey 0 0, (1, 0))] }.vecs (vecKey 0 0) = some (1, 0) ∧
      fg (fs sHost F.HOST_MSIX_DATA_MASK 0) F.HOST_MSIX_DATA_MASK = 0) := by decide +kernel
/-- R326: BAR2 offset 0 of the PF is Tier 1 address 0; R332: HEAD moves on. -/
theorem test_bar2_dma : gives (.bar2Write .pf 0 [1, 2]) sHost (fun u => memBytes u.mem (keyMem 0 0) 2 == [1, 2]) = true ∧
    gives (.dmaDescStart 0) { sRing with mem := memPut [] (keyHost 0) (bytesOfWords dd) } (fun u => fg u F.HOST_DMA_HEAD_HEAD == 1 && (dmaProg u 0).map (fun d => d.st) == [0]) = true := by decide +kernel


/-! ### Sections, placement, memory and the haulage network -/

/-- A section map in which section 0 goes to partition 1, which is held like partition 0. -/
def sMap : State := wr (wr State.reset .glbSectionMap 1) .guardResetStatus 3

theorem test_hyp_SectionApplyRuns :
    (isPriv State.reset .pf = true ∧ getBits (1 : Word) 0 0 = 1 ∧ State.reset.apply = none ∧ (∀ d ∈ State.reset.dies, d.repl = none) ∧ { State.reset with apply := some none }.apply = some none) ∧
    (let m := rd sMap .glbSectionMap
     (∀ k, k < 8 → mapField m k < 8 ∨ mapField m k = 15) ∧ (∀ p, p < 8 → (∃ k, k < 8 ∧ mapField m k ≠ sectionPart sMap k ∧ (mapField m k = p ∨ sectionPart sMap k = p)) → partHeld sMap p = true ∨ partExists sMap p = false) ∧
     (∀ p, p < 8 → fg sMap F.SEAM_CTL_EN p ≠ 1)) ∧ ¬ (mapField (8 : Word) 0 < 8 ∨ mapField (8 : Word) 0 = 15) ∧ (partHeld State.reset 0 = false ∧ partExists State.reset 0 = true) ∧ fg (fs sMap F.SEAM_CTL_EN 1 0) F.SEAM_CTL_EN = 1 ∧
    (let s := setDie State.reset 3 { DiePlace.reset with repl := some (0, [17], false) }
     ∃ d ∈ s.dies, d.repl ≠ none) ∧ ({ State.reset with apply := some (some 1) }.apply = some (some 1) ∧ Memory.wf State.reset.mem = true) := by decide +kernel
/-- R17, R18: a map that moves section 0 needs partitions 0 and 1 held. -/
theorem test_apply : gives (.sectionApplyGo .pf 1) sMap (fun u => u.apply == some (some 1) && fg u F.GLB_SECTION_STATUS_RESULT == 1) = true ∧
    gives (.sectionApplyGo .pf 1) (wr State.reset .glbSectionMap 1) (fun u => fg u F.GLB_SECTION_STATUS_RESULT == 3) = true := by decide +kernel
theorem test_hyp_FencesPassagesAndReplacement :
    ((1151 < 1152) ∧ isPriv sc .pf = true ∧ getBits (0x80 : Word) 7 7 = 1 ∧ (tile (settle sc 0) 1151).passFail = false ∧ (tile (settle sc 0) 1151).fenced = false ∧ tileDie 1151 < (settle sc 0).dies.length ∧
      (tile (settle sc 0) 1).slot = some 0 ∧ task? (settle sc 0) 0 = some tk) ∧
    (let s := fun l => setDie State.reset 3 { DiePlace.reset with repl := some (0, [3], l) }
     3 < (s false).dies.length ∧ (diePlace (s false) 3).repl = some (0, [3], false) ∧ heldResetting (s false) 3 = false ∧ Memory.wf (s false).mem = true ∧ (diePlace (s true) 3).repl = some (0, [3], true) ∧
     (nextMap (s false) 3 [3])[3]? ≠ (diePlace (s false) 3).map[3]?) ∧
    (settle sc 0).flips = [] ∧ (∀ x ∈ (settle sc 0).tiles, x.2.stops = []) ∧
    (let o : StopOp := { mover := true, copy := false, pat := 7, src := 0, dst := 0x800, len := 128, start := 0, pc := 0x100 }
     let s := settle { sc with tiles := [(0, { Tile.fresh with slot := some 0 }), (1, { Tile.fresh with slot := some 0, stops := [o] })] } 0
     (tile s 1).stops = [o] ∧ s.flips = [] ∧ Memory.wf s.mem = true ∧ o.len % 64 = 0 ∧ o.dst + o.len ≤ storeBase s 1 + windowTable (storeBase s 1)) := by decide +kernel
/-- R158, R168: with column 3 retired, logical column 3 is physical column 4. -/
theorem test_replacement : gives (.replacementInForce 3) (setDie State.reset 3 { DiePlace.reset with repl := some (0, [3], true) }) (fun u => (diePlace u 3).map == [0, 1, 2] ++ rangeFrom 4 13 && u.mapPend == [(3, 3)]) = true := by decide +kernel
/-- R165: a fence of a tile with a task takes it to RESETTING. -/
theorem test_fence_tile : gives (.plFenceWrite .pf 1 0x80) sc (fun u => (tile u 1).fenced && (node? u 0 0).map (fun n => n.state) == some .resetting) = true := by decide +kernel
theorem test_hyp_MemoryControllersServe :
    (devPresent State.reset 7 = true ∧ devPresent State.reset 23 = true ∧ devFenced State.reset 7 = false ∧ devFenced State.reset 23 = false ∧ State.reset.flips = [] ∧ 0 < devBytes State.reset 7 ∧ rowHeld State.reset 7 0 = false ∧ 7 < 8 ∧ 79 < 80 ∧
      Memory.wf State.reset.mem = true ∧ fg State.reset F.MEM_CTL_T1_SCRUB_H ≠ 0 ∧ fg State.reset F.MEM_CTL_T2_SCRUB_H ≠ 0 ∧ (fg State.reset F.MEM_DEV_SCRUB_LINE 0 7 + 1) * 128 < devBytes State.reset 7) ∧
    (let s := fs State.reset F.MEM_DEV_SCRUB_LINE (stackBytes State.reset / 128 - 1) 0 7
     devBytes s 7 ≤ (fg s F.MEM_DEV_SCRUB_LINE 0 7 + 1) * 128 ∧ rowHeld s 7 (fg s F.MEM_DEV_SCRUB_LINE 0 7 * 128) = false) ∧
    (7, 5, 0) ∈ { State.reset with memc := { MemCtl.reset with repairs := [(7, 5, 0)] } }.memc.repairs ∧
    (State.reset.memc.wback = [] ∧ dormant State.reset = false ∧ dormant (fs State.reset F.CLK_DORMANT_STATUS_STATE 2) = true ∧ State.reset.memc.held = []) := by
  refine ⟨by decide +kernel, by decide +kernel, by simp, by decide +kernel⟩
/-- R264: a wrong check bit is corrected, counted and recorded. -/
theorem test_mem_read : gives (.memRead 0 64 ⟨.requester 0, 0⟩ ⟨[(7, BitVec.twoPow 80 79, 0)], ⟨0, false⟩⟩) State.reset (fun u => u.memc.wback.length == 1 && fg u F.MEM_DEV_ECC_COUNT_CE_COUNT 0 0 == 1 && u.recs.map (fun r => r.cls) == [8]) = true := by decide +kernel
/-- R266: only the bytes of the mask are written. -/
theorem test_mem_write : gives (.memWrite 0 64 5 ⟨0x030201, 0, ⟨0, false⟩⟩) State.reset (fun u => memBytes u.mem (keyMem 0 64) 4 == [1, 0, 3, 0]) = true := by decide +kernel

/-- The first flit of a packet of two, of request 3 of the mover core of tile 1. -/
def fl1 : Flit := { fl0 with more := 1 }

/-- It waits in an entry queue of stop 1. -/
def qf (source : Nat := 3) : QueuedFlit := { pos := 1, source := source, fl := fl1, marked := false }

/-- That request is outstanding, ring 1 holds its first flit at stop 1, its destination, and tile 0 is in a given state. -/
def sNet (f : Ring → Ring := id) (fl : Flit := fl1) (t : Tile := Tile.fresh) : State :=
  { State.reset with cores := [(3, { kr with haul := [hr false] })], tiles := [(0, t)], rings := [(1, f { Ring.fresh with flits := [{ fl := fl, pos := 1, marked := false }] })] }

/-- Whether `r` is what a statement says of the flit's goal. -/
def goalIs (s : State) (fl : Flit) (r : Except NetRefusal (Nat × Bool)) : Bool :=
  match flitGoal s 1 fl, r with
  | .ok a, .ok b => a == b
  | .error a, .error b => a == b
  | _, _ => false

theorem test_hyp_RingsCarryFlits_entry :
    (shunted (sNet id fl1 { Tile.fresh with passFail := true }) (ringAt 1 1) = true ∧ ringStops (ringColumn 31) = 20 ∧ ringStops (ringColumn 32) = 18) ∧
    (let r := Ring.fresh
     qf ∉ r.queue ∧ (r.queue.filter fun x => x.pos == 1).length < 8 ∧ fl1.seq.toNat = SMap.get 0 r.next (packetKey fl1) ∧ ({ fl1 with seq := 1 }).seq.toNat ≠ SMap.get 0 r.next (packetKey fl1) ∧
     8 ≤ ((List.replicate 8 (qf 4)).filter fun x => x.pos == 1).length ∧ qf ∉ List.replicate 8 (qf 4)) ∧
    (let s := sNet
     let s2 := { s with haulCtl := (0, 3) }
     shunted s (ringAt 1 1) = false ∧ lengthOk s { fl1 with more := 0 } = true ∧ lengthOk s { fl1 with more := 16 } = false ∧ flitAge s fl1 = 0 ∧ (granted s { Ring.fresh with queue := [qf] } 1 = some qf) ∧
     ((s.haulCtl.2 : Int) < (rankAge s Ring.fresh qf - (BitVec.ofInt 32 (5 - 1 - s.haulCtl.2) : BitVec 32)).toInt) ∧ ¬ ((s2.haulCtl.2 : Int) < (rankAge s2 Ring.fresh qf - (2 : BitVec 32)).toInt) ∧
     ((ring s 1).flits.filter fun x => x.pos == 1).length + (true : Bool).toNat + 2 ≤ 4 ∧ 4 < ((ring (sNet fun r => { r with flits := r.flits ++ r.flits }) 1).flits.filter fun x => x.pos == 1).length + (true : Bool).toNat + 2) ∧
    (heads { Ring.fresh with queue := [qf, qf 4, qf] }).filter (fun h => h.pos == 1) = [qf, qf 4] ∧ heads { Ring.fresh with queue := [qf] } = [qf] := by decide +kernel
theorem test_hyp_RingsCarryFlits_arrival :
    ((ring sNet 1).flits[0]? = some { fl := fl1, pos := 1, marked := false } ∧ isMulti fl1.route = false ∧ fl1.cls ≠ .message ∧ goalIs sNet fl1 (.ok (1, true)) = true ∧
      packetKey fl1 ∈ (ring (sNet fun r => { r with reserved := [packetKey fl1] }) 1).reserved ∧ packetKey fl1 ∉ (ring sNet 1).reserved ∧ (ring sNet 1).refused.filter (fun y => y.pos == 1) = []) ∧
    (let o : RefusedPacket := { pos := 1, key := 9, age := 4, flits := 17 }
     [o, { o with pos := 2 }].filter (fun y => y.pos == 1) = [o] ∧ o.key ≠ packetKey fl1 ∧ older o.age fl1.age = true) ∧
    (bodyWordCheck [(15, 7, 0)] 15 = .bad .multi ∧ flitReq sNet fl1 = some (⟨1, true⟩, hr false) ∧ (hr false).err = stOK ∧ ∀ y ∈ (coreAt sNet ⟨1, true⟩).haul, y.id = (hr false).id → y = hr false) ∧
    ({ fl1 with cls := .message }.cls = .message ∧ goalIs sNet { fl1 with cls := .message } (.ok (1, true)) = true) ∧
    (let fl := { fl1 with route := .uni ⟨0, 1, 3⟩ ⟨0, 2, 1⟩ 7 0 0 }
     goalIs (sNet id fl) fl (.ok (1, false)) = true ∧ legNext (1 / 68) (ringColumn 1) (ringIndex 1) 1 ⟨0, 1, 3⟩ = (0, true, 0, 1) ∧ ringNo 0 true 0 (pickRing 18 1 (legGoal 0 true 0 ⟨0, 2, 1⟩ ⟨0, 1, 3⟩).1) ≠ 1) ∧
    (goalIs (sNet id fl1 { Tile.fresh with passFail := true }) fl1 (.error .fenced) = true ∧ fl1.cls = .request) := by decide +kernel
/-- R240: a packet of 2 flits that is accepted reserves room for 1 more; R242: a flit enters with the AGE of its request. -/
theorem test_flits : gives (.flitArrival 1 0 true ⟨.clean, []⟩) sNet (fun u => (ring u 1).flits.isEmpty && (ring u 1).reserved == [packetKey fl1]) = true ∧
    gives (.flitEntry 1 ⟨2, 3⟩ false { fl1 with more := 0 }) sNet (fun u => (ring u 1).flits.map (fun x => (x.pos, x.fl.age)) == [(1, 5), (2, 0)]) = true := by decide +kernel

/-- A multicast of tag 4 to columns 0 and 17 of row 15 of die 3. -/
def mc0 : Mcast := { die := 3, column := false, index := 15, home := 0, mask := 2 ^ 17 + 1, relay := 0, tag := 4, sends := 0, born := 0, load := .launch 0, parent := none, cols := [], done := false }

theorem test_hyp_TimeoutsAndMulticasts :
    (let s := onCi fun k => { k with haul := [hr false] }
     let at_ := (hr false).born + max 1700 (fg s F.HAUL_TIMEOUT_TIMEOUT_HC)
     let s0 := advanceTo (settle s (max s.clk.cyc at_)) at_
     taskOf s 0 = some (0, tk) ∧ tk.shadow = 0 ∧ (coreAt s ci).haul.find? (fun r => r.id == 3) = some (hr false) ∧ taskOf s0 0 = some (0, tk) ∧ (coreAt s0 ci).gates = [] ∧ s0.flips = [] ∧ s0.clk.cyc < cycleAt s0 (closing s0)) ∧
    (let x : SeamCmd := { part := 0, kind := 0, block := [], origin := .task 0 0 0 6 0x100 0x440, assay := none, leaves := [], sent := false }
     let s := { onCi fun k => { k with cmds := [6] } with seam := { Seam.reset with queue := [x] } }
     let s0 := settle s s.clk.cyc
     6 ∈ (coreAt s ci).cmds ∧ findCmd s ci 6 = some x ∧ taskOf s0 0 = some (0, tk) ∧ task? s0 0 = some tk ∧ s0.flips = [] ∧ s0.clk.cyc < cycleAt s0 (closing s0)) ∧
    (let s := { State.reset with mcasts := [(9, mc0)] }
     let s0 := advanceTo (settle s (max s.clk.cyc (mc0.born + 1024))) (mc0.born + 1024)
     SMap.find s.mcasts 9 = some mc0 ∧ mc0.mask < 2 ^ 18 ∧ castBits mc0 = [0, 17] ∧ s0 = { s with clk := s0.clk, ariths := s0.ariths } ∧ (0x20000 : BitVec 18).getLsbD 17 = true ∧
     (tile s (castTile mc0 17)).casts.contains (castId mc0) = false ∧ (tile s (castTile mc0 0)).fenced = false ∧ mc0.sends < fg (fs s F.HAUL_CTL_RESEND_LIMIT 1) F.HAUL_CTL_RESEND_LIMIT ∧
     fg (fs s F.HAUL_CTL_RESEND_LIMIT 0) F.HAUL_CTL_RESEND_LIMIT ≤ mc0.sends) ∧
    (let m := { mc0 with relay := 0xFFFF, mask := 2 ^ 17, load := .firmware }
     let s := { State.reset with mcasts := [(9, m)], nextMc := 10 }
     SMap.find s.mcasts 9 = some m ∧ m.relay ≠ 0 ∧ castBits m = [17] ∧ castGone s (castTile m 17) = false ∧ (tile s (castTile m 17)).casts.contains (castId m) = false ∧ 9 < s.nextMc ∧ Memory.wf s.mem = true) := by decide +kernel
/-- R245: a passage that accepts a row multicast with RELAY sends it along its column; R246: after RESEND_LIMIT resends the stops that miss are fenced. -/
theorem test_mcast : gives (.mcastReturn 9 0) { State.reset with mcasts := [(9, { mc0 with relay := 3, mask := 1 })], nextMc := 10 } (fun u => (SMap.find u.mcasts 10).map (fun x => (x.column, x.index, x.mask)) == some (true, 0, 3)) = true ∧
    gives (.mcastReturn 9 0x20000) { fs State.reset F.HAUL_CTL_RESEND_LIMIT 0 with mcasts := [(9, mc0)] } (fun u => (tile u (tileAt 3 15 17)).fenced && !(tile u (tileAt 3 15 0)).fenced && u.mcasts.isEmpty) = true := by decide +kernel

/-- A message from core 0 of slot 0 under tag 4 to queue q of tile 1. -/
def flight (q : Nat) : Flight := { core := 0, slot := 0, epoch := 0, tag := 4, dst := 1, q := q, data := msg0.data, request := false, sender := 0, replyQ := 0, gen := 0, resv := some 9, marked := false, age := 0 }

theorem test_hyp_MessagesReachTheirQueues :
    ({ sc with flights := [flight 7] }.flights[0]? = some (flight 7) ∧ (∀ g ∈ { sc with flights := [flight 7] }.flights.take 0, ¬ (g.core = 0 ∧ g.dst = 1 ∧ g.q = 7))) ∧
    (let f : OutcomeFlit := { core := 0, slot := 0, epoch := 0, tag := 4, code := 1, resv := some 9 }
     let s := { onCi fun k => { k with sends := [4] } with outFlits := [f] }
     s.outFlits[0]? = some f ∧ taskOf s (f.core / 2) = some (f.slot, tk) ∧ tk.epoch = f.epoch ∧ tk.shadow = 0 ∧ f.tag ∈ (coreAt s { tile := f.core / 2, mover := decide (f.core % 2 = 1) }).sends ∧ taskOf s 5 = none) := by
  refine ⟨⟨rfl, fun g hg => by cases hg⟩, by decide +kernel⟩
/-- Table 9.4: with its channels closed the message is GONE; open, it is stored and acknowledged. -/
theorem test_message : gives (.msgArrival 0) { sc with flights := [flight 7] } (fun u => u.outFlits.map (fun f => f.code) == [2]) = true ∧
    gives (.msgArrival 0) { onQueues ⟨[], 0, 0⟩ ⟨[], 0, 0⟩ with flights := [flight 7] } (fun u => u.outFlits.map (fun f => f.code) == [0] && (msgQueue (tile u 1) 7).entries.length == 1) = true := by decide +kernel

/-! ### Links and transport -/

theorem find_none_of_lt (m : SMap Word) (b k : Nat) (h : (m.all fun x => decide (x.1 < b)) = true) (hk : b ≤ k) : SMap.find m k = none := by
  induction m with
  | nil => rfl
  | cons x m ih =>
    simp only [List.all_cons, Bool.and_eq_true, decide_eq_true_eq] at h
    rw [SMap.find, if_neg (by omega), ih h.2]

/-- No partition is confidential in a state whose listed registers all lie below SEC_PART_CTL. -/
theorem no_conf (s : State) (h : (s.regs.all fun x => decide (x.1 < 0x810000)) = true) (q : Nat) : confOn s q = false := by
  have hk : 0x810000 ≤ regKey .secPartCtl q 0 0 := by
    show 0x810000 ≤ 0 * 2 ^ 32 + (0x810000 + q * 0x400 + 0 * 0)
    omega
  have hf := find_none_of_lt s.regs _ _ h hk
  show decide (getBits (((SMap.find s.regs (regKey .secPartCtl q 0 0)).getD _)) 63 63 = 1) = false
  rw [hf]; decide +kernel

/-- Port 31 in a state of Table 11.4 with a link record. -/
def port (st : Nat) (k : Link := Link.fresh) : State := { fs State.reset F.PORT_LINK_STATUS_STATE st 31 with links := [(31, k)] }

/-- Partition 0 has device ID 1, and port 0 is ACTIVE at x4. -/
def sXp : State := fs (fs (fs (fs State.reset F.PORT_DEVID_VALID 1) F.PORT_DEVID_ID 1) F.PORT_LINK_STATUS_STATE 6) F.PORT_LINK_STATUS_WIDTH 4

/-- A packet from device ID 2 for device ID 1. -/
def pkt (op : Nat) (target : Nat := 0) : Packet :=
  { op := op, dst := 1, src := 2, epoch := 0, unit := 0, enc := false, lines := 1, plane := 0, opId := 9, tile := 0, target := BitVec.ofNat 64 target, time := 0, status := 0, lineMask := 0, echo := 0, hkind := 1, w5 := 0,
    bound := 0, ctr := 0, sess := 0, reserved := false, payload := 5 :: List.replicate 63 0, wire := [] }

/-- An outstanding operation 9 to device ID 2. -/
def rop (write : Bool) (why : Purpose := .engine) : RemOp :=
  { id := 9, part := 0, dst := 2, la := 0x1000, write := write, lines := 1, data := [], unit := 2, tile := 0, why := why, sends := 1, planes := [], sentAt := 0, held := false, w5 := 0, bound := 0 }

/-- The state with outstanding operations. -/
def withOps (l : List RemOp) : State := { sXp with xp := { sXp.xp with ops := l } }

theorem test_hyp_LinksTrainAndRecover :
    (let one : Link := { Link.fresh with det := 255, eq := 255, passed := 255, held := [(0, ⟨none, [], [pkt 1]⟩, 0)] }
     let full : Link := { Link.fresh with det := 255, eq := 255, passed := 255, oldWidth := 8 }
     isPriv (port 0) .pf = true ∧ portEnabled (port 0) 31 = true ∧ fg (fs (port 0) F.PORT_LINK_CTL_EN 0 31) F.PORT_LINK_CTL_EN 31 = 0 ∧ getBits (0xFF01 : Word) 0 0 = 1 ∧ 31 ∉ (port 0).om.dead ∧ portState (port 6 full) 31 ≠ 0 ∧ (link (port 6 full) 31).held = [] ∧
     (link (port 6 full) 31).txq = [] ∧ (let s := fs (port 6 full) F.PORT_LINK_CTL_EN 1 31; fg s F.PORT_LINK_CTL_EN 31 = 1 ∧ getBits (0x10001 : Word) 0 0 = 1 ∧ getBits (0x10001 : Word) 16 16 = 1 ∧ portState s 31 = 6) ∧
     portState (port 1) 31 = 1 ∧ 4 ≤ laneCount (0x0F : BitVec 8).toNat ∧ laneCount (0x07 : BitVec 8).toNat < 4 ∧ portState (port 2 full) 31 = 2 ∧ 4 ≤ laneCount (Nat.land (0xF0 : BitVec 8).toNat (link (port 2 full) 31).det) ∧
     laneCount (Nat.land (0x70 : BitVec 8).toNat (link (port 2 full) 31).det) < 4 ∧ portState (port 3 full) 31 = 3 ∧ portState (port 4 full) 31 = 4 ∧ 4 ≤ laneCount (Nat.land (link (port 4 full) 31).passed (0x1E : BitVec 8).toNat) ∧
     portState (port 5 full) 31 = 5 ∧ portState (port 7 full) 31 = 7 ∧ laneIn (link (port 6 full) 31).det 7 = true ∧
     ([List.range 15].countP (fun w => decide (15 < w.length)) = 0 ∧ [List.range 16].countP (fun w => decide (15 < w.length)) ≠ 0) ∧
     (link (port 6 one) 31).held ≠ [] ∧ (0 + 1024 - 0) % 1024 < (link (port 6 one) 31).held.length ∧ 512 ≤ (512 + 1024 - 0) % 1024 ∧ fg (fs (port 6 one) F.PORT_REPLAY_RUN 8 31) F.PORT_REPLAY_RUN 31 = 8 ∧ fg (port 6 one) F.PORT_REPLAY_RUN 31 < 8 ∧
     (let s := fs (port 6 full) F.PORT_LINK_STATUS_WIDTH 4 31
      roundsRun s 31 = true ∧ (link s 31).round = none ∧ fg s F.PORT_LINK_GLB_LANE_RETRY_S ≠ 0 ∧ fg s F.PORT_LINK_STATUS_HELD_REASON 31 ≠ 4) ∧ roundsRun (port 8 { full with round := some false }) 31 = true ∧
     (let s := port 6 { full with proposal := some (200000, false) }
      (link s 31).proposal = some (200000, false) ∧ mer s + 10000 < 200000) ∧ portState (port 10) 31 = 10 ∧ (link (port 10) 31).txq = [] ∧ 7 < 8) := by decide +kernel
theorem test_hyp_LinksTrainAndRecover_blocks :
    (∀ typ nak ack, typ < 3 → ack < 1024 → headType (blockHead typ nak 0 ack []) = typ ∧ headNak (blockHead typ nak 0 ack []) = nak ∧ headSeq (blockHead typ nak 0 ack []) = 0 ∧
      headAck (blockHead typ nak 0 ack []) = ack ∧ crcRight (blockHead typ nak 0 ack []) [] = true) ∧ nextPacket (cut64 20 (blockPayload [])) = none ∧ (port 6).links = [(31, Link.fresh)] := by
  refine ⟨fun typ nak ack ht ha => ?_, by decide +kernel, rfl⟩
  have h := blockHead_read typ nak 0 ack []
  rwa [Nat.mod_eq_of_lt (by omega : typ < 4), Nat.mod_eq_of_lt ha] at h
/-- R286: five good lanes give x4 on the four lowest. -/
theorem test_config : gives (.configDone 31 0xFA) (port 4 { Link.fresh with passed := 0x7F }) (fun u => portState u 31 == 5 && fg u F.PORT_LINK_STATUS_WIDTH 31 == 4 && fg u F.PORT_LINK_STATUS_LANE_MAP 31 == 0x3A) = true := by decide +kernel
/-- R279: a block with an expected number moves it on; an uncorrectable codeword asks for a replay. -/
theorem test_block : gives (.linkBlockRx 31 ⟨[List.range 16, []], 0, []⟩) (port 6) (fun u => (link u 31).nak && (link u 31).rxSeq == 0) = true := by decide +kernel

/-- A packet of partition p leaves on port m. -/
theorem leaves {s : State} {p id : Nat} {used : List Nat} {m : Nat} (h : ((choosePort s p id used).any fun x => x.1 == m) = true) (hr : (s.regs.all fun x => decide (x.1 < 0x810000)) = true)
    (ht : ((link s m).txq.isEmpty && (link s m).ctl.isEmpty && decide ((link s m).held.length < 512) && decide (fg s F.PORT_SAMPLE_CTL_EN ≠ 1)) = true) : LeavesOn s p id used m := by
  simp only [Bool.and_eq_true, List.isEmpty_iff, decide_eq_true_eq] at ht
  refine ⟨?_, ht.1.1.1, ht.1.1.2, ht.1.2, no_conf s hr, ht.2⟩
  match hc : choosePort s p id used with
  | none => simp [hc] at h
  | some (k, s1) => simp [hc] at h; exact ⟨s1, by rw [h]⟩

/-- A packet with a code is taken in the state `withOps`. -/
theorem taken (l : List RemOp) (op : Nat) (h : dropOf (withOps l) (pkt op) = none) : Taken (withOps l) 0 0 op (pkt op) := by
  refine ⟨by decide, by decide, rfl, rfl, by show portState sXp 0 = 6; decide +kernel, by show inDeviceReset sXp = false; decide +kernel, by show fg sXp F.PORT_SAMPLE_CTL_EN ≠ 1; decide +kernel, h,
    by show partOfId sXp 1 = some 0; decide +kernel, rfl, no_conf _ (by show (sXp.regs.all _) = true; decide +kernel), rfl, fun x hx => by cases hx⟩

/-- A collective descriptor of two members, this one of rank 0, with 32 elements of FP32, tag 5. -/
def cw8 : List Word := [BitVec.ofNat 64 (2 ^ 53), BitVec.ofNat 64 (5 * 2 ^ 48), 0x1000, 0x2000, 0x7000, 32, 0x6000, 0x3000]

/-- The state whose partition 0 has that descriptor in its table, with members 1 and 2. -/
def sColl : State :=
  { fs (fs sXp F.PORT_COLL_TABLE_BASE 0x140) F.PORT_COLL_TABLE_EN 1 with
    xp := { sXp.xp with collDesc := [(0, { base := 0, next := 0, bad := false })] }, mem := put (put [] 0x5000 (bytesOfWords cw8)) 0x6000 (bytesOfWords [BitVec.ofNat 64 (2 * 2 ^ 32 + 1)]) }

/-- A line of rank 1's contribution to SEQ 0. -/
def pkC : Packet := { pkt 8 with w5 := BitVec.ofNat 64 (5 * 2 ^ 48 + 2 ^ 8) }

theorem test_hyp_TransportPacketsAreServed :
    Taken (withOps []) 0 0 1 (pkt 1) ∧ Taken (withOps []) 0 0 3 (pkt 3) ∧ Taken (withOps []) 0 0 12 (pkt 12) ∧ Taken (withOps [rop false]) 0 0 2 (pkt 2) ∧ Taken (withOps [rop true]) 0 0 4 (pkt 4) ∧
    Taken (withOps [rop true (.coll 0 0 0 1)]) 0 0 9 (pkt 9) ∧ LeavesOn (withOps []) 0 2 [] 0 ∧
    ({ pkt 1 with reserved := true }.reserved = true ∧ partOfId sXp 0x3FFFE = none ∧ (let s := advanceToNs sXp 1000000; (pkt 1).time + max 2 (fg s F.PORT_XPORT_CTL_LIFETIME_US) * 1000 < mer s)) ∧
    (let s := { sXp with parts := [(0, { Part.fresh with fenced := true })] }
     partFenced s 0 = true) ∧
    (partFenced (withOps []) 0 = false ∧ getBits (pkt 1 0x1FC0).target 63 44 = 0 ∧ resolveLocal (withOps []) (packetWho (pkt 1 0x1FC0)) 0 0x1FC0 false = .mem 1 0xFC0 ∧ devHeld (withOps []) 1 = false ∧
      resolveLocal (withOps []) (packetWho (pkt 3 0x1FC0)) 0 0x1FC0 true = .mem 1 0xFC0 ∧ dupOf (withOps []) (pkt 3) = none) ∧
    (let x : DupEntry := { src := 2, epoch := 0, op := 9, time := 0, reply := some { pkt 4 with dst := 2 }, die := 0 }
     let s := { sXp with xp := { sXp.xp with dups := [x] } }
     dupOf s (pkt 3) = some x ∧ s.xp.dups.find? (fun e => e.src == (2 : BitVec 18).toNat && e.epoch == (0 : BitVec 8).toNat && e.op == (9 : BitVec 32).toNat) = some x) ∧
    ((withOps [rop true]).xp.ops.find? (fun q => q.id == (pkt 4).opId) = some (rop true) ∧ (withOps [rop true]).dmas = [] ∧ (withOps [rop true]).om.rejoins = [] ∧ (pkt 4).status = stOK ∧ coll? (withOps []) 0 0 0 = none) := by
  refine ⟨taken _ _ (by decide +kernel), taken _ _ (by decide +kernel), taken _ _ (by decide +kernel), taken _ _ (by decide +kernel), taken _ _ (by decide +kernel), taken _ _ (by decide +kernel),
    leaves (by decide +kernel) (by decide +kernel) (by decide +kernel), by decide +kernel, by decide +kernel, by decide +kernel, by decide +kernel, by decide +kernel⟩
theorem test_hyp_TransportPacketsAreServed_collective :
    collByTag sColl 0 (getBits pkC.w5 63 48) = some (0, cw8, [1, 2]) ∧ db cw8 0 61 61 = 0 ∧ isBoundary sColl pkC.bound.toNat = true ∧ 1 < collG cw8 ∧ 0 + 16 ≤ collCount cw8 ∧ collRank cw8 = 0 ∧ (0 + 15) / collShard cw8 = 0 ∧ collCur sColl 0 0 = 0 ∧
    coll? sColl 0 0 0 = none ∧ resolve sColl (.engine 0) 0 0x7000 true = .mem 7 0 ∧ dropOf sColl pkC = none ∧ sColl.flips = [] := by decide +kernel
theorem test_hyp_TransportPacketsAreServed_rest :
    (let s := withOps [rop false]
     let s1 := advanceToNs s (0 + max 1 (fg s F.PORT_XPORT_CTL_RETRY_US) * 1000)
     sendRefusal s1 0 2 = none ∧ (rop false).sends ≤ fg s F.PORT_XPORT_CTL_RETRIES ∧ (choosePort s1 0 2 []).any (fun x => x.1 == 0) = true ∧ fg (fs s F.PORT_XPORT_CTL_RETRIES 0) F.PORT_XPORT_CTL_RETRIES < (rop false).sends) ∧
    (let s := { sXp with xp := { sXp.xp with excl := [(2, 31, 5000)] } }
     s.xp.excl.find? (fun (d, k, _) => d == (2 : BitVec 18).toNat && k == 31) = some (2, 31, 5000)) ∧ (poolsOf (withOps []) 2 = [] ∧ (withOps []).ke.shakes = [] ∧ SMap.wf (withOps []).regs = true ∧ (pkt 12).hkind = 1 ∧ (withOps []).xp.colls = []) ∧
    (let s := { sXp with sync := { Sync.reset with beacons := [(0, { sent := some 0, off := 0, delay := 0, at_ := none })] } }
     (beacon s 0).sent = some 0 ∧ mer s ≤ (pkt 14).time + max 2 (fg s F.PORT_XPORT_CTL_LIFETIME_US) * 1000) ∧ qualifying (advanceToNs sXp 1000) = [] ∧
    (let s := { sXp with sync := { Sync.reset with beacons := [(0, { sent := none, off := 2000, delay := 5, at_ := some 0 })] } }
     qualifying (advanceToNs s (s.sync.last + max 1 (fg s F.PORT_TIME_CTL_BEACON_US) * 1000)) = [2000] ∧ fg s F.CLK_REF_STATUS_FABRIC_LOST ≠ 1 ∧ fg s F.TGE_ADMIT_CTL_EN ≠ 1) ∧
    (isPriv sXp .pf = true ∧ idOpen sXp 7 = true ∧ 7 ∉ sXp.xp.owed ∧ getBits (0x8000000000000001 : Word) 63 63 = 1 ∧ devId sXp 0 = some (getBits (0x8000000000000001 : Word) 17 0)) ∧ mayAct sXp .pf 7 = true ∧ fg sXp F.PORT_COLL_TABLE_EN 7 = 0 := by
  decide +kernel
/-- R305: a write from a peer is done, remembered and answered with a completion. -/
theorem test_write_request : gives (.wrReqReceive 0 (pkt 3 0x40) true) sXp (fun u => memBytes u.mem (keyMem 0 0x40) 1 == [5] && u.xp.dups.map (fun e => e.op) == [9] &&
    (u.outs.any fun o => match o with | .packet 0 4 r => r.dst == 2 && r.opId == 9 && r.status == 0 | _ => false)) = true := by decide +kernel
/-- R296: an ID that another partition holds is refused with CFG_ERR. -/
theorem test_devid : gives (.portDevidWrite .pf 7 0x8000000000000001) sXp (fun u => fg u F.PORT_DEVID_CFG_ERR 7 == 1 && fg u F.PORT_DEVID_VALID 7 == 0) = true ∧
    gives (.portDevidWrite .pf 7 0x8000000000000003) sXp (fun u => devId u 7 == some 3) = true := by decide +kernel
/-- R313: the line goes to STAGE. -/
theorem test_coll_data : gives (.collDataReceive 0 pkC true) sColl (fun u => memByte u.mem (keyMem 7 0) == 5 && has (coll? u 0 0 0) fun c => c.got == [(1, 0)]) = true := by decide +kernel


/-! ### The Seam Engines and the Assay units -/

/-- A Ledger entry: STATE, CSTATE, LENGTH, one layer and one head of 32 dimensions, map root at 0x100000 or none. -/
def ent (st cst len root : Nat) : List Word :=
  [BitVec.ofNat 64 (st * 2 ^ 61 + cst * 2 ^ 56), BitVec.ofNat 64 root, BitVec.ofNat 64 (2 ^ 53 + len)] ++ List.replicate 13 0

/-- The tables of the map, and seam 0 of group 0 in T1 at 0x200000 with one row and a sketch at 0x300000. -/
def mapMem (m : List Host.Cell) : List Host.Cell :=
  memPut (memPut (memPut m 0x100000 (bytesOfWords [BitVec.ofNat 64 (2 ^ 63 + 0x101000), 1])) 0x101000 (bytesOfWords [BitVec.ofNat 64 (2 ^ 63 + 0x102000), 1])) 0x102000
    (bytesOfWords [BitVec.ofNat 64 (0x200000 + 2 ^ 13 + 2 ^ 8), BitVec.ofNat 64 (0x300000 / 64 * 2 ^ 30)])

/-- The module whose partition 0 holds section 0 alone and has its Seam Engine enabled. -/
def sEng : State := fs (wr State.reset .glbSectionActive 0xFFFFFFF0) F.SEAM_CTL_EN 1

/-- The key of stream 4's Ledger entry: 36 GiB less 16 MiB, and 4 entries (R174, R179). -/
def ledger4 : Nat := ledgerBase sEng 0 + 512

/-- The engine with a Ledger entry of stream 4, memory besides, and commands that core 0 of tile 0 has issued under tag 7 with its completion area at offset 0x800. -/
def sSeam (e : List Word) (cmds : List SeamCmd) (m : List Host.Cell := []) : State :=
  { sEng with mem := memPut m ledger4 (bytesOfWords e), seam := { Seam.reset with queue := cmds }, tge := sc.tge, tasks := sc.tasks, tiles := sc.tiles, cores := [(0, { kr with cmds := [7] }), (1, kr), (2, kr), (3, kr)] }

/-- A command of a kind with a block. -/
def scmd (kind : Nat) (b : List Word) : SeamCmd := { part := 0, kind := kind, block := b, origin := .task 0 0 0 7 0x100 0x800, assay := none, leaves := [], sent := false }

/-- A CONTROL of an operation on stream 4. -/
def ctl (op : Nat) : SeamCmd := scmd 2 (BitVec.ofNat 64 (op * 2 ^ 56 + 4) :: List.replicate 7 0)

/-- The first command of a state is served next by die 0, its core runs, and the Ledger entry is at its key. -/
def served (s : State) (c : SeamCmd) (assay : Bool := false) : Bool :=
  decide (nextCmd s 0 assay = some c) && !engineFenced s (if assay then 3 else 2) 0 && fb s F.SEAM_CTL_EN 0 && decide (c.sid < streamCount s 0) && decide (issuer s c = some (0, tk, ci)) && decide (tk.shadow = 0) && decide (0x840 ≤ 2 ^ 21) &&
  decide (localKey? s 0 (entryAddr s 0 4) = some ledger4) && decide (entryAddr s 0 4 % 4096 + 128 ≤ 4096) && decide (ledger4 + 128 ≤ 2 ^ 50) && s.flips.isEmpty && Memory.wf s.mem && decide ((tile s 0).base = 0)

/-- A FETCH of one seam of group 0, keys and values, to offset 0x1000. -/
def fetchB (first : Nat) : List Word := [BitVec.ofNat 64 (3 * 2 ^ 42 + 4), BitVec.ofNat 64 (first * 2 ^ 16 + 1), 0x1000, 0, 0, 0, 0, 0]

/-- An APPEND of step 1 and one position at 1 from offset 0x1000. -/
def appendB : List Word := [4, BitVec.ofNat 64 (2 ^ 32 + 2 ^ 20 + 1), 0x1000, 0, 0, 0, 0, 0]

/-- A QUERY of one vector at offset 0x1000 over seam 0, its list at 0x2000 and its report at 0x3000. -/
def queryB : List Word := [4, 0, BitVec.ofNat 64 (0x3F800000 * 2 ^ 32), BitVec.ofNat 64 (2 ^ 32), 0x1000, 0x2000, 0x3000, 0]

theorem test_hyp_SeamAndAssayCommandsAreServed_control :
    served (sSeam (ent 0 0 0 0) [ctl 1]) (ctl 1) = true ∧ eState (entryRaw (sSeam (ent 0 0 0 0) [ctl 1]) 0 4) = 0 ∧
    (let c := { ctl 1 with block := (ctl 1).block }
     let n := openEntry (sSeam (ent 0 0 0 0) [c]) c (ent 0 0 0 0)
     openRest (dw c.block 1) = false ∧ getBits (dw c.block 1) 55 54 < 2 ∧ eF n ≤ 65536 ∧ eSketch n ≤ poolUnit (sSeam (ent 0 0 0 0) [c]) 0 .sketch ∧ eCmode n = 0) ∧
    (let s := sSeam (ent 2 0 1 0) [ctl 2]
     served s (ctl 2) = true ∧ served (sSeam (ent 1 0 1 0) [ctl 3]) (ctl 3) = true ∧ served (sSeam (ent 1 0 1 0) [ctl 4]) (ctl 4) = true ∧ served (sSeam (ent 1 0 1 0) [ctl 7]) (ctl 7) = true ∧
     eState (entryRaw s 0 4) = 2 ∧ eCmode (entryRaw s 0 4) = 0 ∧ resyncing s 0 4 = false ∧ s.seam.jobs = []) ∧
    served (sSeam (ent 0 0 0 0) [ctl 5]) (ctl 5) = true ∧
    (let e := eset (ent 1 2 1 0) 0 60 59 1
     let s := sSeam e [ctl 6]
     served s (ctl 6) = true ∧ eState (entryRaw s 0 4) = 1 ∧ eCmode (entryRaw s 0 4) ≠ 0 ∧ liveLeaves s 0 (entryRaw s 0 4) = [] ∧ resyncing s 0 4 = false) := by decide +kernel
theorem test_hyp_SeamAndAssayCommandsAreServed_fetch :
    (let c := scmd 0 (fetchB 1)
     let s := sSeam (ent 1 0 1 0x100000) [c] (mapMem [])
     let e := entryRaw s 0 4
     served s c = true ∧ eState e = 1 ∧ fetchInvalid s ci e (fetchB 1) = false ∧ db (fetchB 1) 0 63 62 = 0 ∧ eSeams e ≤ db (fetchB 1) 1 31 16 ∧ 0x1000 + 1 * seamBytes e (fetchB 1) ≤ 2 ^ 21) ∧
    (let c := scmd 0 (fetchB 0)
     let s := sSeam (ent 1 0 1 0x100000) [c] (mapMem [])
     let e := entryRaw s 0 4
     let s1 := (loadEntry s 0 4 (cmdCtx s c)).2
     let w := walk s1 0 4 e 0 0 (cmdCtx s1 c)
     (loadEntry s 0 4 (cmdCtx s c)).1 = some e ∧ db (fetchB 0) 1 31 16 < eSeams e ∧ db (fetchB 0) 1 12 0 = 1 ∧ has w.1 (fun w => lfState w.1 != 0 && lfState w.1 != 6) = true ∧
     has w.1 (fun x => match (readRuns w.2 0 e (lfFrame x.1) (lfTokens x.1) (cmdCtx w.2 c) (fetchRuns e (fetchB 0))).1 with
       | .data runs => decide (0x840 ≤ 0x1000) && decide (0x1000 + (deliverSeam e (fetchB 0) runs).length ≤ 2 ^ 21)
       | _ => false) = true) := by decide +kernel
theorem test_hyp_SeamAndAssayCommandsAreServed_append :
    (let c := scmd 1 appendB
     let s := sSeam (ent 1 0 1 0x100000) [c] (mapMem [])
     let e := entryRaw s 0 4
     let r1 := loadEntry s 0 4 (cmdCtx s c)
     let r2 := loadStore r1.2 0 ci 0x1000 128
     let r3 := (appendSeams 1 1).foldl (fun (acc : Option AppendStop × State) x => match acc.1 with | some _ => acc | none => appendReads acc.2 c e false x.1) (none, r1.2)
     served s c = true ∧ eState e = 1 ∧ eCmode e = 0 ∧ db appendB 0 59 52 < eGroups e ∧ outside s 0 (db appendB 2 20 0) 128 = false ∧ appendDecision e appendB = 0 ∧ eget e 3 63 32 < db appendB 1 63 32 ∧
     db appendB 1 28 20 * (2 * eG e * eH e * eD e * inBytes (db appendB 0 61 60)) = 128 ∧ r1.1 = some e ∧ r2.2.1 = [] ∧ r2.2.2 = r1.2 ∧ r3.1.isNone = true ∧
     ((appendSeams 1 1).foldl (fun (acc : Option (List SeamPart × List Word × State)) x => acc.bind fun q => (reserveSeam q.2.2 0 4 q.2.1 0 x.1 x.2.1 x.2.2).map fun r => (q.1 ++ [r.1], r.2.1, r.2.2)) (some ([], e, r3.2))).isSome = true) := by
  decide +kernel
theorem test_hyp_SeamAndAssayCommandsAreServed_query :
    (let c := scmd 3 queryB
     let s := sSeam (ent 1 0 1 0x100000) [c] (mapMem [])
     let e := entryRaw s 0 4
     let r1 := loadEntry s 0 4 (cmdCtx s c)
     let r2 := queryVectors r1.2 0 ci e queryB
     let r3 := queryLeaves r2.2 c e
     served s c true = true ∧ eState e = 1 ∧ queryInvalid s ci e queryB = false ∧ fg s F.ASSAY_CTL_FORCE_EXACT ≠ 1 ∧ db queryB 0 63 62 = 0 ∧ fg s F.ASSAY_CTL_AUDIT_EVERY = 0 ∧ r1.1 = some e ∧ r2.1.isSome = true ∧
     has r3.1 (fun x => decide (x.1.length ≤ db queryB 3 48 32)) = true) := by decide +kernel
/-- R182, R183: OPEN makes the stream OPEN with GEN 1; R196: its completion carries the tag. -/
theorem test_open : gives (.controlOpen 0) (sSeam (ent 0 0 0 0) [ctl 1]) (fun u => eState (entryRaw u 0 4) == 1 && eGen (entryRaw u 0 4) == 1 && u.seam.queue.isEmpty && (coreAt u ci).cmds.isEmpty && memByte u.mem (keyTile 0 0x804) == 7) = true := by decide +kernel
/-- R193: the APPEND makes LENGTH 2 with step 1. -/
theorem test_append : gives (.seamAppend 0) (sSeam (ent 1 0 1 0x100000) [scmd 1 appendB] (mapMem [])) (fun u => eLength (entryRaw u 0 4) == 2 && eget (entryRaw u 0 4) 3 63 32 == 1) = true := by decide +kernel

theorem filter_range_single (f : Nat → Bool) (k n : Nat) (h : ∀ j, j < n → j ≠ k → f j = false) (hk : f k = true) : (List.range n).filter f = if k < n then [k] else [] := by
  induction n with
  | zero => simp
  | succ n ih =>
    rw [List.range_succ, List.filter_append, ih fun j hj => h j (by omega)]
    by_cases e : n = k
    · subst e; simp [hk]
    · have hn : f n = false := h n (by omega) e
      rcases Nat.lt_or_gt_of_ne e with hlt | hgt
      · simp [hn, show ¬ k < n by omega, show ¬ k < n + 1 by omega]
      · simp [hn, hgt, show k < n + 1 by omega]

theorem memByte_absent (m : List Host.Cell) (a : Nat) (h : ∀ c ∈ m, c.1 ≠ a) : memByte m a = 0 := by
  induction m with
  | nil => rfl
  | cons c m ih =>
    obtain ⟨k, v⟩ := c
    have h0 : k ≠ a := h (k, v) (by simp)
    rw [memByte, if_neg (Ne.symm h0)]
    split
    · rfl
    · exact ih fun c hc => h c (by simp [hc])

theorem memBytes_zero (m : List Host.Cell) (n : Nat) : ∀ a, (∀ c ∈ m, c.1 < a ∨ a + n ≤ c.1) → memBytes m a n = List.replicate n 0 := by
  induction n with
  | zero => intro a _; rfl
  | succ n ih =>
    intro a h
    rw [memBytes, memByte_absent m a fun c hc => by have := h c hc; omega, ih (a + 1) fun c hc => by have := h c hc; omega]; rfl

/-- The engine whose stream 4 is PARKED with one seam in T1, and whose T2 pool has 2 frames. -/
def sScan : State :=
  let s := sSeam (ent 2 0 1 0x100000) [] (mapMem [])
  fs (fs (fs (fs (fs s F.SEAM_POOL_T2_BASE (2 ^ 24)) F.SEAM_POOL_T2_FRAMES 2) F.SEAM_TIER_CTL2_EN 1) F.SEAM_TIER_CTL_DEMOTE_T1 1) F.SEAM_TIER_CTL_T1_LOW 1

theorem sScan_streams : liveStreams sScan 0 = [4] := by
  have hmem : ∀ c ∈ sScan.mem, c.1 < ledgerBase sScan 0 ∨ (ledgerBase sScan 0 + 512 ≤ c.1 ∧ c.1 < ledgerBase sScan 0 + 640) := by decide +kernel
  have hbase : ledgerBase sScan 0 % 4096 = 0 := by decide +kernel
  have hsize : ledgerBase sScan 0 + 131072 * 128 ≤ t1Size sScan 0 := by decide +kernel
  have htop : t1Size sScan 0 ≤ t2Base := by decide +kernel
  have hst : stacksOf sScan 0 = [0] := by decide +kernel
  have hn : streamCount sScan 0 = 131072 := by decide +kernel
  unfold liveStreams
  rw [hn, filter_range_single _ 4 131072 ?_ (by decide +kernel)]
  · rfl
  intro j hj hne
  have ha : entryAddr sScan 0 j = ledgerBase sScan 0 + 128 * j := rfl
  generalize hL : ledgerBase sScan 0 = L at *
  have hc : chunks (L + 128 * j) 128 = [(L + 128 * j, 128)] := by
    have hm : min 128 (4096 - (L + 128 * j) % 4096) = 128 := by omega
    show chunkPieces (128 / 4096 + 1 + 1) _ _ = _
    simp only [chunkPieces]
    rw [if_neg (by decide), hm]; rfl
  have hk : localKey? sScan 0 (L + 128 * j) = some (L + 128 * j) := by
    have ht : tierTarget sScan 0 (L + 128 * j) = .mem 0 (L + 128 * j) := by
      unfold tierTarget
      rw [if_pos (by omega), if_pos (by omega), hst]
      show Target.mem (nth [0] ((L + 128 * j) / 4096 % 1) 0) ((L + 128 * j) / 4096 / 1 * 4096 + (L + 128 * j) % 4096) = _
      rw [show (L + 128 * j) / 4096 % 1 = 0 by omega, show (L + 128 * j) / 4096 / 1 * 4096 + (L + 128 * j) % 4096 = L + 128 * j by omega]; rfl
    unfold localKey?
    rw [ht]; simp [keyMem, keyT1]
  have hz : lraw sScan 0 (L + 128 * j) 128 = List.replicate 128 0 := by
    unfold lraw
    rw [hc]
    simp only [List.flatMap_cons, List.flatMap_nil, List.append_nil, hk]
    exact memBytes_zero _ _ _ fun c hc => by have := hmem c hc; omega
  unfold entryRaw
  rw [ha, hz]; decide +kernel

theorem test_hyp_SeamWorkGoesOn_scan :
    SMap.find State.reset.seam.scanned 3 ≠ some (rd State.reset .tgeTickNow).toNat ∧ scanList State.reset 3 = [] ∧ scanList sScan 0 = [(0, 4, 0, 0, 0x102000)] ∧
    SMap.find sScan.seam.scanned 0 ≠ some (rd sScan .tgeTickNow).toNat ∧ sScan.seam.scanned = [] ∧ tierAction sScan 0 4 (entryRaw sScan 0 4) 0 0 0x102000 = some (.t2, 2) ∧ freeUnits sScan 0 .t2 ≠ [] ∧
    eF (entryRaw sScan 0 4) ≤ fg sScan F.SEAM_TIER_CTL2_MOVE_MB_S * period sScan := by
  refine ⟨by decide +kernel, by decide +kernel, ?_, by decide +kernel, rfl, by decide +kernel, by decide +kernel, by decide +kernel⟩
  have h0 : (liveLeaves sScan 0 (entryRaw sScan 0 4)) = [(0, 0, 0x102000)] := by decide +kernel
  have hp : ∀ p ∈ [1, 2, 3, 4, 5, 6, 7], (fb sScan F.SEAM_CTL_EN p && fb sScan F.SEAM_TIER_CTL2_EN p && !partFenced sScan p) = false := by decide +kernel
  have h1 : (fb sScan F.SEAM_CTL_EN 0 && fb sScan F.SEAM_TIER_CTL2_EN 0 && !partFenced sScan 0) = true := by decide +kernel
  have hr : List.range 8 = [0, 1, 2, 3, 4, 5, 6, 7] := by decide
  unfold scanList
  rw [hr]
  simp only [List.flatMap_cons, List.flatMap_nil, h1, hp 1 (by simp), hp 2 (by simp), hp 3 (by simp), hp 4 (by simp), hp 5 (by simp), hp 6 (by simp), hp 7 (by simp), sScan_streams]
  simp [h0]


/-- Stream 4 with a state and a contrail state, without commands. -/
def sEnt (st cst : Nat) : State := sSeam (ent st cst 1 0) []

/-- A trail of stream 4 with a step. -/
def tr (step : Nat) (later : List (Nat × List Byte) := []) : Trail := { part := 0, sid := 4, id := 2, step := step, gseq := none, sync := false, born := 0, later := later, acked := false }

/-- The engine with a lease of 4,096 frames of its own module at 0x4000000, whose header and mirror entry of stream 4 are there, and OVERRIDE 1. -/
def sLease : State :=
  let s := fs (fs (fs (fs sEng F.PORT_DEVID_VALID 1) F.PORT_DEVID_ID 1) F.SEAM_REMOTE_CFG_EN 1) F.SEAM_REMOTE_CFG_FRAMES 4096
  let s := wr (wr s .seamRemoteBase 0x4000100004000000) .seamContrailCtl 0x8000000000000000
  { s with mem := memPut (memPut (memPut [] 0x4000000 (bytesOfWords [BitVec.ofNat 64 (2 ^ 62 + 2 ^ 44 + 2 ^ 26), 0, 4096, 0, 0, 0, 0, 0])) 0x4010200 (bytesOfWords (ent 1 2 0 0))) ledger4 (bytesOfWords (ent 4 0 0 0)),
           seam := { Seam.reset with checks := [0] }, tge := sc.tge, tasks := sc.tasks, tiles := sc.tiles, cores := sc.cores }

/-- A RESTORE or RESYNC of stream 4 in progress. -/
def job (restore : Bool) : SeamJob := { part := 0, sid := 4, cmd := ctl 5, restore := restore, trail := 0, lapse := 0 }

/-- A move of seam 0 of stream 4 to T2. -/
def mv : Move := { part := 0, sid := 4, leaf := 0, src := 1, dst := 2, frame := 0x10000010000, sent := false, bad := false }

theorem test_hyp_SeamWorkGoesOn_registers :
    (mayAct sEng .pf 7 = true ∧ 7 < 8 ∧ getBits (0x0F : Word) 15 0 < 2 ^ fg (fs sEng F.SEAM_HQ_CTL_SIZE_LOG2 4 7) F.SEAM_HQ_CTL_SIZE_LOG2 7 ∧ getBits (3 : Word) 4 0 < 4 ∧ 16 < getBits (17 : Word) 4 0 ∧ 4 ≤ getBits (16 : Word) 4 0 ∧ confidential sEng 7 = false ∧
      getBits (0x8000000000000000 : Word) 63 63 = 1 ∧ fg sEng F.SEAM_CTL_EN 7 = 0 ∧ poolsBad (fs State.reset F.SEAM_POOL_SKETCH_SLOT 5) 0 = true ∧ poolsBad State.reset 0 = false ∧ fg State.reset F.SEAM_CTL_EN 0 = 0 ∧ fg sEng F.SEAM_CTL_EN 0 = 1 ∧ sEng.flips = [] ∧ fg sEng F.SEAM_CONTRAIL_CTL_POOL 0 ≠ 3) ∧ isPriv sEng .pf = true := by
  decide +kernel
theorem test_hyp_SeamWorkGoesOn_ring :
    (let ws : List Word := BitVec.ofNat 64 (2 * 2 ^ 56 + 4) :: List.replicate 7 0
     let s := { fs (fs (fs sEng F.SEAM_HQ_CTL_EN 1) F.SEAM_HQ_CTL_SIZE_LOG2 4) F.SEAM_HQ_TAIL_TAIL 1 with mem := memPut [] 0 (bytesOfWords ws) }
     let r := engineRead s 0 (hqEntry s 0 0) 64
     fg s F.SEAM_HQ_CTL_EN = 1 ∧ partFenced s 0 = false ∧ awake s = true ∧ fg s F.SEAM_HQ_HEAD_HEAD ≠ fg s F.SEAM_HQ_TAIL_TAIL ∧ r.1 = .data (bytesOfWords ws) ∧ fg r.2 F.SEAM_CTL_EN = 1 ∧ fg r.2 F.SEAM_HQ_CTL_SIZE_LOG2 ≤ 16 ∧
     controlHostFormat (wordsOf 8 (bytesOfWords ws)) = true) := by decide +kernel
theorem test_hyp_SeamWorkGoesOn_leases :
    (let s := { sEng with seam := { Seam.reset with headers := [(0, 3)] } }
     (0, 3) ∈ s.seam.headers ∧ s.flips = [] ∧ localKey? s 0 (fg s F.SEAM_LEASE_BASE_BASE 0 3 * 65536) = some 0) ∧
    (0 ∈ sLease.seam.checks ∧ fg sLease F.SEAM_CONTRAIL_CTL_RESULT ≠ 1 ∧ remoteOn sLease 0 (trailPool sLease 0) = true ∧ (let s := { sEng with seam := { Seam.reset with checks := [0] } }
      remoteOn s 0 (trailPool s 0) = false)) ∧
    (let s := { sLease with seam := { sLease.seam with checks := [] } }
     match (frameRead s 0 (leaseGa s 0) 64 id).1 with
     | .data bs => db (wordsOf 8 bs) 0 63 62 = 1 ∧ some (db (wordsOf 8 bs) 0 43 26) = devId s 0 ∧ ¬ db (wordsOf 8 bs) 2 31 0 < 1 + mirrorM s 0 + ceilDiv (db (wordsOf 8 bs) 2 31 0) 524288 + 16
     | _ => False) := by
  refine ⟨by decide +kernel, by decide +kernel, ?_⟩
  show (match (frameRead { sLease with seam := { sLease.seam with checks := [] } } 0 (leaseGa sLease 0) 64 id).1 with | .data _ => _ | _ => False)
  have h : (frameRead { sLease with seam := { sLease.seam with checks := [] } } 0 (leaseGa sLease 0) 64 id).1 = .data (bytesOfWords [BitVec.ofNat 64 (2 ^ 62 + 2 ^ 44 + 2 ^ 26), 0, 4096, 0, 0, 0, 0, 0]) := by decide +kernel
  rw [h]; decide +kernel
theorem test_hyp_SeamWorkGoesOn_streams :
    (let s := sEnt 3 0
     localKey? s 0 (entryAddr s 0 4) = some ledger4 ∧ fg s F.SEAM_CTL_EN = 1 ∧ 4 < streamCount s 0 ∧ eState (entryRaw s 0 4) = 3 ∧ eCmode (entryRaw s 0 4) = 0 ∧ s.seam.orphans = [] ∧ s.seam.late = [] ∧ s.seam.trails = [] ∧ s.flips = [] ∧ Memory.wf s.mem = true) ∧
    (let s := { sEnt 1 3 with seam := { Seam.reset with jobs := [job false] } }
     job false ∈ s.seam.jobs ∧ issuer s (job false).cmd = some (0, tk, ci) ∧ s.seam.jobs.find? (fun x => x.part == 0 && x.sid == 4 && !x.restore) = some (job false) ∧ (job false).lapse = 0 ∧ s.seam.trails = [] ∧ s.flips = [] ∧ Memory.wf s.mem = true) ∧
    (let s := { sLease with seam := { Seam.reset with jobs := [job true] } }
     job true ∈ s.seam.jobs ∧ issuer s (job true).cmd = some (0, tk, ci) ∧ s.seam.jobs.find? (fun x => x.part == 0 && x.sid == 4 && x.restore) = some (job true) ∧ leaseFrames s 0 ≠ 0 ∧
     localKey? s 0 (entryAddr s 0 4) = some ledger4 ∧ s.flips = [] ∧ Memory.wf s.mem = true ∧
     (match readMirror s 0 4 (cmdCtx s (ctl 5)) with
      | (.ok m, s1) => eState m.entry == 1 && (restoreInto s1 0 4 (entryRaw s 0 4) m false false).isSome
      | _ => false) = true) := by decide +kernel
theorem test_hyp_SeamWorkGoesOn_moves :
    (let s := { sSeam (ent 1 0 1 0x100000) [] (mapMem []) with seam := { Seam.reset with moves := [mv] } }
     move? s 0 4 0 = some mv ∧ s.flips = [] ∧ leafAddr s 0 (entryRaw s 0 4) (0 / 65536) (0 % 65536) = some 0x102000 ∧ mv.bad = false ∧ mv.sent = false ∧ mv.dst ≠ 3 ∧
     (match (frameRead s 0 (lfFrame (mapRaw s 0 0x102000).1) (eF (entryRaw s 0 4)) id).1 with | .data _ => true | _ => false) = true ∧ getBits (BitVec.ofNat 64 mv.frame) 63 62 = 0) := by decide +kernel
theorem test_hyp_SeamWorkGoesOn_contrail :
    (let s := { sEnt 1 3 with seam := { Seam.reset with trails := [tr 1] } }
     trail? s 2 = some (tr 1) ∧ (tr 1).part = 0 ∧ (tr 1).acked = false ∧ localKey? s 0 (entryAddr s 0 4) = some ledger4 ∧ (tr 1).step ≠ 0 ∧ trailBusy s (tr 1) = false ∧ (tr 1).later = [] ∧ eCstate (entryRaw s 0 4) = 3 ∧ s.flips = [] ∧
     (tr 1 [(0, [])]).later ≠ []) := by decide +kernel
/-- R182: a CLOSING stream becomes FREE; R206, R210: a failed append lapses its stream. -/
theorem test_stream_end : gives (.streamFreeComplete 0 4) (sEnt 3 0) (fun u => eState (entryRaw u 0 4) == 0) = true ∧
    gives (.contrailAck 0 2 false) { sEnt 1 3 with seam := { Seam.reset with trails := [tr 1] } } (fun u => fg u F.SEAM_CONTRAIL_STATUS_LAPSED == 1 && u.recs.map (fun r => (r.cls, r.cause)) == [(11, 2)]) = true := by decide +kernel
/-- R202: the check passes with OVERRIDE. -/
theorem test_partner : gives (.partnerCheckComplete 0 ⟨true, []⟩) sLease (fun u => fg u F.SEAM_CONTRAIL_CTL_RESULT == 1) = true := by decide +kernel

/-! ### Result integrity and the logs -/

/-- The block of a shadow run whose descriptor is at 0x8000 and whose four ranges are empty. -/
def blk : List Word := [0x4000000000000000, 0x8000] ++ List.replicate 30 0

/-- The state whose address of partition 0's block is 0x9000. -/
def sShadow (b : List Word) : State := { wr sMem .guardShadowAddr 0x9000 with mem := put (put [] 0x8000 (bytesOfWords desc1)) 0x9000 (bytesOfWords b) }

/-- A shadow run's task of copies of one tile each: tile 0 and tile 1. -/
def tkS : Task := { tk with shadow := 1 }

/-- A record of the module without a partition. -/
def rec0 (cls : Nat) : Rec := { cls := cls, cause := 1, part := none, epoch := 0, action := 0, stream := none, task := none, tile := none, time := 0, pc := 0, unit := 1, unitIx := 0, aux := 0, aux2 := 0, graph := none }

theorem test_hyp_IntegrityAndLogsWork_shadow :
    (isPriv (sShadow blk) .pf = true ∧ 0 < 8 ∧ getBits (1 : Word) 0 0 = 1 ∧ SMap.find (sShadow blk).shadows 0 = none ∧ partFenced (sShadow blk) 0 = false ∧ SMap.wf (sShadow blk).shadows = true ∧ (sShadow blk).flips = []) ∧
    SMap.find { sMem with shadows := [(0, { gseq := none, block := [], ended := none })] }.shadows 0 ≠ none ∧
    (let s0 := fun b => fs { sShadow b with shadows := [(0, { gseq := none, block := [], ended := none })] } F.GUARD_SHADOW_STATUS_STATE 1 0
     let r := fun b => engineRead (s0 b) 0 0x9000 256
     let s2 := fun b => { (r b).2 with shadows := [(0, { gseq := none, block := b, ended := none })] }
     let q := engineRead (s2 blk) 0 0x8000 128
     let n := { Node.fresh desc1 with twice := true, age := mer q.2 }
     (r blk).1 = .data (bytesOfWords blk) ∧ blockOk (s2 blk) 0 blk = true ∧ blockOk (s2 (List.replicate 32 0)) 0 (List.replicate 32 0) = false ∧ q.1 = .data (bytesOfWords desc1) ∧ confOn q.2 0 = false ∧ shadowDescOk desc1 = true ∧
     unsatisfiable q.2 0 n = false ∧ tooLong q.2 n = false) ∧
    (let x : ShadowRun := { gseq := some 0, block := blk, ended := none }
     let s := { sc with tasks := [(0, tkS)], shadows := [(0, x)] }
     s.tasks.find? (fun (_, t) => t.part == 0 && t.shadow != 0 && t.started && isPair t 0 1) = some (0, tkS) ∧ task? s 0 = some tkS ∧ SMap.find s.shadows 0 = some x) ∧
    (let x : ShadowRun := { gseq := some 0, block := blk, ended := none }
     let s := { sGraph (g1In .done none) with shadows := [(0, x)] }
     SMap.wf s.shadows = true ∧ SMap.find s.shadows 0 = some x ∧ has (node? s 0 0) (fun n => n.state == .done) = true ∧ s.flips = [] ∧
     ((List.range 4).foldl (fun (acc : List (Option RangeDiff) × State) r => (acc.1 ++ [(compareRange acc.2 0 blk r).1], (compareRange acc.2 0 blk r).2)) ([], s)).1 = (List.replicate 4 RangeDiff.none).map some) := by
  decide +kernel
theorem test_hyp_IntegrityAndLogsWork_patrol :
    fg (fs State.reset F.GUARD_PROSPECT_CTL_EN 1) F.GUARD_PROSPECT_CTL_EN = 1 ∧ (patrol State.reset 3).due = none ∧ (patrol { State.reset with patrols := [(3, { Patrol.fresh with test := some (1151, 0) })] } 3).test = some (1151, 0) ∧
    isPriv State.reset .pf = true ∧ getBits (1151 : Word) 10 0 < 1152 ∧ (patrol State.reset (tileDie 1151)).noms.length < 4 ∧ 1152 ≤ getBits (1152 : Word) 10 0 ∧
    4 ≤ (patrol { State.reset with patrols := [(3, { Patrol.fresh with noms := List.replicate 4 (1151, 0) })] } 3).noms.length ∧ fg State.reset F.GUARD_PROSPECT_CTL_LOCK ≠ 1 ∧ fg (fs State.reset F.GUARD_PROSPECT_CTL_EN 0) F.GUARD_PROSPECT_CTL_EN = 0 ∧ getBits (0x10000 : Word) 16 16 = 1 := by
  decide +kernel
theorem test_hyp_IntegrityAndLogsWork_logs :
    (let s := { State.reset with recs := [rec0 0x14] }
     s.recs = rec0 0x14 :: [] ∧ inDeviceReset s = false ∧ (rec0 0x14).part = none ∧ (rec0 0x14).cls < 0x15 ∧ fg s F.GUARD_LOG_CTL_EN = 0 ∧ (logOf s 0).queue.length < 256 ∧ (rec0 4).cls ≠ 0x14) ∧
    (let s := { wr (fs (fs sHost F.GUARD_LOG_CTL_EN 1) F.GUARD_LOG_CTL_SIZE_LOG2 4) .guardLogBase 0x8000000000000000 with recs := [rec0 4] }
     fg s F.GUARD_LOG_CTL_EN = 1 ∧ (logOf s 0).queue = [] ∧ logFull s 0 = false ∧ s.flips = [] ∧ fg s F.GUARD_LOG_CTL_SIZE_LOG2 ≤ 16 ∧ getBits (rd s .guardLogBase) 63 62 = 2 ∧ (rd s .guardLogBase).toNat % 64 = 0 ∧ hostUp s = true ∧ mayMaster s 0 = true ∧
     (rd s .guardLogBase).toNat + 64 * 2 ^ 16 < 3 * 2 ^ 62 ∧ droppable (rec0 4) = false ∧ (logOf { s with logs := [(0, ⟨[(0, rec0 4)], 1⟩)] } 0).queue ≠ []) ∧
    (mayLog State.reset .pf 8 = true ∧ (logOf State.reset 8).queue = [] ∧ mayLog State.reset .pf 0 = true) := by decide +kernel
/-- R347: the run's task is of twice the width; R352: a run without ranges MATCHes. -/
theorem test_shadow : gives (.shadowGo .pf 0 1) (sShadow blk) (fun u => u.tge.graphs.map (fun g => (g.shadow, g.nodes.map Node.cols)) == [(true, [4])]) = true ∧
    gives (.shadowCompareComplete 0) { sGraph (g1In .done none) with shadows := [(0, { gseq := some 0, block := blk, ended := none })] } (fun u => fg u F.GUARD_SHADOW_STATUS_STATE == 4 && fg u F.GUARD_SHADOW_STATUS_RESULT == 0) = true := by
  decide +kernel
/-- R366: the record goes to the ring with SEQ 0, and INDEX moves on; with EN 0 it is dropped. -/
theorem test_log : gives .errorRecordWrite { wr (fs (fs sHost F.GUARD_LOG_CTL_EN 1) F.GUARD_LOG_CTL_SIZE_LOG2 4) .guardLogBase 0x8000000000000000 with recs := [rec0 4] } (fun u => fg u F.GUARD_LOG_STATUS_INDEX == 1 && u.recs.isEmpty) = true ∧
    gives .errorRecordWrite { State.reset with recs := [rec0 4] } (fun u => fg u F.GUARD_LOG_STATUS_DROPPED == 1) = true := by decide +kernel


/-! ### Containment and rejoin -/

/-- A state whose boot record, power request, or other module state is set. -/
def onOm (f : Overman → Overman) (s : State := State.reset) : State := { s with om := f s.om }

/-- A fast path or a cold boot at a phase, with or without AUTO_PC. -/
def boot (cold : Bool) (next : Nat) (auto : Bool := false) : Boot := { cold := cold, controlled := false, cause := 2, start := 7, next := next, degraded := false, autoPc := auto }

/-- A module that boots. -/
def sBoot (b : Boot) : State := onOm fun o => { o with boot := some b }

/-- A module whose partition 0 is at a phase of its reset. -/
def sPart (phase : Nat) : State := { State.reset with parts := [(0, { Part.fresh with phase := phase })] }

/-- The plan of a rejoin: width 5, no weights and no streams, at most 1 stream failed. -/
def plan : List Word := [BitVec.ofNat 64 (5 * 2 ^ 60 + 5 * 2 ^ 40), 0, 0, 0, 1, 0, 0, 0]

/-- A rejoin with its plan read. -/
def rj : Rejoin := { Rejoin.fresh true with plan := some plan }

/-- Partition 0 of device ID 1 at a stage of its rejoin. -/
def sRj (st : Nat) (r : Rejoin := rj) : State := onOm (fun o => { o with rejoins := [(0, r)] }) (fs (fs (fs State.reset F.PORT_DEVID_VALID 1) F.PORT_DEVID_ID 1) F.GUARD_REJOIN_STATUS_STAGE st)

theorem test_hyp_ContainmentAndRejoinWork_engines :
    (inDeviceReset State.reset = false ∧ enginePresent State.reset 7 31 = true ∧ engineFenced State.reset 7 31 = false ∧ inDeviceReset State.reset = false ∧
      engineFenced { State.reset with fenced := [(2, 3, 1)] } 2 3 = true ∧ (2 : Nat) ≠ 7 ∧ portState (fs State.reset F.PORT_LINK_STATUS_STATE 7 31) 31 = lRetrain) ∧
    (let s0 := settle State.reset State.reset.clk.cyc
     halted s0 = false ∧ s0.d3hot.contains 0 = false ∧ resetRefused s0 0 0 0 0 = true ∧ resetRefused s0 2 1 1151 0 = false ∧ resetRefused s0 3 0 0 0 = false ∧ resetRefused s0 4 0 0 0 = false ∧ resetRefused s0 5 0 0 0 = false) ∧
    (let s := sGraph (g1In .resetting (some 0))
     let s := { s with tasks := [(0, tk)] }
     task? s 0 = some tk ∧ (node? s tk.gseq tk.node).map (fun n => n.state) = some .resetting) ∧
    (let s := { State.reset with fenced := [(1, 1151, 1), (7, 31, 1), (2, 3, 1)] }
     engineFenced s 1 1151 = true ∧ engineFenced s 7 31 = true ∧ (link s 31).held = [] ∧ (link s 31).txq = [] ∧ (link s 31).ctl = [] ∧ engineFenced s 2 3 = true) ∧
    (part (sPart 2) 0).phase ≠ 0 ∧ (sBoot (boot false 1)).om.boot = some (boot false 1) ∧ (boot false 1).autoPc = false ∧ (sBoot (boot false 1 true)).om.boot = some (boot false 1 true) ∧ (boot false 1 true).autoPc = true := by
  decide +kernel
theorem test_hyp_ContainmentAndRejoinWork_resets :
    ((part (sPart 1) 0).phase = 1 ∧ (part (sPart 2) 0).phase = 2 ∧ (part (sPart 3) 0).phase = 3 ∧ SMap.wf (sPart 3).regs = true ∧ fg (fs (sPart 3) F.GUARD_REJOIN_CTL_MODE 1) F.GUARD_REJOIN_CTL_MODE 0 = 1) ∧
    (isPriv State.reset .pf = true ∧ bitOf (0x81 : Word) 7 = true ∧ bitOf (rd (wr State.reset .guardResetStatus 0x80) .guardResetStatus) 7 = true ∧ (part (wr State.reset .guardResetStatus 0x80) 7).phase = 0) ∧
    (let s := fun n => sBoot (boot false n)
     (s 2).om.boot = some (boot false 2) ∧ phaseDone (s 2) (boot false 2) = true ∧ phaseDone (s 4) (boot false 4) = true ∧ phaseDone (s 1) (boot false 1) = true ∧ (s 4).mcasts = []) ∧
    (overmanRuns State.reset = true ∧ State.reset.om.switching = false ∧ overmanRuns (onOm fun o => { o with switching := true }) = true ∧ State.reset.ke.staged.contains 2 = false ∧ cycling State.reset = false ∧ State.reset.om.boot = none ∧
      fg State.reset F.GUARD_OVERMAN_STANDBY = 1 ∧ (patrol { State.reset with patrols := [(3, { Patrol.fresh with test := some (1151, 0) })] } 3).test = some (1151, 0) ∧ overmanRuns (fs State.reset F.GUARD_OVERMAN_STANDBY 0) = true ∧
      fg (fs State.reset F.GUARD_OVERMAN_STANDBY 0) F.GUARD_OVERMAN_STANDBY ≠ 1 ∧ overmanRuns (sBoot (boot true 5)) = true ∧ cycling (sBoot (boot true 5)) = false ∧ getBits (0x2000000000000000 : Word) 61 61 = 1) := by
  decide +kernel
theorem test_hyp_ContainmentAndRejoinWork_rejoin :
    (isPriv State.reset .pf = true ∧ SMap.wf (sRj 1).om.rejoins = true ∧ getBits (0x8000000000000000 : Word) 63 63 = 1 ∧ getBits (0x8000000000000000 : Word) 62 62 = 0 ∧ getBits (0xC000000000000000 : Word) 62 62 = 1 ∧
      getBits (0xA000000000000000 : Word) 61 61 = 1 ∧ SMap.find State.reset.om.rejoins 7 = none ∧ fg State.reset F.GUARD_REJOIN_STATUS_STAGE 7 = 0 ∧ devId State.reset 7 = none ∧ devId (sRj 0) 0 ≠ none ∧
      (part (sRj 0) 0).phase = 0 ∧ fg (sRj 0) F.GUARD_REJOIN_STATUS_STAGE 0 = 0 ∧ testsValid (sRj 0) 0 = false ∧ SMap.find (sRj 1).om.rejoins 0 = some rj ∧ rj.streams = none ∧ rj.trim = []) ∧
    (rj.plan = some plan ∧ fg (sRj 1) F.GUARD_REJOIN_STATUS_STAGE 0 = 1 ∧ db plan 0 44 40 ≤ usableWidth (sRj 1) 0 3 ∧ db plan 0 31 0 = 0 ∧ rj.entries = none ∧ planOk plan = true ∧
      (∀ d, d < 4 → usableWidth { sRj 1 with regs := (wr (sRj 1) .glbSectionActive 0xFFFFFFFF).regs } 0 d < db plan 0 44 40)) ∧
    (let r := { rj with entries := some [] }
     let s := sRj 2 r
     SMap.find s.om.rejoins 0 = some r ∧ fg s F.GUARD_REJOIN_STATUS_STAGE 0 = 2 ∧ r.entries = some [] ∧ r.todo = [] ∧ r.bad = false ∧ s.xp.ops = []) ∧
    (fg (sRj 3) F.GUARD_REJOIN_STATUS_STAGE 0 = 3 ∧ db plan 2 31 0 = 0 ∧ fg (sRj 3) F.SEAM_CONTRAIL_CTL_RESULT 0 ≠ 1 ∧ fg (sRj 3) F.GUARD_REJOIN_COUNT_FAILED 0 ≤ db plan 4 31 0 ∧
      db plan 4 31 0 < fg (fs (sRj 3) F.GUARD_REJOIN_COUNT_FAILED 2) F.GUARD_REJOIN_COUNT_FAILED 0 ∧ fg (fs (sRj 3) F.SEAM_CONTRAIL_CTL_RESULT 1) F.SEAM_CONTRAIL_CTL_RESULT 0 = 1) := by
  decide +kernel
/-- R367, Table 15.1: the watchdog of a port fences it; R371: a partition reset ends with a new epoch. -/
theorem test_resets : gives (.engineWatchdog 7 31) State.reset (fun u => engineFenced u 7 31 && u.recs.map (fun r => (r.cls, r.cause, r.unit, r.unitIx)) == [(0x12, 1, 7, 31)]) = true ∧
    gives (.partitionResetComplete 0) (sPart 3) (fun u => partEpoch u 0 == 1 && (part u 0).phase == 0) = true := by decide +kernel
/-- R379: the standby takes over after 10 ms without a beat. R382: GO without a device ID is refused. -/
theorem test_overman_and_rejoin : gives .overmanFailover State.reset (fun u => fg u F.GUARD_OVERMAN_ACTIVE_DIE2 == 1 && fg u F.GUARD_OVERMAN_STANDBY == 0) = true ∧
    gives (.rejoinGo .pf 0 0xC000000000000000) State.reset (fun u => fg u F.GUARD_REJOIN_CTL_REFUSED 0 == 1) = true := by decide +kernel

/-! ### Security -/

/-- A module whose key engine is set. -/
def onKe (f : KeyEngine → KeyEngine) (s : State := sHost) : State := { s with ke := f s.ke }

/-- Partition 0 is confidential, its slot 63 in a state with a tenant or a module peer. -/
def sConf (st tenant : Nat) : State := fs (fs (fs (fs sHost F.SEC_PART_CTL_CONF 1) F.SEC_PART_CTL_STATE 2) F.SEC_SLOT_STATE st 0 63) F.SEC_SLOT_TENANT tenant 0 63

/-- A write to SEC_SESS_CTL: GO, an OP and slot 63. -/
def sess (op : Nat) : Word := BitVec.ofNat 64 (2 ^ 63 + op * 2 ^ 61 + 63 * 2 ^ 54)

/-- A write to SEC_SEAL_CTL: GO, a direction, slot 63, and units. -/
def sealV (ex units : Nat) : Word := BitVec.ofNat 64 (2 ^ 63 + ex * 2 ^ 62 + 63 * 2 ^ 56 + units)

/-- A header of one unit for address 0x1000 with counter 5, at 2^63 in host memory. -/
def sSealed : State := { onKe (fun e => { e with seals := [(0, (sealV 0 1, 0x8000000000000000, 0x1000))] }) (sConf 2 1) with mem := memPut [] (keyHost 0) (bytesOfWords [1, 0x1000, 5]) }

theorem test_hyp_SecurityCommandsWork_goes :
    isPriv State.reset .pf = true ∧ getBits (0xF : Word) 3 0 ≠ 0 ∧ getBits (0x8000000500000140 : Word) 63 63 = 1 ∧ getBits (0x8000000500000140 : Word) 34 32 = 5 ∧ getBits (0x8000000500000140 : Word) 31 0 = 320 ∧ 320 ≤ copyBytes 5 ∧
    State.reset.ke.staging = none ∧ getBits (0x80000005000000FF : Word) 31 0 < 256 ∧ (onKe fun e => { e with staging := some (1, 256, 0) }).ke.staging ≠ none ∧ State.reset.ke.attest = none ∧
    (onKe fun e => { e with attest := some (0, 0) }).ke.attest ≠ none := by decide +kernel
/-- Whether an image that is not malformed passes depends on a signature, which nothing computes: the state of the last line meets the rest of both clauses. -/
theorem test_hyp_SecurityCommandsWork_staging :
    (let s := onKe fun e => { e with staging := some (1, 256, 0x4000000000000000) }
     s.ke.staging = some (1, 256, 0x4000000000000000) ∧ (match (pfRead s 0x4000000000000000 256).1 with | .refused _ _ => true | _ => false) = true) ∧
    (let s := onKe fun e => { e with staging := some (5, 320, 0x8000000000000000) }
     (pfRead s 0x8000000000000000 320).1 = .data (List.replicate 320 0) ∧ getBits (wordAt (List.replicate 320 0) 0) 63 32 ≠ 0x4E525846) ∧
    (let b : List Byte := bytesOfWords ([0x4E52584650000000, 64] ++ List.replicate 38 0)
     let s := { onKe (fun e => { e with staging := some (5, 320, 0x8000000000000000) }) with mem := memPut [] (keyHost 0) b }
     (pfRead s 0x8000000000000000 320).1 = .data b ∧ ¬ (getBits (wordAt b 0) 63 32 ≠ 0x4E525846 ∨ getBits (wordAt b 0) 31 28 ≠ 5 ∨ getBits (wordAt b 1) 31 0 + 256 ≠ 320) ∧ allZero (b.drop 289) = true ∧ (nth b 288 0).toNat ≤ 1) := by decide +kernel
theorem test_hyp_SecurityCommandsWork_report :
    (let s := onKe fun e => { e with attest := some (7, 0x8000000000000000) }
     s.ke.attest = some (7, 0x8000000000000000) ∧ partExists s 7 = false ∧ partExists s 0 = true ∧ fg s F.PSTORE_REC_DEFAULTED 0 = 0) ∧ HostBuf sHost 0 0x8000000000000000 := by
  refine ⟨by decide +kernel, ?_⟩; unfold HostBuf; decide +kernel
theorem test_hyp_SecurityCommandsWork_conf :
    (let s := wr (wr State.reset .guardResetStatus 1) .secTenantKey 5 0 3
     isPriv s .pf = true ∧ fg s F.SEC_PART_CTL_CONF 0 = 0 ∧ getBits (0x8000000000000000 : Word) 63 63 = 1 ∧ partHeld s 0 = true ∧ fg s F.SEAM_CTL_EN 0 ≠ 1 ∧ confChanging s 0 = false ∧ allZero (tenantKey s 0) = false ∧
     SMap.find s.ke.shakes 0 = none ∧ partHeld State.reset 0 = false) ∧
    (let s := fun st => fs State.reset F.SEC_PART_CTL_STATE st 7
     confChanging (s 1) 7 = true ∧ SMap.wf (s 1).regs = true ∧ SMap.wf (s 1).ke.memKeys = true ∧ fg (s 1) F.SEC_PART_CTL_STATE 7 = 1 ∧ confChanging (s 3) 7 = true ∧ fg (s 3) F.SEC_PART_CTL_STATE 7 = 3) := by decide +kernel
theorem test_hyp_SecurityCommandsWork_sessions :
    (isPriv sHost .pf = true ∧ SMap.find sHost.ke.shakes 0 = none ∧ SMap.wf sHost.ke.shakes = true ∧ SMap.wf (sConf 2 1).regs = true ∧ SMap.wf sHost.ke.sess = true ∧
     getBits (sess 0) 63 63 = 1 ∧ getBits (sess 0) 62 61 = 0 ∧ confOn sHost 0 = false ∧ getBits (sess 1) 62 61 = 1 ∧ getBits (sess 1) 59 54 = 63 ∧ confOn (sConf 0 0) 0 = true ∧ fg (sConf 0 0) F.SEC_SLOT_STATE 0 63 = 0 ∧
     getBits (sess 2) 62 61 = 2 ∧ fg (sConf 1 0) F.SEC_SLOT_STATE 0 63 = 1 ∧ getBits (sess 3) 62 61 = 3 ∧ fg (sConf 2 0) F.SEC_SLOT_STATE 0 63 ≠ 0) ∧
    (let s := wr (sConf 0 0) .secSessAddr 0x8000000000000000
     getBits (rd s .secSessAddr 0) 63 62 = 2 ∧ (rd s .secSessAddr 0).toNat % 64 = 0 ∧ (rd s .secSessAddr 0).toNat + 2 ^ 25 < 3 * 2 ^ 62 ∧ mayMaster s 0 = true ∧ hostUp s = true ∧ s.flips = [] ∧ Memory.wf s.mem = true) ∧
    (let s := fs (sConf 3 1) F.SEC_SLOT_STATE 2 0 5
     let t := fs s F.SEC_SLOT_TENANT 1 0 5
     fg t F.SEC_SLOT_STATE 0 63 = 3 ∧ fg t F.SEC_SLOT_STATE 0 5 = 2 ∧ fg t F.SEC_SLOT_TENANT 0 5 = fg t F.SEC_SLOT_TENANT 0 63 ∧ fg t F.SEC_SLOT_PEER_ID 0 5 = fg t F.SEC_SLOT_PEER_ID 0 63 ∧
     ∀ i, i < 5 → fg t F.SEC_SLOT_STATE 0 i ≠ 2) ∧
    (2 ^ 48 ≤ (session (onKe fun e => { e with sess := [(63, { Session.fresh with tx := 2 ^ 48 })] }) 0 63).tx ∧ ¬ 2 ^ 48 ≤ (session sHost 0 63).tx) := by decide +kernel
/-- Whether a tag is genuine depends on AES-GCM, which nothing computes: the last line meets the rest of both clauses. -/
theorem test_hyp_SecurityCommandsWork_seals :
    (getBits (sealV 1 1) 63 63 = 1 ∧ SMap.find sSealed.ke.seals 0 ≠ none ∧ SMap.find sHost.ke.seals 0 = none ∧ getBits (sealV 1 1) 62 62 = 1 ∧ getBits (sealV 0 1) 62 62 = 0 ∧ getBits (sealV 0 1) 61 56 = 63 ∧ getBits (sealV 0 0) 18 0 = 0) ∧
    (let s := sSealed
     SMap.find s.ke.seals 0 = some (sealV 0 1, 0x8000000000000000, 0x1000) ∧ confOn s 0 = true ∧ fg s F.SEC_SLOT_TENANT 0 63 = 1 ∧ fg s F.SEC_SLOT_STATE 0 63 = 2 ∧ inTier1 s 0 0x1000 64 = true ∧ inTier1 s 0 0x1000 (64 * 262144) = true ∧ confOn sHost 0 = false ∧
     (sealRead { s with ke := { s.ke with seals := SMap.erase s.ke.seals 0 } } 0 0x1000 64).1 = some (List.replicate 64 0)) ∧
    (let bs := memBytes sSealed.mem (hostAt 0x8000000000000000) 192
     let w := wordAt (slice bs 0 64)
     w 1 = 0x1000 ∧ getBits (w 0) 18 0 = 1 ∧ (session sSealed 0 63).imported ≤ (w 2).toNat ∧ (w 2).toNat < (session (onKe (fun e => { e with sess := [(63, { Session.fresh with imported := 6 })] }) sSealed) 0 63).imported ∧
     (writeGlobal { sSealed with ke := { sSealed.ke with seals := SMap.erase sSealed.ke.seals 0 } } (.engine 0) 0 0x1000 (List.replicate 64 0)).1.1 = 0) ∧ HostBuf sSealed (ownerFn sSealed 0) 0x8000000000000000 := by
  refine ⟨by decide +kernel, by decide +kernel, by decide +kernel, ?_⟩; unfold HostBuf; decide +kernel
/-- R394: COMMIT raises the floor of type 3 alone to its running SVN. R395, Table 16.11: a second GO shows BUSY_ERR, and type 0 ends with 8. -/
theorem test_firmware : gives (.fwCommit .pf 4) (fs State.reset (svnFld 3) 9) (fun u => fg u (floorFld 3) == 9 && fg u (floorFld 2) == 0) = true ∧
    gives (.stageGo .pf 0x8000000100000100) (onKe fun e => { e with staging := some (1, 256, 0) }) (fun u => fg u F.SEC_STAGE_STATUS_BUSY_ERR == 1) = true ∧
    gives (.stageGo .pf 0x8000000000000100) State.reset (fun u => fg u F.SEC_STAGE_STATUS_RESULT == 8) = true := by decide +kernel
/-- R398: CONF of a partition that is not held shows CFG_ERR. R404: CLOSE frees the slot. -/
theorem test_conf : gives (.confWrite .pf 0 0x8000000000000000) State.reset (fun u => fg u F.SEC_PART_CTL_CFG_ERR == 1 && fg u F.SEC_PART_CTL_CONF == 0) = true ∧
    gives (.sessClose .pf 0 (sess 3)) (sConf 2 0) (fun u => fg u F.SEC_SLOT_STATE 0 63 == 0 && fg u F.SEC_SESS_STATUS_RESULT == 2) = true := by decide +kernel

/-! ### Bring-up, clocks, power and management -/

theorem test_hyp_BringUpPowerAndManagementWork_boot :
    ((onOm fun o => { o with powered := false }).om.powered = false ∧ (sBoot (boot true 1)).om.boot = some (boot true 1) ∧ (boot true 1).cold = true ∧ (sBoot (boot true 1)).om.railMiss = 0 ∧
      (onOm (fun o => { o with railMiss := 1 }) (sBoot (boot true 1))).om.railMiss ≠ 0 ∧ phaseDone (sBoot (boot true 1)) (boot true 1) = true ∧ phaseDone (sBoot (boot true 6)) (boot true 6) = true ∧
      phaseDone (sBoot (boot true 11)) (boot true 11) = true ∧ (boot true 11).degraded = false ∧ (sBoot (boot true 11)).mcasts = [] ∧ fg (sBoot (boot true 11)) F.CLK_REF_STATUS_FABRIC_LOST ≠ 1 ∧
      SMap.find (onOm (fun o => { o with dies := [] }) (sBoot (boot true 7))).om.dies 3 = none) ∧
    (State.reset.om.powered = true ∧ halted State.reset = false ∧ 8 ∈ (onOm fun o => { o with pend := [8, 1] }).om.pend ∧ halted (fs (onOm fun o => { o with pend := [8, 1] }) F.PSTORE_BOOT_RESULT 3) = true) ∧
    (isPriv State.reset .pf = true ∧ getBits (0x8000000800000000 : Word) 63 63 = 1 ∧ getBits (0x8000000800000000 : Word) 35 32 = 8 ∧ getBits (0x8000000000000000 : Word) 35 32 = 0 ∧ getBits (0x8000000900000000 : Word) 35 32 = 9 ∧
      State.reset.om.xfer = none ∧ (onOm fun o => { o with xfer := some none }).om.xfer = some none ∧ (onOm fun o => { o with xfer := some (some [1]) }).om.xfer = some (some [1]) ∧ [(1 : Byte)].length < 2 ^ 25) ∧
    (let s := wr sHost .pstoreXferAddr 0x8000000000000000
     getBits (rd s .pstoreXferAddr) 63 62 = 2 ∧ (rd s .pstoreXferAddr).toNat % 64 = 0 ∧ (rd s .pstoreXferAddr).toNat + 2 ^ 25 < 3 * 2 ^ 62 ∧ mayMaster s 0 = true ∧ hostUp s = true ∧ s.flips = [] ∧ Memory.wf s.mem = true) := by decide +kernel
theorem test_hyp_BringUpPowerAndManagementWork_power :
    (fg (fs State.reset F.CLK_REF_STATUS_HOST_LOST 1) F.CLK_REF_STATUS_HOST_LOST = 1 ∧ fg State.reset F.CLK_REF_STATUS_HOST_LOST ≠ 1 ∧ 1 ≤ (onOm fun o => { o with refs := { o.refs with hostBad := 1, fabBad := 1, fabGood := 1999 } }).om.refs.hostBad ∧
      2000 ≤ (onOm fun o => { o with refs := { o.refs with hostBad := 1, fabBad := 1, fabGood := 1999 } }).om.refs.fabGood + 1 ∧ ¬ 45 ≤ 44 ∧ ¬ 56 ≤ 55 ∧ ¬ 71 ≤ 70 ∧ ¬ 86 ≤ 85 ∧ fg State.reset F.CLK_REF_STATUS_FABRIC_LOST ≠ 1) ∧
    ((railOk 0 54000).1 = true ∧ (railOk 12 0).1 = false ∧ (railOk 12 0).2 = false ∧ (railOk 0 0).2 = false ∧ (railOk 0 0).1 = false) ∧
    (overmanRuns State.reset = true ∧ State.reset.om.boot = none ∧ cycling State.reset = false ∧ fg State.reset F.CLK_PWR_CTL_POLICY_EN = 1 ∧ fg (fs State.reset F.CLK_PWR_CTL_POLICY_EN 0) F.CLK_PWR_CTL_POLICY_EN ≠ 1) ∧
    (halted State.reset = false ∧ (hottest [105]).1 = 105 ∧ inDeviceReset State.reset = false ∧ fg State.reset F.CLK_THERM_STATUS_HALT ≠ 1 ∧
      (let s := fs (fs (fs State.reset F.CLK_THERM_STATUS_HALT 1) F.CLK_DORMANT_STATUS_STATE 2) F.CLK_DORMANT_STATUS_CAUSE 1
       inDeviceReset s = false ∧ fg s F.CLK_THERM_STATUS_HALT = 1 ∧ fg s F.CLK_DORMANT_STATUS_STATE = 2 ∧ fg s F.CLK_DORMANT_STATUS_CAUSE = 1 ∧ (hottest [115]).1 = 115 ∧ s.om.power = none ∧ (hottest [90]).1 = 90 ∧ 90 ≤ fg s F.CLK_THERM_CTL_RESUME_C)) ∧
    (fg State.reset F.CLK_DORMANT_STATUS_STATE = 0 ∧ fg (fs State.reset F.CLK_DORMANT_STATUS_STATE 2) F.CLK_DORMANT_STATUS_STATE = 2 ∧ workDone (fs State.reset F.CLK_DORMANT_STATUS_STATE 1) = true ∧
      portState (fs (fs State.reset F.CLK_DORMANT_STATUS_STATE 1) F.PORT_LINK_STATUS_STATE 6 31) 31 = portActive ∧ fg (fs State.reset F.CLK_DORMANT_STATUS_STATE 3) F.CLK_DORMANT_STATUS_STATE = 3 ∧ State.reset.tasks = [] ∧ State.reset.tiles = []) := by decide +kernel
theorem test_hyp_BringUpPowerAndManagementWork_management :
    (mgmtUp State.reset = true ∧ State.reset.om.dynAddr = none ∧ SMap.find (onOm fun o => { o with sensors := [(28, 5)] }).om.sensors 28 = some 5 ∧ SMap.find State.reset.om.sensors 1 = none ∧ mgmtReady State.reset = true ∧
      mgmtReady (sBoot (boot false 1)) = false ∧ haltedOther (sBoot (boot false 1)) = false ∧ cycling State.reset = false ∧ fg (fs State.reset F.CLK_DORMANT_STATUS_STATE 2) F.CLK_DORMANT_STATUS_STATE = 2 ∧
      cool (fs State.reset F.CLK_THERM_STATUS_HOTTEST_C 91) = false ∧ cool (fs State.reset F.CLK_THERM_STATUS_HOTTEST_C 90) = true ∧ mgmtReady (fs State.reset F.CLK_DORMANT_STATUS_STATE 2) = true ∧
      ¬ (fg State.reset F.PSTORE_REC_DEFAULTED 0 = 1 ∧ ([] : List Byte).length ≤ 1024)) ∧
    (let s := fun n => onOm fun o => { o with power := some { off := true, reset := false, at_ := 0, pulses := n } }
     (s 0).om.power = some { off := true, reset := false, at_ := 0, pulses := 0 } ∧ (s 2).om.power = some { off := true, reset := false, at_ := 0, pulses := 2 } ∧ (s 3).om.power.any (fun r => decide (3 ≤ r.pulses)) = true) := by decide +kernel
/-- R419, Table 17.9: the second sequence miss halts the boot with 0x08. R422: an image of type 0 ends with 5. -/
theorem test_boot : gives (.railSequenceMiss 12) (onOm (fun o => { o with railMiss := 1 }) (sBoot (boot true 1))) (fun u => fg u F.PSTORE_BOOT_HALT_CODE == 8 && !u.om.powered) = true ∧
    gives (.pstoreXferGo .pf 0x8000000000000000) State.reset (fun u => fg u F.PSTORE_XFER_STATUS_RESULT == 5) = true := by decide +kernel
/-- R427: the second window of 44 counts loses the host reference. R440: 105 °C halts. R441: an exit when the module is too hot shows EXIT_ERR. -/
theorem test_power : gives (.refMonitorWindow 44 78) (onOm fun o => { o with refs := { o.refs with hostBad := 1 } }) (fun u => fg u F.CLK_REF_STATUS_HOST_LOST == 1) = true ∧
    gives (.thermalSample [60, 105] []) State.reset (fun u => fg u F.CLK_THERM_STATUS_HALT == 1 && fg u F.CLK_THERM_STATUS_SENSOR == 1) = true ∧
    gives (.dormantExit .pf 2) (fs (fs State.reset F.CLK_DORMANT_STATUS_STATE 2) F.CLK_THERM_STATUS_HOTTEST_C 91) (fun u => fg u F.CLK_DORMANT_STATUS_EXIT_ERR == 1) = true := by decide +kernel
/-- R453, R455: a sensor that does not exist is answered with 0x80. -/
theorem test_management : gives (.sensorRead 29) State.reset (fun u => u.outs == [.mgmt [2, 0x11, 0x80]]) = true ∧ gives (.entdaa 9) State.reset (fun u => u.om.dynAddr == some 9) = true := by decide +kernel

theorem test_hyp_TimeSetMovesTheSchedule : isPriv State.reset .pf = true ∧ fg State.reset F.CLK_TIME_STATUS_STATE = 0 ∧ fg State.reset F.TGE_ADMIT_CTL_EN = 0 ∧ fg (fs State.reset F.TGE_ADMIT_CTL_EN 1) F.TGE_ADMIT_CTL_EN ≠ 0 := by decide +kernel
/-- R435: Meridian reads the value written; with EN 1 CFG_ERR is set and it does not. -/
theorem test_time_set : gives (.clkTimeSetWrite .pf 5000000) State.reset (fun u => mer u == 5000000) = true ∧
    gives (.clkTimeSetWrite .pf 5000000) (fs State.reset F.TGE_ADMIT_CTL_EN 1) (fun u => fg u F.CLK_TIME_STATUS_CFG_ERR == 1 && mer u == 0) = true := by decide +kernel

/-! ### Encodings -/

theorem test_hyp_EdleyWordsRoundTrip :
    encodeEdley (.addi ci ⟨5, 2, 0xFFC0⟩) = some 0x08A2FFC0 ∧ Spelt (.addi ci ⟨5, 2, 0xFFC0⟩) ∧ Spelt (.illegalInstr ci 0xDC000000) := by
  refine ⟨by decide +kernel, trivial, by show decodeEdley ci 0xDC000000 = _; decide +kernel⟩
/-- The three encodings worked out at the end of chapter 4. -/
theorem test_edley_words : decodeEdley ci 0x08A2FFC0 = .addi ci ⟨5, 2, 0xFFC0⟩ ∧ decodeEdley ci 0xC034CCE7 = .mma ci ⟨0x03, 0x13, 3, 3, 1, 7⟩ ∧ decodeEdley ci 0x417FFFF4 = .br ci ⟨2, 1, 0x3FFFF4⟩ := by
  decide +kernel
/-- R97, R98: a function code that an opcode's table lists tells two commands apart, and a reserved major opcode spells none. -/
theorem test_edley_functions : decodeEdley cm 0xDC000000 = .illegalInstr cm 0xDC000000 ∧ (decodeEdley cm 0x2C000005 != .illegalInstr cm 0x2C000005) = true ∧ decodeEdley cm 0x2C000006 = .illegalInstr cm 0x2C000006 := by decide +kernel

theorem test_hyp_CodesOfWordsAndFlits :
    (∀ t ∈ State.reset.tiles, t.2.passFail = false) ∧ (3 : Nat) < 4 ∧ (0 : Nat) ≤ 18 ∧ (18 : Nat) ≤ 18 ∧ (16 : Nat) ≤ 16 ∧ (79 : Nat) < 80 ∧ eccDecode (BitVec.twoPow 80 79) = .corrected .single [79] := by decide +kernel

/-- Die 1 with the passage at row 5, column 14 failed. -/
def sFailed : State := { State.reset with tiles := [(tileAt 1 5 14, { Tile.fresh with passFail := true })] }

/-- The latency of a route. -/
def latency (s : State) (src dst : Stop) : Option Nat :=
  match route s src dst with
  | .ok ls => some (routeLatency s ls)
  | .error _ => none

/-- The message past a failed passage, worked out at the end of chapter 9: 25 haul cycles out and 22 back. -/
theorem test_route : latency sFailed ⟨1, 4, 6⟩ ⟨1, 15, 13⟩ = some 25 ∧ latency sFailed ⟨1, 15, 13⟩ ⟨1, 4, 6⟩ = some 22 := by decide +kernel

end Sys2Proof.Tests
end

section
/-! PROOFS. Every command answers a settled state, and a settled state has every graph in step. -/

namespace Sys2Proof.Machine

variable (s : State)

/-! ### What a command sets off leaves every graph in step -/

/-- Once WAIT_EN conditions are evaluated and complete graphs are marked, every graph is in step (R45, R46, R54). -/
theorem inStep_settleGraphs_evalWaiting : (settleGraphs (evalWaiting s)).InStep := by
  intro g hg
  obtain ⟨g0, hm, rfl⟩ := mem_settleGraphs (evalWaiting s) hg
  by_cases hc : (g0.finished.isNone && g0.complete) = true
  · rw [if_pos hc]
    exact ⟨evalWaiting_runs (g := g0) s hm, fun _ => rfl⟩
  · rw [if_neg hc]
    refine ⟨evalWaiting_runs s hm, fun hd => ?_⟩
    simpa [hd, Option.isSome_iff_ne_none] using hc

/-- What a command sets off ends with those two steps, whatever it began with. -/
theorem inStep_settled : (settled s).InStep := inStep_settleGraphs_evalWaiting _

/-! ### The shapes of an answer -/

/-- An answer that is a next state, some state with what it sets off. -/
def Settles (a : Ans) : Prop := ∃ u, a = .next (settled u)

variable (c : CoreRef)

theorem settles_finish : Settles (finish s) := ⟨s, rfl⟩

theorem settles_ite_finish (p : Prop) [Decidable p] (t : State) : Settles (if p then finish s else finish t) := by
  split
  · exact settles_finish s
  · exact settles_finish t

theorem settles_runOp (h : Holder) (srcs : List Nat) (checks : State → Issue → List (Nat × Word))
    (effect : State → Issue → Option State) (lb : State → Nat) : Settles (runOp s c h srcs checks effect lb) := runOp_settles ..

theorem settles_regOp (h : Holder) (srcs : List Nat) (iv : Nat) (checks : Core → List (Nat × Word)) (f : Core → Nat → Core) :
    Settles (regOp s c h srcs iv checks f) := settles_runOp ..

theorem settles_immOp (i : FmtI) (bad : Bool) (f : Word → Word) : Settles (immOp s c i bad f) := settles_regOp ..

theorem settles_branchOp (srcs : List Nat) (checks : Core → List (Nat × Word)) (f : Core → Nat → Core) :
    Settles (branchOp s c srcs checks f) := settles_runOp ..

theorem settles_vecOp (srcs : List Nat) (iv : Nat) (checks : Core → List (Nat × Word)) (f : Core → Arith → Nat → Core × Arith) :
    Settles (vecOp s c srcs iv checks f) := settles_runOp ..

theorem settles_stopOp (copy : Bool) (rd ra rb : BitVec 5) : Settles (stopOp s c copy rd ra rb) := settles_runOp ..

theorem settles_haulIssue (put : Bool) (i : FmtR) : Settles (haulIssue s c put i) := settles_runOp ..

theorem settles_fenceOp (rd ra : BitVec 5) (hi : BitVec 12) (usesRa : Bool) (before : State → State) (cond : State → Core → Bool)
    (lb : State → Nat) : Settles (fenceOp s c rd ra hi usesRa before cond lb) := settles_runOp ..

theorem settles_sendOp' (rd ra rb : BitVec 5) (bad : Bool) (ok : State → Task → Word → Bool) (go : State → Issue → Word → Nat → State) :
    Settles (sendOp' s c rd ra rb bad ok go) := settles_runOp ..

theorem settles_cmdIssue (rd ra rb : BitVec 5) (kind : Nat) (format : State → Nat → List Word → Bool) (changes : Bool) :
    Settles (cmdIssue s c rd ra rb kind format changes) := settles_runOp ..

theorem settles_csrOp (srcs : List Nat) (csr : BitVec 12) (bad denied : Bool) (f : State → Issue → State) :
    Settles (csrOp s c srcs csr bad denied f) := settles_runOp ..

/-! ### Commands whose branches answer apart -/

theorem settles_execStoreEngineComplete (n : Nat) : Settles (execStoreEngineComplete n s) := by
  unfold execStoreEngineComplete
  split
  · split
    · exact settles_finish s
    · exact settles_ite_finish ..
  · exact settles_finish s

theorem settles_execMmaComplete (n : Nat) : Settles (execMmaComplete n s) := by
  unfold execMmaComplete
  split
  · exact settles_finish s
  · exact settles_ite_finish ..

theorem settles_execMdrainComplete (n : Nat) : Settles (execMdrainComplete n s) := by
  unfold execMdrainComplete
  split
  · exact settles_finish s
  · exact settles_ite_finish ..

theorem settles_execSentinelTrip (n : Nat) : Settles (execSentinelTrip n s) := by
  simp only [execSentinelTrip]
  split
  · exact settles_ite_finish ..
  · exact settles_finish _

theorem settles_execDwaitExpire : Settles (execDwaitExpire c s) := by
  unfold execDwaitExpire
  split
  · split
    · exact settles_finish s
    · split
      · exact settles_finish _
      · exact settles_finish _
  · exact settles_finish s

theorem settles_execHaulRequestComplete (id : Nat) (err : HaulErr) : Settles (execHaulRequestComplete c id err s) := by
  simp only [execHaulRequestComplete]
  split
  · exact settles_ite_finish ..
  · exact settles_finish _

theorem settles_execGatherEntryWrite : Settles (execGatherEntryWrite c s) := by
  unfold execGatherEntryWrite
  split
  · exact settles_finish s
  · split
    · exact settles_finish s
    · split
      · exact settles_finish _
      · exact settles_finish _

theorem settles_execRemoteStoreRead (n off : Nat) (who : Requester) : Settles (execRemoteStoreRead n off who s) := by
  simp only [execRemoteStoreRead]
  split
  · exact settles_finish _
  · exact settles_ite_finish ..

theorem settles_execTileScrubStep (n : Nat) (u : Upset) : Settles (execTileScrubStep n u s) := by
  simp only [execTileScrubStep]
  split
  · exact settles_finish _
  · split
    · exact settles_ite_finish ..
    · exact settles_finish _

theorem settles_execHaulTimeout (what : Waited) : Settles (execHaulTimeout c what s) := by
  unfold execHaulTimeout
  split
  · exact settles_finish s
  · exact settles_ite_finish ..

theorem settles_execIllegalInstr (w : BitVec 32) : Settles (execIllegalInstr c w s) := by
  unfold execIllegalInstr
  split
  · exact settles_runOp ..
  · exact settles_finish s

/-- A write that a register's own rows answer settles as they do; a register with no rows of its own answers none here. -/
theorem settles_rowWrite {f : Func} {r : RegName} {i j : Nat} {v m : Word} {a : Ans} (h : rowWrite f r i j v m s = some a) : Settles a := by
  cases r with
  | tgeTickSwitch | clkDormantCtl =>
    obtain rfl := Option.some.inj h
    exact settles_ite_finish ..
  | seamContrailCtl | assayCtl =>
    simp only [rowWrite, Option.ite_none_right_eq_some, Option.some.injEq] at h
    obtain ⟨-, rfl⟩ := h
    exact ⟨_, rfl⟩
  | _ => cases h <;> exact ⟨_, rfl⟩

theorem settles_execRegisterWrite (f : Func) (off : Nat) (z : Size) (v : Word) : Settles (execRegisterWrite f off z v s) := by
  simp only [execRegisterWrite]
  split
  · split
    case h_1 h => exact settles_rowWrite s h
    case h_2 => exact settles_finish _
  · exact settles_finish s

/-! ### Every command -/

/-- Every command answers a settled state: an instruction by the operation that it is made of, most other commands at once, and the rest on each of their branches. -/
theorem settles_exec (c : Instr) : Settles (exec c s) := by
  cases c with
  | alu | cmp | cmpi | prdLogic | pfromg | ptog | sel | dset | dget | msgStat | taskNop =>
    simp only [exec, execAlu, execCmp, execCmpi, execPrdLogic, execPfromg, execPtog, execSel, execDset, execDget, execMsgStat, execTaskNop, settles_regOp]
  | addi | andi | ori | xori | shi | immc =>
    simp only [exec, execAddi, execAndi, execOri, execXori, execShi, execImmc, settles_immOp]
  | br | jal | jalr | loop =>
    simp only [exec, execBr, execJal, execJalr, execLoop, settles_branchOp]
  | ld | st | wld | wst | dld | dst | accrd | mma | mdrain | snchk | dout | din | dwait | msgRecv | msgCount | tend | taskGate | trap =>
    simp only [exec, execLd, execSt, execWld, execWst, execDld, execDst, execAccrd, execMma, execMdrain, execSnchk, execDout, execDin, execDwait, execMsgRecv, execMsgCount,
      execTend, execTaskGate, execTrap, settles_runOp]
  | stopFill | stopCopy =>
    simp only [exec, execStopFill, execStopCopy, settles_stopOp]
  | vop | vfma | vcmp | vsel | vcvt | vsfu | vred | vqnt | vsmxStep | vsmxReset | vsmxReadM | vsmxReadS | vzero | vcopy | vbcast | vext | vins | vint =>
    simp only [exec, execVop, execVfma, execVcmp, execVsel, execVcvt, execVsfu, execVred, execVqnt, execVsmxStep, execVsmxReset, execVsmxReadM, execVsmxReadS, execVzero,
      execVcopy, execVbcast, execVext, execVins, execVint, settles_vecOp]
  | hget | hput =>
    simp only [exec, execHget, execHput, settles_haulIssue]
  | fenceStore | fenceHaul | fenceRemote | fenceCmd | fenceHaulCount =>
    simp only [exec, execFenceStore, execFenceHaul, execFenceRemote, execFenceCmd, execFenceHaulCount, settles_fenceOp]
  | msgSend | msgReq | msgReply =>
    simp only [exec, execMsgSend, execMsgReq, execMsgReply, settles_sendOp']
  | seamFetchIssue | seamAppendIssue | seamControlIssue | assayQueryIssue =>
    simp only [exec, execSeamFetchIssue, execSeamAppendIssue, execSeamControlIssue, execAssayQueryIssue, settles_cmdIssue]
  | csrRead | csrWrite | csrSet | csrClear =>
    simp only [exec, execCsrRead, execCsrWrite, execCsrSet, execCsrClear, settles_csrOp]
  | registerWrite => exact settles_execRegisterWrite ..
  | storeEngineComplete => exact settles_execStoreEngineComplete ..
  | mmaComplete => exact settles_execMmaComplete ..
  | mdrainComplete => exact settles_execMdrainComplete ..
  | sentinelTrip => exact settles_execSentinelTrip ..
  | dwaitExpire => exact settles_execDwaitExpire ..
  | haulRequestComplete => exact settles_execHaulRequestComplete ..
  | gatherEntryWrite => exact settles_execGatherEntryWrite ..
  | remoteStoreRead => exact settles_execRemoteStoreRead ..
  | tileScrubStep => exact settles_execTileScrubStep ..
  | haulTimeout => exact settles_execHaulTimeout ..
  | illegalInstr => exact settles_execIllegalInstr ..
  | _ => exact ⟨_, rfl⟩

end Sys2Proof.Machine

open Sys2Proof.Machine

/-- Settles O4: a command's answer settles, and a settled state is in step. -/
theorem everyCommandAnswers : Obligations.EveryCommandAnswers := by
  intro c s
  obtain ⟨u, hu⟩ := settles_exec s c
  exact ⟨u, hu, inStep_settled u⟩

end

section
/-! PROOFS. Reads and writes of registers through BAR0: where a register lies, who reaches it, what a read clears and what a write changes. -/

namespace Sys2Proof.Machine

open Sys2Proof.Claims

/-! ### The register at an offset -/

/-- A distance is its whole strides and the rest; with stride 0 it is all rest. -/
theorem stride_mul_add_rest (d m : Nat) : (if m = 0 then 0 else d / m) * m + (if m = 0 then d else d % m) = d := by
  split
  · simp
  · exact Nat.div_add_mod' d m

/-- The indices that a family finds at an offset lie there. -/
theorem RegName.off_of_at? {r : RegName} {off i j : Nat} (h : r.at? off = some (i, j)) : r.off i j = off := by
  simp only [RegName.at?, Option.ite_none_left_eq_some, Option.ite_none_right_eq_some, Option.some.injEq, Prod.mk.injEq] at h
  obtain ⟨hb, ⟨hz, -⟩, rfl, rfl⟩ := h
  have h1 := stride_mul_add_rest (off - r.fam.base) r.fam.s1
  have h2 := stride_mul_add_rest (if r.fam.s1 = 0 then off - r.fam.base else (off - r.fam.base) % r.fam.s1) r.fam.s2
  unfold RegName.off
  omega

/-- A register found in a list of families lies at the offset looked up. -/
theorem off_of_lookupIn {rs : List RegName} {off i j : Nat} {r : RegName} (h : lookupIn rs off = some (r, i, j)) : r.off i j = off := by
  induction rs with
  | nil => cases h
  | cons q rs ih =>
    simp only [lookupIn] at h
    split at h
    case h_1 hq =>
      obtain ⟨rfl, rfl, rfl⟩ : q = r ∧ _ = i ∧ _ = j := by simpa using h
      exact RegName.off_of_at? hq
    case h_2 => exact ih h

/-- The register found at an offset lies at that offset (R8). -/
theorem off_of_regAt {off i j : Nat} {r : RegName} (h : regAt off = some (r, i, j)) : r.off i j = off := off_of_lookupIn h

/-! ### Who reaches a register -/

variable {s : State} {f : Func} {off i j : Nat} {r : RegName}

/-- A register that a function reads is one that it reaches, and not a hidden channel. -/
theorem reaches_of_readable (h : readable s f off = some (r, i, j)) : regAt off = some (r, i, j) ∧ reaches s f r i j = true ∧ chanHidden s f r i j = false := by
  unfold readable at h
  split at h
  case h_1 hr =>
    simp only [Option.ite_none_right_eq_some, Option.some.injEq, Bool.and_eq_true, Bool.not_eq_true'] at h
    obtain ⟨⟨⟨⟨h1, h2⟩, -⟩, -⟩, h⟩ := h
    obtain ⟨rfl, rfl, rfl⟩ : _ = r ∧ _ = i ∧ _ = j := by simpa using h
    exact ⟨hr, h1, h2⟩
  case h_2 => cases h

/-- A register that a function writes is one that it reaches. -/
theorem reaches_of_writable (h : writable s f off = some (r, i, j)) : regAt off = some (r, i, j) ∧ reaches s f r i j = true := by
  unfold writable at h
  split at h
  case h_1 hr =>
    simp only [Option.ite_none_right_eq_some, Option.some.injEq, Bool.and_eq_true] at h
    obtain ⟨⟨⟨h1, -⟩, -⟩, h⟩ := h
    obtain ⟨rfl, rfl, rfl⟩ : _ = r ∧ _ = i ∧ _ = j := by simpa using h
    exact ⟨hr, h1⟩
  case h_2 => cases h

/-- No function reaches a register of a unit that is not there. -/
theorem absent_of_reaches (h : reaches s f r i j = true) : absent s r i j = false := by
  simp only [reaches, Bool.and_eq_true, Bool.not_eq_true'] at h
  obtain ⟨⟨-, h⟩, -⟩ := h
  exact h

/-- At an offset at which no register of a present unit lies, nothing is read and nothing is written. -/
theorem unreached_of_absent (f : Func) (h : ∀ r i j, regAt off = some (r, i, j) → absent s r i j = true) : readable s f off = none ∧ writable s f off = none := by
  constructor
  · refine Option.eq_none_iff_forall_ne_some.2 fun ⟨r, i, j⟩ hx => ?_
    obtain ⟨ha, hr, -⟩ := reaches_of_readable hx
    exact absurd (h r i j ha) (by simp [absent_of_reaches hr])
  · refine Option.eq_none_iff_forall_ne_some.2 fun ⟨r, i, j⟩ hx => ?_
    obtain ⟨ha, hr⟩ := reaches_of_writable hx
    exact absurd (h r i j ha) (by simp [absent_of_reaches hr])

/-- The PF reads no channel register of a tile that serves another partition than its own (R462). -/
theorem readable_hidden_channel {n b : Nat} (hn : n < 1152) (hb : b < 0x100) (hp : tilePart s n ≠ some (fg s F.HOST_PF_CTL_BAR2_PART)) :
    readable s .pf (0xA40000 + 0x100 * n + b) = none := by
  refine Option.eq_none_iff_forall_ne_some.2 fun ⟨r, i, j⟩ hx => ?_
  obtain ⟨ha, -, hc⟩ := reaches_of_readable hx
  have hd : (0xA40000 + 0x100 * n + b - 0xA40000) / 0x100 = n := by omega
  simp only [chanHidden, off_of_regAt ha, hd, pfPart] at hc
  have hr : 0xA40000 ≤ 0xA40000 + 0x100 * n + b ∧ 0xA40000 + 0x100 * n + b < 0xA88000 := by omega
  simp [hr, hp] at hc

/-- The registers of units that are not there, by the offsets of their blocks (Table 1.1, R253, R254, R293). -/
theorem absent_of_off (h : (0x410800 ≤ r.off i j ∧ r.off i j < 0x411000) ∨
      (∃ k b, k < 16 ∧ b < 0x100 ∧ r.off i j = 0x420000 + 0x100 * k + b ∧ t2Populated s k = false) ∨
      (∃ n b, n < 32 ∧ b < 0x100 ∧ r.off i j = 0x510000 + 0x100 * n + b ∧ portEnabled s n = false) ∨
      (∃ n b, n < 1152 ∧ b < 0x100 ∧ r.off i j = 0xA40000 + 0x100 * n + b ∧ tilePart s n = none)) : absent s r i j = true := by
  simp only [absent, Bool.or_eq_true, Bool.and_eq_true, decide_eq_true_eq]
  obtain h | ⟨k, b, hk, hb, ho, hp⟩ | ⟨n, b, hn, hb, ho, hp⟩ | ⟨n, b, hn, hb, ho, hp⟩ := h
  · exact .inl (.inl (.inl h))
  · have hd : (r.off i j - 0x420000) / 0x100 = k := by omega
    exact .inl (.inl (.inr ⟨by omega, by simp [hd, hp]⟩))
  · have hd : (r.off i j - 0x510000) / 0x100 = n := by omega
    exact .inl (.inr ⟨by omega, by simp [hd, hp]⟩)
  · have hd : (r.off i j - 0xA40000) / 0x100 = n := by omega
    exact .inr ⟨by omega, by simp [hd, hp]⟩

/-! ### What a read shows and clears -/

/-- The bytes of a number, one by one. -/
theorem bytesOf_eq_map (n x : Nat) : bytesOf n x = (List.range n).map fun k => BitVec.ofNat 8 (x / 2 ^ (8 * k)) := by
  induction n generalizing x with
  | zero => rfl
  | succ n ih =>
    simp only [bytesOf, ih, List.range_succ_eq_map, List.map_cons, List.map_map, Nat.mul_zero, Nat.pow_zero, Nat.div_one]
    congr 2
    funext k
    rw [Function.comp, Nat.div_div_eq_div_mul, Nat.mul_succ, Nat.add_comm, Nat.pow_add]

/-- A read of a whole register finds the bytes of its word. -/
theorem bytesSeen_word (s : State) (f : Func) (h : off % 8 = 0) : bytesSeen s f off 8 = bytesOf 8 (wordSeen s f off).toNat := by
  rw [bytesOf_eq_map, bytesSeen, rangeFrom, List.map_map]
  refine List.map_congr_left fun k hk => ?_
  have hk := List.mem_range.1 hk
  have h1 : (off + k) / 8 * 8 = off := by omega
  have h2 : (off + k) % 8 = k := by omega
  simp only [Function.comp, h1, h2]

theorem aligned_div_mul (h : off % 8 = 0) : off / 8 * 8 = off := by omega

/-- A read clears the RC fields of the register that it finds, in the bits that it covers. -/
theorem rd_readClear (m : Word) (h : readable s f (off / 8 * 8) = some (r, i, j)) :
    rd (readClear s f off m) r i j (regFn f r) = rd s r i j (regFn f r) &&& ~~~(r.maskOf .rc &&& m) := by
  simp only [readClear, h]
  split
  case isTrue hc =>
    rw [hc]
    exact BitVec.and_allOnes.symm
  case isFalse => exact rd_wr_self s ..

/-- A read changes no register but the one that it finds. -/
theorem regsOnly_readClear (m : Word) (h : readable s f (off / 8 * 8) = some (r, i, j)) : RegsOnly s (readClear s f off m) [regKey r i j (regFn f r)] := by
  simp only [readClear, h]
  split
  case isTrue => exact ⟨rfl, fun _ _ => rfl⟩
  case isFalse => exact ⟨rfl, regsBut_wr s r _ i j _⟩

/-- A whole-register read by a host function completes with the register's bytes. -/
theorem exec_registerRead_word (hf : f ≠ .overman) (ha : answers s f = true) (h : off % 8 = 0) :
    exec (.registerRead f off .b8) s = .next (settled { readClear s f off (BitVec.allOnes 64) with
      outs := (readClear s f off (BitVec.allOnes 64)).outs ++ [.completion (fnOf f) 0 (bytesOf 8 (wordSeen s f off).toNat)] }) := by
  cases f with
  | overman => exact absurd rfl hf
  | pf | vf => simp [exec, execRegisterRead, ha, accessMask, h, sizeBytes, bytesSeen_word, cplOk]

/-! ### What a write changes -/

/-- A bit of a register after a write under its access codes (Table 0.9). -/
theorem getLsbD_mergeWrite (r : RegName) (lock : Bool) (old v m : Word) {b : Nat} (hb : b < 64) :
    (mergeWrite r lock old v m).getLsbD b =
      ((if m.getLsbD b && ((r.maskOf .rw).getLsbD b || ((r.maskOf .rwl).getLsbD b && !lock)) then v.getLsbD b else old.getLsbD b) &&
        !(m.getLsbD b && (r.maskOf .w1c).getLsbD b && v.getLsbD b) || (m.getLsbD b && (r.maskOf .w1s).getLsbD b && v.getLsbD b)) := by
  simp only [mergeWrite, BitVec.getLsbD_or, BitVec.getLsbD_and, BitVec.getLsbD_not, hb, decide_true, Bool.true_and]
  cases m.getLsbD b with
  | false => simp
  | true =>
    have hl : (if lock = true then (0 : Word) else r.maskOf .rwl).getLsbD b = ((r.maskOf .rwl).getLsbD b && !lock) := by cases lock <;> simp
    rw [hl]
    cases ((r.maskOf .rw).getLsbD b || ((r.maskOf .rwl).getLsbD b && !lock)) <;> simp [Bool.and_comm, Bool.or_comm]

/-- Bits of the written word that the access does not cover count for nothing. -/
theorem mergeWrite_and_mask (r : RegName) (lock : Bool) (old v m : Word) : mergeWrite r lock old (v &&& m) m = mergeWrite r lock old v m := by
  refine BitVec.eq_of_getLsbD_eq fun b hb => ?_
  rw [getLsbD_mergeWrite _ _ _ _ _ hb, getLsbD_mergeWrite _ _ _ _ _ hb, BitVec.getLsbD_and]
  cases m.getLsbD b <;> simp

/-- A register with no rows of its own is left to the rule of its register. -/
theorem rowWrite_none (s : State) (f : Func) (i j : Nat) (v m : Word) (hc : r ∉ commandRegs) : rowWrite f r i j v m s = none := by
  unfold rowWrite
  split
  case h_41 => rfl
  all_goals exact absurd (by decide) hc

/-- A register with no row of its own and no rule that limits it is written under its access codes. -/
theorem restWrite_plain (s : State) (f : Func) (i j : Nat) (v m : Word) (hc : r ∉ commandRegs) (hl : r ∉ limitedRegs) :
    restWrite s f r i j v m = plainWrite s f r i j v m := by
  have hp : r.isPool = false := by
    unfold RegName.isPool
    split
    case h_7 => rfl
    all_goals exact absurd (by decide) hl
  have hd : r ≠ .portDevid := by
    rintro rfl
    exact hc (by decide)
  have hv : vfMayWrite r = true := by
    simp only [limitedRegs, List.mem_cons, not_or] at hl
    simp [vfMayWrite, hp, hd, hl]
  simp only [restWrite, hv, hp, Bool.not_true, Bool.and_false, Bool.false_eq_true, if_false]
  split
  case h_15 => rfl
  all_goals exact absurd (by decide) hl

/-- A write of the half that a register's rows are about is the command of its row. -/
theorem rowWrite_rowCommand (s : State) {v m : Word} {c : Instr} (h : RowCommand f r i j v c) (hc : r = .seamContrailCtl → m.getLsbD 63 = true)
    (ha : r = .assayCtl → m.getLsbD 0 = true) : rowWrite f r i j v m s = some (exec c s) := by
  cases r with
  | tgeTickSwitch =>
    obtain rfl := h
    by_cases hv : v = 0
    · simp only [rowWrite, wroteZero, beq_iff_eq, if_pos hv]
      rfl
    · simp only [rowWrite, wroteZero, beq_iff_eq, if_neg hv]
      rfl
  | clkDormantCtl =>
    obtain rfl := h
    by_cases hv : getBits v 0 0 = 1
    · simp [rowWrite, fieldOf, F.CLK_DORMANT_CTL_ENTER, hv, exec]
    · simp [rowWrite, fieldOf, F.CLK_DORMANT_CTL_ENTER, hv, exec]
  | seamContrailCtl =>
    obtain rfl := h
    exact if_pos (hc rfl)
  | assayCtl =>
    obtain rfl := h
    exact if_pos (ha rfl)
  | _ => cases h <;> rfl

/-- A whole-register write to a register with rows of its own is its row's command (R9). -/
theorem exec_registerWrite_row {v : Word} {c : Instr} (ha : answers s f = true) (h : off % 8 = 0) (hw : writable s f off = some (r, i, j))
    (hc : RowCommand f r i j v c) : exec (.registerWrite f off .b8 v) s = exec c s := by
  have hm : accessMask off .b8 = some (BitVec.allOnes 64) := by simp [accessMask, h]
  have hr := rowWrite_rowCommand s (m := BitVec.allOnes 64) hc (fun _ => rfl) fun _ => rfl
  have h4 : off % 8 ≠ 4 := by omega
  simp only [exec, execRegisterWrite, ha, hm, aligned_div_mul h, hw, if_neg h4, BitVec.not_allOnes, BitVec.and_zero, BitVec.zero_or, BitVec.and_allOnes, hr]

/-- A write to a register that no rule of its own limits is one under its access codes. -/
theorem exec_registerWrite_plain {z : Size} (v : Word) {m : Word} (ha : answers s f = true) (hm : accessMask off z = some m)
    (hw : writable s f (off / 8 * 8) = some (r, i, j)) (hc : r ∉ commandRegs) (hl : r ∉ limitedRegs) :
    exec (.registerWrite f off z v) s = .next (settled (writeReg s r (if off % 8 = 4 then v <<< 32 else v) m i j (regFn f r))) := by
  simp only [exec, execRegisterWrite, ha, hm, hw, rowWrite_none _ _ _ _ _ _ hc, restWrite_plain _ _ _ _ _ _ hc hl, finish_eq, plainWrite]
  split
  · rfl
  · simp only [writeReg, mergeWrite_and_mask]

/-- A write that no whole or half register takes changes nothing (R9). -/
theorem exec_registerWrite_discarded {z : Size} (v : Word) (h : accessMask off z = none ∨ writable s f (off / 8 * 8) = none) :
    exec (.registerWrite f off z v) s = .next (settled s) := by
  simp only [exec, execRegisterWrite]
  split
  case h_1 hm hw => simp [hm, hw] at h
  case h_2 => rfl

/-- Narrow and misaligned accesses cover no register half (R9). -/
theorem accessMask_none {z : Size} (h : z = .b1 ∨ z = .b2 ∨ (z = .b8 ∧ off % 8 ≠ 0) ∨ (z = .b4 ∧ off % 4 ≠ 0)) : accessMask off z = none := by
  obtain rfl | rfl | ⟨rfl, h⟩ | ⟨rfl, h⟩ := h
  · rfl
  · rfl
  · simp [accessMask, h]
  · have h0 : off % 8 ≠ 0 := by omega
    have h4 : off % 8 ≠ 4 := by omega
    simp [accessMask, h0, h4]

end Sys2Proof.Machine

open Sys2Proof Sys2Proof.Machine Sys2Proof.Claims

/-- Settles O41, clause by clause: reads, reads of nothing, absent units, hidden channels, rows, plain writes, and discarded writes. -/
theorem registersReadAndWriteByAccessCode : Obligations.RegistersReadAndWriteByAccessCode := by
  refine ⟨fun s f off r i j hf ha h hr => ?_, fun s f off hf ha h hr => ?_, fun s f off h => ?_, fun s n b hn hb hp => readable_hidden_channel hn hb hp,
    fun s f off v r i j c ha h hw hc _ _ => exec_registerWrite_row ha h hw hc, fun s f off z v m r i j ha hm hw hc hl => ?_, fun s f off z v h => ?_⟩
  · have hr8 : readable s f (off / 8 * 8) = some (r, i, j) := by rwa [aligned_div_mul h]
    obtain ⟨hu, hk⟩ := regsOnly_readClear (BitVec.allOnes 64) hr8
    refine ⟨_, wordSeen s f off, exec_registerRead_word hf ha h, ?_, hk, fun b hb => ⟨?_, ?_⟩⟩
    · rw [hu]
    · simp [wordSeen, hr, shown, hb]
    · change (rd (readClear s f off (BitVec.allOnes 64)) r i j (regFn f r)).getLsbD b = _
      rw [rd_readClear (BitVec.allOnes 64) hr8, BitVec.and_allOnes]
      simp [hb]
  · rw [exec_registerRead_word hf ha h]
    have hr8 : readable s f (off / 8 * 8) = none := by rwa [aligned_div_mul h]
    simp only [wordSeen, hr, readClear, hr8]
    rfl
  · refine unreached_of_absent f fun r i j ha => ?_
    obtain h | h := h
    · simp [h] at ha
    · rw [← off_of_regAt ha] at h
      exact absent_of_off h
  · refine ⟨_, exec_registerWrite_plain v ha hm hw hc hl, ⟨rfl, regsBut_wr s r _ i j _⟩, fun b hb => ?_⟩
    rw [writeReg, rd_wr_self, getLsbD_mergeWrite _ _ _ _ _ hb]
  · by_cases hw : writable s f (off / 8 * 8) = none
    · exact exec_registerWrite_discarded v (.inr hw)
    · exact exec_registerWrite_discarded v (.inl (accessMask_none (by simpa only [hw, or_false] using h)))

end

section
/-! PROOFS. The section apply: the checks of Table 1.6, the start, and what coming into force changes and leaves unchanged. -/

namespace Sys2Proof.Machine

open Sys2Proof.Claims

variable {s t u : State} {m : Word}

/-! ### The checks of Table 1.6 -/

/-- Every field of a map names a partition 0 to 7, or 15 (Table 1.3). -/
def MapNamed (m : Word) : Prop := ∀ k, k < 8 → mapField m k < 8 ∨ mapField m k = 15

/-- A partition gains or loses a section under a map. -/
def Moved (s : State) (m : Word) (p : Nat) : Prop :=
  p < 8 ∧ ∃ k, k < 8 ∧ mapField m k ≠ sectionPart s k ∧ (mapField m k = p ∨ sectionPart s k = p)

/-- Every partition that gains or loses a section is held in reset, or holds no section yet. -/
def MovedHeld (s : State) (m : Word) : Prop := ∀ p, Moved s m p → partHeld s p = true ∨ partExists s p = false

/-- No partition that gains or loses a section has its Seam Engine enabled. -/
def MovedOff (s : State) (m : Word) : Prop := ∀ p, Moved s m p → fg s F.SEAM_CTL_EN p ≠ 1

theorem mem_changing {k : Nat} : k ∈ changing s m ↔ k < 8 ∧ mapField m k ≠ sectionPart s k := by simp [changing]

theorem mem_movedParts {p : Nat} : p ∈ movedParts s m ↔ Moved s m p := by
  simp [movedParts, Moved, mem_changing, and_assoc]

theorem any_unnamed_iff : ((List.range 8).any fun k => decide (8 ≤ mapField m k) && decide (mapField m k ≠ 15)) = true ↔ ¬ MapNamed m := by
  simp [MapNamed]

theorem all_movedParts_held_iff : (movedParts s m).all (fun p => partHeld s p || !partExists s p) = true ↔ MovedHeld s m := by
  simp [MovedHeld, mem_movedParts]

theorem any_movedParts_on_iff : ((movedParts s m).any fun p => fb s F.SEAM_CTL_EN p) = true ↔ ¬ MovedOff s m := by
  simp [MovedOff, mem_movedParts, fb]

open Classical in
/-- The checks in the order of the rows of Table 1.6. -/
theorem applyCheck_eq (s : State) (m : Word) :
    applyCheck s m = if ¬ MapNamed m then 4 else if ¬ MovedHeld s m then 3 else if ¬ MovedOff s m then 5 else 0 := by
  simp only [applyCheck, any_unnamed_iff, any_movedParts_on_iff, Bool.not_eq_true', ← Bool.not_eq_true, all_movedParts_held_iff]

theorem applyCheck_unnamed (hn : ¬ MapNamed m) : applyCheck s m = 4 := by
  rw [applyCheck_eq, if_pos hn]

theorem applyCheck_unheld (hn : MapNamed m) (hh : ¬ MovedHeld s m) : applyCheck s m = 3 := by
  rw [applyCheck_eq, if_neg (not_not_intro hn), if_pos hh]

theorem applyCheck_enabled (hn : MapNamed m) (hh : MovedHeld s m) (ho : ¬ MovedOff s m) : applyCheck s m = 5 := by
  rw [applyCheck_eq, if_neg (not_not_intro hn), if_neg (not_not_intro hh), if_pos ho]

theorem applyCheck_passed (hn : MapNamed m) (hh : MovedHeld s m) (ho : MovedOff s m) : applyCheck s m = 0 := by
  rw [applyCheck_eq, if_neg (not_not_intro hn), if_neg (not_not_intro hh), if_neg (not_not_intro ho)]

/-! ### The start of an apply -/

/-- A field write makes the field read what was written, and no other bit of its register changes. -/
theorem holds_fs (s : State) {f : Fld} {x : Nat} (i j fn : Nat) (hf : f.ok) (hx : x < 2 ^ (f.hi + 1 - f.lo)) : Holds s (fs s f x i j fn) f x i j fn := by
  refine ⟨by rw [fg_fs_self s f x i j fn hf, Nat.mod_eq_of_lt hx], fun b hb => ?_⟩
  rw [fs, rd_wr_self, getLsbD_setBits _ _ _ _ _ hf.1, if_neg (by omega)]

/-- Setting the apply in progress and RESULT changes nothing else. -/
theorem setApplyResult_frame (s : State) (a : Option (Option Word)) (r : Nat) :
    let u := setApplyResult { s with apply := a } r
    u = { s with regs := u.regs, apply := a } ∧ RegsBut s u [regKey .glbSectionStatus 0 0 0] :=
  ⟨rfl, regsBut_fs { s with apply := a } F.GLB_SECTION_STATUS_RESULT r 0 0 0⟩

theorem holds_setApplyResult (s : State) (a : Option (Option Word)) {r : Nat} (hr : r < 8) :
    Holds s (setApplyResult { s with apply := a } r) F.GLB_SECTION_STATUS_RESULT r :=
  holds_fs { s with apply := a } (f := F.GLB_SECTION_STATUS_RESULT) 0 0 0 ⟨by decide, by decide⟩ hr

theorem startApply_of_passed (h : applyCheck s (rd s .glbSectionMap) = 0) :
    startApply s = setApplyResult { s with apply := some (some (rd s .glbSectionMap)) } 1 := by
  simp only [startApply, h]

theorem startApply_of_failed {c : Nat} (h : applyCheck s (rd s .glbSectionMap) = c + 1) : startApply s = setApplyResult { s with apply := none } (c + 1) := by
  simp only [startApply, h]

/-- A start changes the apply in progress and GLB_SECTION_STATUS only. -/
theorem startApply_frame (s : State) :
    startApply s = { s with regs := (startApply s).regs, apply := (startApply s).apply } ∧ RegsBut s (startApply s) [regKey .glbSectionStatus 0 0 0] := by
  cases h : applyCheck s (rd s .glbSectionMap) with
  | zero =>
    rw [startApply_of_passed h]
    exact setApplyResult_frame s _ 1
  | succ c =>
    rw [startApply_of_failed h]
    exact setApplyResult_frame s _ (c + 1)

/-- A start that passes the checks puts the map in progress, with RESULT 1. -/
theorem started_of_passed (h : applyCheck s (rd s .glbSectionMap) = 0) :
    (startApply s).apply = some (some (rd s .glbSectionMap)) ∧ Holds s (startApply s) F.GLB_SECTION_STATUS_RESULT 1 := by
  rw [startApply_of_passed h]
  exact ⟨rfl, holds_setApplyResult s _ (by decide)⟩

/-- A start that fails a check ends the apply, with that check's RESULT. -/
theorem ended_of_failed {c : Nat} (h : applyCheck s (rd s .glbSectionMap) = c + 1) (hc : c + 1 < 8) :
    (startApply s).apply = none ∧ Holds s (startApply s) F.GLB_SECTION_STATUS_RESULT (c + 1) := by
  rw [startApply_of_failed h]
  exact ⟨rfl, holds_setApplyResult s _ hc⟩

/-- No re-placement is in progress when no die has one. -/
theorem replacing_eq_false_iff : replacing s = false ↔ ∀ d ∈ s.dies, d.repl = none := by
  simp [replacing]

/-- A GO with no apply and no re-placement in progress starts the apply (R18). -/
theorem exec_sectionApplyGo_start {f : Func} {v : Word} (hf : isPriv s f = true) (hv : getBits v 0 0 = 1) (ha : s.apply = none) (hr : replacing s = false) :
    exec (.sectionApplyGo f v) s = .next (settled (startApply s)) := by
  simp [exec, execSectionApplyGo, hf, fieldOf, F.GLB_SECTION_APPLY_GO, hv, ha, hr]

/-- A GO while a re-placement is in progress waits (R18, R172). -/
theorem exec_sectionApplyGo_wait {f : Func} {v : Word} (hf : isPriv s f = true) (hv : getBits v 0 0 = 1) (ha : s.apply = none) (hr : replacing s = true) :
    exec (.sectionApplyGo f v) s = .next (settled (setApplyResult { s with apply := some none } 1)) := by
  simp [exec, execSectionApplyGo, hf, fieldOf, F.GLB_SECTION_APPLY_GO, hv, ha, hr]

/-- An apply that waited starts once no re-placement is in progress (R172). -/
theorem exec_sectionApplyStart (ha : s.apply = some none) (hr : replacing s = false) : exec .sectionApplyStart s = .next (settled (startApply s)) := by
  simp [exec, execSectionApplyStart, ha, hr]

/-! ### Updates that leave memory, the apply and all but some registers -/

/-- From `s` to `u` no byte of memory changes, no apply, and no register whose key is outside `P`. -/
structure Spares (P : Nat → Prop) (s u : State) : Prop where
  mem : u.mem = s.mem
  apply : u.apply = s.apply
  regs : ∀ k, ¬ P k → SMap.find u.regs k = SMap.find s.regs k

variable {P Q : Nat → Prop}

theorem Spares.refl (P : Nat → Prop) (s : State) : Spares P s s := ⟨rfl, rfl, fun _ _ => rfl⟩

theorem Spares.trans (h : Spares P s t) (h' : Spares P t u) : Spares P s u :=
  ⟨h'.mem.trans h.mem, h'.apply.trans h.apply, fun k hk => (h'.regs k hk).trans (h.regs k hk)⟩

theorem Spares.mono (h : Spares P s u) (hPQ : ∀ k, P k → Q k) : Spares Q s u := ⟨h.mem, h.apply, fun k hk => h.regs k fun hP => hk (hPQ k hP)⟩

/-- Steps that each spare something spare it together. -/
theorem Spares.foldl {α : Type} {f : State → α → State} {l : List α} (h : ∀ a ∈ l, ∀ s, Spares P s (f s a)) (s : State) : Spares P s (l.foldl f s) :=
  List.foldlRecOn l f (Spares.refl P s) fun u hu a ha => hu.trans (h a ha u)

theorem Spares.rd_eq (h : Spares P s u) {r : RegName} {i j fn : Nat} (hk : ¬ P (regKey r i j fn)) : rd u r i j fn = rd s r i j fn := by
  simp only [rd, SMap.get, h.regs _ hk]

theorem Spares.fg_eq (h : Spares P s u) {f : Fld} {i j fn : Nat} (hk : ¬ P (regKey f.reg i j fn)) : fg u f i j fn = fg s f i j fn := by
  simp only [fg, h.rd_eq hk]

theorem spares_fs (s : State) {f : Fld} (x : Nat) {i j fn : Nat} (hk : P (regKey f.reg i j fn)) : Spares P s (fs s f x i j fn) :=
  ⟨rfl, rfl, fun k hP => find_wr s f.reg _ i j fn k (by rintro rfl; exact hP hk)⟩

theorem spares_clr (s : State) {r : RegName} {i j fn : Nat} (hk : P (regKey r i j fn)) : Spares P s (clr s r i j fn) :=
  ⟨rfl, rfl, fun k hP => SMap.find_erase_ne s.regs (by rintro rfl; exact hP hk)⟩

/-! ### What an apply does to the partitions and the devices -/

/-- The keys of the registers of partition p that the release of its keys writes (R20, R398). -/
def SecKey (p k : Nat) : Prop := k = regKey .secPartCtl p 0 0 ∨ ∃ j, j < 64 ∧ k = regKey .secSlot p j 0

/-- The keys of the registers of partition p that its creation or its end writes (R20, R295, R390). -/
def PartKey (p k : Nat) : Prop := k = regKey .portDevid p 0 0 ∨ SecKey p k

/-- The keys of the MEM_DEV_CRYPT registers. -/
def CryptKey (k : Nat) : Prop := ∃ i j, i < 2 ∧ j < 16 ∧ k = regKey .memDevCrypt i j 0

theorem regKey_portDevid (p : Nat) : regKey .portDevid p 0 0 = 0x520000 + p * 0x100 := by simp [regKey, RegName.off, RegName.fam]

theorem regKey_secPartCtl (p : Nat) : regKey .secPartCtl p 0 0 = 0x810000 + p * 0x400 := by simp [regKey, RegName.off, RegName.fam]

theorem regKey_secSlot (p j : Nat) : regKey .secSlot p j 0 = 0x810200 + p * 0x400 + j * 8 := by simp [regKey, RegName.off, RegName.fam]

theorem regKey_memDevCrypt (i j : Nat) : regKey .memDevCrypt i j 0 = 0x410038 + i * 0x10000 + j * 0x100 := by simp [regKey, RegName.off, RegName.fam]

/-- A change of the key engine's state changes no register. -/
theorem Spares.with_ke (h : Spares P s u) (k : KeyEngine) : Spares P s { u with ke := k } := ⟨h.mem, h.apply, h.regs⟩

theorem Spares.updTge (h : Spares P s u) (f : Tge → Tge) : Spares P s (updTge u f) := ⟨h.mem, h.apply, h.regs⟩

theorem spares_releaseKeys (s : State) (p : Nat) : Spares (SecKey p) s (releaseKeys s p) := by
  have hslots : Spares (SecKey p) s ((List.range 64).foldl (fun s k => clr s .secSlot p k) s) :=
    Spares.foldl (fun j hj s => spares_clr s (.inr ⟨j, List.mem_range.1 hj, rfl⟩)) s
  have hctl : SecKey p (regKey .secPartCtl p 0 0) := .inl rfl
  unfold releaseKeys
  exact ((hslots.with_ke _).trans (spares_fs (f := F.SEC_PART_CTL_STATE) _ 0 hctl)).trans (spares_fs (f := F.SEC_PART_CTL_CONF) _ 0 hctl)

/-- A partition whose keys are released is not confidential. -/
theorem state_releaseKeys (s : State) (p : Nat) : fg (releaseKeys s p) F.SEC_PART_CTL_STATE p = 0 :=
  (fg_fs_ne _ (f := F.SEC_PART_CTL_CONF) (g := F.SEC_PART_CTL_STATE) 0 p 0 0 rfl (by decide) (by decide)).trans
    (fg_fs_self _ F.SEC_PART_CTL_STATE 0 p 0 0 ⟨by decide, by decide⟩)

theorem spares_queueStore (s : State) (n : Nat) : Spares P s (queueStore s n) := by
  unfold queueStore
  split <;> exact ⟨rfl, rfl, fun _ _ => rfl⟩

theorem spares_makePak_bumpPartEpoch (s : State) (p : Nat) : Spares (PartKey p) s (makePak (bumpPartEpoch s p) p) := by
  have hepoch : Spares (PartKey p) s (fwrap s F.PORT_DEVID_EPOCH 1 p) := spares_fs s _ (.inl rfl)
  exact ((hepoch.trans (spares_queueStore _ 5)).with_ke _).with_ke _

/-- What an apply does to a partition writes registers of that partition only. -/
theorem spares_settlePart (s : State) (p : Nat) (before : Bool) : Spares (PartKey p) s (settlePart s p before) := by
  simp only [settlePart]
  split
  · exact (spares_fs s 0 (.inl rfl)).trans ((spares_releaseKeys _ p).mono fun _ => .inr)
  · split
    · exact spares_makePak_bumpPartEpoch s p
    · exact .refl _ s

theorem spares_showCrypt (s : State) : Spares CryptKey s (showCrypt s) := by
  refine Spares.foldl (fun dev hdev s => ?_) s
  have hk : CryptKey (regKey .memDevCrypt (if dev < 8 then 0 else 1) (if dev < 8 then dev else dev - 8) 0) := by
    have := List.mem_range.1 hdev
    exact ⟨_, _, by split <;> omega, by split <;> omega, rfl⟩
  exact (spares_fs (f := F.MEM_DEV_CRYPT_EN) s _ hk).trans (spares_fs (f := F.MEM_DEV_CRYPT_PARTITION) _ _ hk)

/-- What an apply does to the partitions, one after the other. -/
def settleParts (was : List Bool) (l : List Nat) (s : State) : State := l.foldl (fun s p => settlePart s p (nth was p false)) s

theorem spares_settleParts (was : List Bool) (l : List Nat) (s : State) : Spares (fun k => ∃ p ∈ l, PartKey p k) s (settleParts was l s) :=
  Spares.foldl (fun p hp s => (spares_settlePart s p _).mono fun _ hk => ⟨p, hp, hk⟩) s

/-- The registers of partitions lie above those of the section apply and of the memory devices. -/
theorem le_of_partKey {p k : Nat} (h : PartKey p k) : 0x520000 ≤ k := by
  obtain rfl | rfl | ⟨j, -, rfl⟩ := h
  · rw [regKey_portDevid]; omega
  · rw [regKey_secPartCtl]; omega
  · rw [regKey_secSlot]; omega

theorem cryptKey_bounds {k : Nat} (h : CryptKey k) : 0x410038 ≤ k ∧ k < 0x520000 := by
  obtain ⟨i, j, hi, hj, rfl⟩ := h
  rw [regKey_memDevCrypt]; omega

/-- The sections of a partition, and so whether it exists, follow from GLB_SECTION_ACTIVE. -/
theorem partExists_congr (h : rd u .glbSectionActive = rd s .glbSectionActive) (p : Nat) : partExists u p = partExists s p := by
  simp only [partExists, sectionsOf, sectionPart, h]

theorem active_settlePart (s : State) (p : Nat) (before : Bool) : rd (settlePart s p before) .glbSectionActive = rd s .glbSectionActive :=
  (spares_settlePart s p before).rd_eq fun hk => absurd (le_of_partKey hk) (by decide)

/-- A partition that ceases releases its device ID and is no longer confidential (R20, R398). -/
theorem settlePart_ceased {p : Nat} (h : partExists s p = false) :
    fg (settlePart s p true) F.PORT_DEVID_VALID p = 0 ∧ fg (settlePart s p true) F.SEC_PART_CTL_STATE p = 0 := by
  have hstep : settlePart s p true = releaseKeys (fs s F.PORT_DEVID_VALID 0 p) p := by simp [settlePart, h]
  have hdev : ¬ SecKey p (regKey .portDevid p 0 0) := by
    simp only [SecKey, regKey_portDevid, regKey_secPartCtl, regKey_secSlot]
    rintro (hk | ⟨j, -, hk⟩) <;> omega
  rw [hstep]
  constructor
  · rw [(spares_releaseKeys _ p).fg_eq (f := F.PORT_DEVID_VALID) hdev]
    exact fg_fs_self s F.PORT_DEVID_VALID 0 p 0 0 ⟨by decide, by decide⟩
  · exact state_releaseKeys _ p

/-- The registers of two partitions are apart. -/
theorem not_partKey_of_ne {p q : Nat} (hp : p < 8) (hq : q < 8) (h : p ≠ q) : ¬ PartKey q (regKey .portDevid p 0 0) ∧ ¬ PartKey q (regKey .secPartCtl p 0 0) := by
  simp only [PartKey, SecKey, regKey_portDevid, regKey_secPartCtl, regKey_secSlot]
  constructor
  · rintro (hk | hk | ⟨j, hj, hk⟩) <;> omega
  · rintro (hk | hk | ⟨j, hj, hk⟩) <;> omega

/-- A partition that existed and no longer does has ceased after its turn, whatever partitions come before and after it. -/
theorem settleParts_ceased {was : List Bool} {l : List Nat} {p : Nat} (hl : ∀ q ∈ l, q < 8) (hp : p ∈ l) (hw : nth was p false = true) (h : partExists s p = false) :
    fg (settleParts was l s) F.PORT_DEVID_VALID p = 0 ∧ fg (settleParts was l s) F.SEC_PART_CTL_STATE p = 0 := by
  induction l generalizing s with
  | nil => cases hp
  | cons q l ih =>
    have hstep : settleParts was (q :: l) s = settleParts was l (settlePart s q (nth was q false)) := rfl
    have hl' : ∀ q ∈ l, q < 8 := fun q hq => hl q (List.mem_cons_of_mem _ hq)
    rw [hstep]
    by_cases hpl : p ∈ l
    · exact ih hl' hpl (by rw [partExists_congr (active_settlePart s q _), h])
    · obtain rfl : p = q := (List.mem_cons.1 hp).resolve_right hpl
      have hs := spares_settleParts was l (settlePart s p (nth was p false))
      have hapart (q : Nat) (hq : q ∈ l) := not_partKey_of_ne (hl p hp) (hl' q hq) fun h => hpl (h ▸ hq)
      have hdev : ¬ ∃ q ∈ l, PartKey q (regKey .portDevid p 0 0) := fun ⟨q, hq, hk⟩ => (hapart q hq).1 hk
      have hctl : ¬ ∃ q ∈ l, PartKey q (regKey .secPartCtl p 0 0) := fun ⟨q, hq, hk⟩ => (hapart q hq).2 hk
      rw [hs.fg_eq (f := F.PORT_DEVID_VALID) hdev, hs.fg_eq (f := F.SEC_PART_CTL_STATE) hctl, hw]
      exact settlePart_ceased h

/-! ### The stores that an apply zeroes -/

/-- Whether a key of memory lies in the store of tile n (Table 1.8). -/
def inStore (n a : Nat) : Bool := decide (keyTile n 0 ≤ a) && decide (a < keyTile n 0 + storeBytes)

theorem keyTile_eq_add (n o : Nat) : keyTile n o = keyTile n 0 + o := by rw [keyTile, keyTile, Nat.add_zero]

theorem inStore_iff {n a : Nat} : inStore n a = true ↔ ∃ o, o < storeBytes ∧ a = keyTile n o := by
  simp only [inStore, Bool.and_eq_true, decide_eq_true_eq]
  constructor
  · exact fun ⟨h1, h2⟩ => ⟨a - keyTile n 0, by omega, by rw [keyTile_eq_add n (a - _)]; omega⟩
  · rintro ⟨o, ho, rfl⟩
    have h := keyTile_eq_add n o
    omega

/-- Only memory and what is known of it and of the tiles changes from `s` to `u`. -/
def OnlyStores (s u : State) : Prop := u = { s with mem := u.mem, flips := u.flips, memc := u.memc, tiles := u.tiles }

theorem OnlyStores.trans (h : OnlyStores s t) (h' : OnlyStores t u) : OnlyStores s u := by
  rw [OnlyStores, h] at h'
  exact h'

theorem OnlyStores.dies_eq (h : OnlyStores s u) : u.dies = s.dies := by
  rw [h]

theorem OnlyStores.regs_eq (h : OnlyStores s u) : u.regs = s.regs := by
  rw [h]

theorem OnlyStores.apply_eq (h : OnlyStores s u) : u.apply = s.apply := by
  rw [h]

theorem onlyStores_foldl {α : Type} {f : State → α → State} (h : ∀ s a, OnlyStores s (f s a)) (l : List α) (s : State) : OnlyStores s (l.foldl f s) :=
  List.foldlRecOn l f rfl fun u hu a _ => hu.trans (h u a)

theorem onlyStores_zeroStore (s : State) (n p : Nat) : OnlyStores s (zeroStore s n p) := rfl

/-- Zero the stores of a list of tiles, which now serve partition p. -/
def zeroStores (p : Nat) (ns : List Nat) (s : State) : State := ns.foldl (fun s n => zeroStore s n p) s

/-- Zero the stores of section k, if a map gives it to a partition. -/
def clearSection (m : Word) (s : State) (k : Nat) : State := if mapField m k < 8 then zeroStores (mapField m k) (sectionTiles s k) s else s

/-- Zero the stores of the sections of a list that a map gives to a partition. -/
def clearSections (m : Word) (ks : List Nat) (s : State) : State := ks.foldl (clearSection m) s

theorem onlyStores_zeroStores (p : Nat) (ns : List Nat) (s : State) : OnlyStores s (zeroStores p ns s) :=
  onlyStores_foldl (fun s n => onlyStores_zeroStore s n p) ns s

theorem onlyStores_clearSection (m : Word) (s : State) (k : Nat) : OnlyStores s (clearSection m s k) := by
  unfold clearSection
  split
  · exact onlyStores_zeroStores ..
  · rfl

theorem onlyStores_clearSections (m : Word) (ks : List Nat) (s : State) : OnlyStores s (clearSections m ks s) := onlyStores_foldl (onlyStores_clearSection m) ks s

theorem sectionTiles_congr (h : u.dies = s.dies) (k : Nat) : sectionTiles u k = sectionTiles s k := by
  simp only [sectionTiles, diePlace, h]

theorem wf_zeroStores (p : Nat) (ns : List Nat) (s : State) (h : Memory.wf s.mem = true) : Memory.wf (zeroStores p ns s).mem = true :=
  List.foldlRecOn ns (fun s n => zeroStore s n p) (motive := fun u => Memory.wf u.mem = true) h fun u hu n _ => zeroBytes_wf u (keyTile n 0) storeBytes hu

theorem memByte_zeroStore (s : State) (n p a : Nat) (h : Memory.wf s.mem = true) :
    memByte (zeroStore s n p).mem a = if inStore n a then 0 else memByte s.mem a := by
  simp only [inStore, Bool.and_eq_true, decide_eq_true_eq]
  exact memByte_memZero s.mem (keyTile n 0) storeBytes a h

/-- After zeroing the stores of some tiles, their bytes read 0 and every other byte reads as before. -/
theorem memByte_zeroStores (p : Nat) (ns : List Nat) (s : State) (a : Nat) (h : Memory.wf s.mem = true) :
    memByte (zeroStores p ns s).mem a = if ns.any (inStore · a) then 0 else memByte s.mem a := by
  induction ns generalizing s with
  | nil => rfl
  | cons n ns ih =>
    have hstep : zeroStores p (n :: ns) s = zeroStores p ns (zeroStore s n p) := rfl
    have hwf : Memory.wf (zeroStore s n p).mem = true := zeroBytes_wf s (keyTile n 0) storeBytes h
    rw [hstep, ih _ hwf, memByte_zeroStore s n p a h, List.any_cons]
    cases inStore n a <;> simp

/-- Whether a key lies in a store that zeroing section k clears. -/
def cleared (m : Word) (s : State) (a k : Nat) : Bool := decide (mapField m k < 8) && (sectionTiles s k).any (inStore · a)

theorem cleared_iff {a k : Nat} : cleared m s a k = true ↔ mapField m k < 8 ∧ ∃ n ∈ sectionTiles s k, ∃ o, o < storeBytes ∧ a = keyTile n o := by
  simp [cleared, inStore_iff]

theorem wf_clearSection (m : Word) (s : State) (k : Nat) (h : Memory.wf s.mem = true) : Memory.wf (clearSection m s k).mem = true := by
  unfold clearSection
  split
  · exact wf_zeroStores _ _ s h
  · exact h

theorem memByte_clearSection (m : Word) (s : State) (k a : Nat) (h : Memory.wf s.mem = true) :
    memByte (clearSection m s k).mem a = if cleared m s a k then 0 else memByte s.mem a := by
  unfold clearSection cleared
  split
  case isTrue hk => simp [hk, memByte_zeroStores _ _ s a h]
  case isFalse hk => simp [hk]

/-- After zeroing the stores of some sections, their bytes read 0 and every other byte reads as before. -/
theorem memByte_clearSections (m : Word) (ks : List Nat) (s : State) (a : Nat) (h : Memory.wf s.mem = true) :
    memByte (clearSections m ks s).mem a = if ks.any (cleared m s a) then 0 else memByte s.mem a := by
  induction ks generalizing s with
  | nil => rfl
  | cons k ks ih =>
    have hstep : clearSections m (k :: ks) s = clearSections m ks (clearSection m s k) := rfl
    have hdies : (clearSection m s k).dies = s.dies := (onlyStores_clearSection m s k).dies_eq
    have htiles : cleared m (clearSection m s k) a = cleared m s a := by
      funext j
      rw [cleared, cleared, sectionTiles_congr hdies]
    rw [hstep, ih _ (wf_clearSection m s k h), memByte_clearSection m s k a h, htiles, List.any_cons]
    cases cleared m s a k <;> simp

/-! ### The completion of an apply -/

/-- The map in GLB_SECTION_ACTIVE with RESULT 2, and the apply over. -/
def adoptMap (s : State) (m : Word) : State := setApplyResult (wr { s with apply := none } .glbSectionActive m) 2

/-- An assignment in force, with what it does to stores, partitions and devices. -/
def enforceMap (s : State) (m : Word) : State :=
  showCrypt (updTge (settleParts ((List.range 8).map (partExists s)) (List.range 8) (clearSections m (changing s m) (adoptMap s m))) fun t => { t with noFit := [] })

theorem exec_sectionApplyComplete (h : s.apply = some (some m)) : exec .sectionApplyComplete s = .next (settled (enforceMap s m)) := by
  simp only [exec, execSectionApplyComplete, h, finish_eq]
  rfl

/-- The keys of the registers that an assignment coming into force writes after it has zeroed the stores. -/
def EnforceKey (k : Nat) : Prop := (∃ p ∈ List.range 8, PartKey p k) ∨ CryptKey k

theorem le_of_enforceKey {k : Nat} (h : EnforceKey k) : 0x410038 ≤ k := by
  obtain ⟨p, -, h⟩ | h := h
  · have := le_of_partKey h
    omega
  · exact (cryptKey_bounds h).1

/-- Once the stores are zeroed, an assignment coming into force writes registers of partitions and devices only. -/
theorem spares_enforceMap (s : State) (m : Word) : Spares EnforceKey (clearSections m (changing s m) (adoptMap s m)) (enforceMap s m) := by
  have hparts := (spares_settleParts ((List.range 8).map (partExists s)) (List.range 8) (clearSections m (changing s m) (adoptMap s m))).mono (Q := EnforceKey) fun _ => .inl
  exact (hparts.updTge _).trans ((spares_showCrypt _).mono fun _ => .inr)

theorem apply_enforceMap (s : State) (m : Word) : (enforceMap s m).apply = none :=
  (spares_enforceMap s m).apply.trans (onlyStores_clearSections ..).apply_eq

/-- The registers below those of the partitions are as the adoption of the map left them. -/
theorem rd_enforceMap (s : State) (m : Word) {r : RegName} (hr : regKey r 0 0 0 < 0x410038) : rd (enforceMap s m) r = rd (adoptMap s m) r := by
  rw [(spares_enforceMap s m).rd_eq fun hk => absurd (le_of_enforceKey hk) (by omega), rd, rd, (onlyStores_clearSections ..).regs_eq]

theorem active_enforceMap (s : State) (m : Word) : rd (enforceMap s m) .glbSectionActive = m := by
  rw [rd_enforceMap s m (by decide), adoptMap, setApplyResult, rd_fs_ne _ _ (by decide), rd_wr_self]

theorem result_enforceMap (s : State) (m : Word) : fg (enforceMap s m) F.GLB_SECTION_STATUS_RESULT = 2 := by
  rw [fg, rd_enforceMap s m (by decide)]
  exact fg_fs_self _ F.GLB_SECTION_STATUS_RESULT 2 0 0 0 ⟨by decide, by decide⟩

/-- The bytes after an apply: zero in the stores of the sections that change to a partition, and elsewhere as before. -/
theorem memByte_enforceMap (s : State) (m : Word) (a : Nat) (h : Memory.wf s.mem = true) :
    memByte (enforceMap s m).mem a = if (changing s m).any (cleared m s a) then 0 else memByte s.mem a := by
  rw [(spares_enforceMap s m).mem]
  exact memByte_clearSections m (changing s m) (adoptMap s m) a h

theorem nth_partExists (s : State) {p : Nat} (hp : p < 8) : nth ((List.range 8).map (partExists s)) p false = partExists s p := by
  simp [nth, hp]

/-- A partition that an apply ends has no valid device ID and is not confidential. -/
theorem enforceMap_ceased {p : Nat} (hp : p < 8) (hs : partExists s p = true) (hu : partExists (enforceMap s m) p = false) :
    fg (enforceMap s m) F.PORT_DEVID_VALID p = 0 ∧ fg (enforceMap s m) F.SEC_PART_CTL_STATE p = 0 := by
  have hcrypt (k : Nat) (hk : PartKey p k) : ¬ CryptKey k := fun hc => absurd (le_of_partKey hk) (Nat.not_le.2 (cryptKey_bounds hc).2)
  have hactive : rd (enforceMap s m) .glbSectionActive = rd (clearSections m (changing s m) (adoptMap s m)) .glbSectionActive :=
    (spares_enforceMap s m).rd_eq fun hk => absurd (le_of_enforceKey hk) (by decide)
  rw [enforceMap, (spares_showCrypt _).fg_eq (hcrypt _ (.inl rfl)), (spares_showCrypt _).fg_eq (hcrypt _ (.inr (.inl rfl)))]
  exact settleParts_ceased (fun q hq => List.mem_range.1 hq) (List.mem_range.2 hp) ((nth_partExists s hp).trans hs) ((partExists_congr hactive p).symm.trans hu)

end Sys2Proof.Machine

open Sys2Proof Sys2Proof.Machine Sys2Proof.Claims

/-- Settles O44: the checks of a start by the rows of Table 1.6, the wait for a re-placement, and the completion by what it writes to registers and to stores. -/
theorem sectionApplyRuns : Obligations.SectionApplyRuns := by
  refine ⟨fun s f v e he hd => ?_, fun s f v hf hv ha hd => ?_, fun s m ha hw => ?_⟩
  · have hr : replacing s = false := replacing_eq_false_iff.2 hd
    have hx : exec e s = .next (settled (startApply s)) := by
      obtain ⟨rfl, hf, hv, ha⟩ | ⟨rfl, ha⟩ := he
      · exact exec_sectionApplyGo_start hf hv ha hr
      · exact exec_sectionApplyStart ha hr
    obtain ⟨hu, hregs⟩ := startApply_frame s
    exact ⟨_, hx, hu, hregs, fun hnamed hheld hoff => started_of_passed (applyCheck_passed hnamed hheld hoff),
      fun hnamed => ended_of_failed (applyCheck_unnamed hnamed) (by decide), fun hnamed hheld => ended_of_failed (applyCheck_unheld hnamed hheld) (by decide),
      fun hnamed hheld hoff => ended_of_failed (applyCheck_enabled hnamed hheld hoff) (by decide)⟩
  · have hr : replacing s = true := by
      obtain ⟨d, hm, hne⟩ := hd
      rw [← Bool.not_eq_false, replacing_eq_false_iff]
      exact fun h => hne (h d hm)
    obtain ⟨hu, hregs⟩ := setApplyResult_frame s (some none) 1
    exact ⟨_, exec_sectionApplyGo_wait hf hv ha hr, hu, hregs, holds_setApplyResult s _ (by decide)⟩
  · refine ⟨_, exec_sectionApplyComplete ha, apply_enforceMap s m, active_enforceMap s m, result_enforceMap s m, fun k hk hm hne n hn a ha => ?_, fun a ha => ?_,
      fun p hp => enforceMap_ceased hp⟩
    · have hc : (changing s m).any (cleared m s (keyTile n a)) = true :=
        List.any_eq_true.2 ⟨k, mem_changing.2 ⟨hk, hne⟩, cleared_iff.2 ⟨hm, n, hn, a, ha, rfl⟩⟩
      rw [memByte_enforceMap s m _ hw, if_pos hc]
    · rw [memByte_enforceMap s m a hw, if_neg]
      intro hc
      obtain ⟨k, hk, hc⟩ := List.any_eq_true.1 hc
      obtain ⟨-, n, hn, o, ho, rfl⟩ := cleared_iff.1 hc
      exact ha k n o (mem_changing.1 hk).1 hn ho rfl

end
